-- ==== Sys2Proof/Word.lean ====
section
/-! DEFINITION. The word types of the K240 (00_scope.md, "Conventions"): bytes, flash addresses, and the bound of
schedule time. -/

namespace Sys2Proof

/-- One byte, as carried on the flash path and held in the mirrors. -/
abbrev Byte := BitVec 8

/-- A 24-bit flash address as the SoC sends it (00_scope.md, "Flash addresses"). -/
abbrev FlashAddr := BitVec 24

/-- The largest schedule time, FFFFFFFFh (00_scope.md, "Schedule time"). -/
def timeMax : Nat := 0xFFFFFFFF

/-- A sum of times, held at FFFFFFFFh (00_scope.md, "Saturation"). -/
def satAdd (a b : Nat) : Nat := min (a + b) timeMax

end Sys2Proof
end

