-- ==== Sys2Proof/Config.lean ====
section
/-! DEFINITION. What the part fixes: the capacities of its tables, the fixed durations, and the free values. -/

namespace Sys2Proof.Config

/-- FREE VALUE (log 6): the recorded code of a command that sent no data byte, which R167 does not give. -/
opaque freeCode : Nat → Byte

/-- Capacities of the record tables (R19). -/
def servicesCap : Nat := 256
def bookingsCap : Nat := 128
def linksCap : Nat := 48
def marksCap : Nat := 512

/-- Capacity of the matched-event table (R31). -/
def matchedCap : Nat := 384

/-- Capacity of the pending-mark list (R57). -/
def pendingCap : Nat := 32

/-- Capacities of the plan table (R80), the clash list and a clash record's opponents (R79, R81). -/
def planCap : Nat := 256
def clashCap : Nat := 128
def opponentCap : Nat := 4

/-- Capacities of the run history (R123) and of the end states (R125). -/
def historyCap : Nat := 64
def endStatesCap : Nat := 128

/-- Capacity of the warned list (R135). -/
def warnedCap : Nat := 256

/-- Capacity of the notice queue (R163). -/
def noticeCap : Nat := 32

/-- Seconds in a day: the horizon's unit (R69) and the grace of the purges (R42, R123). -/
def day : Nat := 86400

/-- Crystal periods in an ordinary second (R91). -/
def secondPeriods : Nat := 32768

/-- The wake deadline, in seconds after the firing (R179). -/
def wakeSeconds : Nat := 600

/-- The busy wait of one ownership, in seconds (R157). -/
def busySeconds : Nat := 400

/-- How far ahead an enabled channel keeps the part out of DORMANT (R176). -/
def dormantGuard : Nat := 60

/-- Bytes in a slot, a page, a sector and a block (00_scope.md, "Units of flash"). -/
def slotSize : Nat := 64
def pageSize : Nat := 256
def sectorSize : Nat := 4096
def blockSize : Nat := 65536

end Sys2Proof.Config
end

