-- ==== Sys2Proof/Syntax.lean ====
section
/-! DEFINITION. The commands of the K240: one constructor of `Instr` per row of spec/opcode_table.json, and the window
commands of 09_report_window_and_commands.md as a type of their own. -/

namespace Sys2Proof

/-- The two tuners (00_scope.md, "Tuners"). -/
inductive Tuner where
  | A
  | B
  deriving DecidableEq, Repr

/-- The fourteen window commands of 9.4, each with its argument. -/
inductive Command where
  | ackNotices (n : Byte)
  | clearFlags (mask : BitVec 16)
  | setAttnMask (mask : BitVec 16)
  | setTime (time : BitVec 32)
  | confirmStart (ref : BitVec 32)
  | reportFailure (ref : BitVec 32)
  | view (service : BitVec 16)
  | viewEnd
  | keepViewing (ref : BitVec 32)
  | lend (ms : BitVec 16)
  | standby
  | replan
  | guardAnchor
  | rescan
  deriving DecidableEq, Repr

/-- The rows of spec/opcode_table.json. A SoC selection carries its instruction code, so that the class table in force
decodes it (R141); `whole` says that the selection ended on a byte boundary (an erase: directly after its third address
byte), `counted` that it ended directly after the code's eighth clock. Status responses and sector data come from the
flash and are operands. -/
inductive Instr where
  | coldReset
  | warmReset
  | vddFall
  | pwrgoodRise
  | pwrgoodFall
  | counterAdvance
  /-- `count` data bytes are clocked after the class's dummy clocks. -/
  | read (code : Byte) (addr : FlashAddr) (count : Nat)
  | clockLatchRead
  | replanToggleRead
  | program (code : Byte) (addr : FlashAddr) (data : List Byte) (whole : Bool)
  | eraseSector (code : Byte) (addr : FlashAddr) (whole : Bool)
  | eraseBlock (code : Byte) (addr : FlashAddr) (whole : Bool)
  | eraseChip (code : Byte) (counted : Bool)
  | writeStatus (code : Byte) (data : List Byte) (whole : Bool)
  | readStatus (code : Byte) (response : List Byte)
  | writeEnable (code : Byte) (counted : Bool)
  | writeDisable (code : Byte) (counted : Bool)
  | suspend (code : Byte) (counted : Bool)
  | resume (code : Byte) (counted : Bool)
  | resetArm (code : Byte) (counted : Bool)
  | flashReset (code : Byte) (counted : Bool)
  | powerDown (code : Byte) (counted : Bool)
  | release (code : Byte) (counted : Bool)
  | detaching (code : Byte) (counted : Bool)
  /-- Any selection, as its raw bytes after the code. -/
  | otherInstruction (code : Byte) (sent : List Byte) (whole : Bool)
  | writeDeadlineExpiry
  | ackNotices (n : Byte)
  | clearFlags (mask : BitVec 16)
  | setAttnMask (mask : BitVec 16)
  | setTime (time : BitVec 32)
  | confirmStart (ref : BitVec 32)
  | reportFailure (ref : BitVec 32)
  | view (service : BitVec 16)
  | viewEnd
  | keepViewing (ref : BitVec 32)
  | lend (ms : BitVec 16)
  | standby
  | replan
  | guardAnchor
  | rescan
  /-- A program into the command page at `offset`, with all the bytes sent. -/
  | invalidCommand (offset : Byte) (sent : List Byte)
  | startEvent (tuner : Tuner)
  | stopEvent (tuner : Tuner)
  | confirmEvent
  | warnEvent
  | wakeEvent
  | replanPublish
  /-- The responses of the status reads made before the sector's READ. -/
  | sectorReadStart (responses : List Byte)
  | busyWaitTimeout
  | mirrorSectorVerify (data : List Byte)
  | guideSectorVerify (data : List Byte)
  | guideSectorScan (data : List Byte)
  | lendExpiry
  | wakeDeadlineExpiry
  | standbyStatusPoll (response : List Byte)
  deriving DecidableEq, Repr

end Sys2Proof
end

