-- ==== Sys2Proof/Decode.lean ====
section
/-! DEFINITION. Decoding: the table gives no row any bits, so `decodeTableWord` spells no command; and the bytes of a
window command (R167, R183), decoded by `parseCommand` and written by `encodeCommand`. Little-endian helpers stand here
too. -/

namespace Sys2Proof

/-- No row of spec/opcode_table.json gives bits: no word spells a command. -/
def decodeTableWord (_nbits _w : Nat) : Option Instr := none

/-- Byte `i` of a value, least significant first (00_scope.md, "Byte order"). -/
def byteOf (v i : Nat) : Byte := BitVec.ofNat 8 (v >>> (8 * i))

/-- The `n` low bytes of a value, little-endian. -/
def leBytes (n v : Nat) : List Byte := (List.range n).map (byteOf v)

/-- The value of little-endian bytes. -/
def leValue : List Byte → Nat
  | [] => 0
  | b :: bs => b.toNat + 256 * leValue bs

/-- The results of a command, with their codes in `resultCode` (R183). -/
inductive CmdResult where
  | ok
  | badCode
  | badLength
  | badArg
  | unknownRef
  | tooLate
  | notNow
  deriving DecidableEq, Repr

/-- The result byte of the command page (R183). -/
def resultCode : CmdResult → Byte
  | .ok => 0x00
  | .badCode => 0x01
  | .badLength => 0x02
  | .badArg => 0x03
  | .unknownRef => 0x04
  | .tooLate => 0x05
  | .notNow => 0x06

/-- The code byte of a command (the command table of 9.4). -/
def commandCode : Command → Byte
  | .ackNotices _ => 0x01
  | .clearFlags _ => 0x02
  | .setAttnMask _ => 0x03
  | .setTime _ => 0x04
  | .confirmStart _ => 0x05
  | .reportFailure _ => 0x06
  | .view _ => 0x07
  | .viewEnd => 0x08
  | .keepViewing _ => 0x09
  | .lend _ => 0x0A
  | .standby => 0x0B
  | .replan => 0x0C
  | .guardAnchor => 0x0D
  | .rescan => 0x0E

/-- A command's bytes: its code, then its argument, little-endian (R183). -/
def encodeCommand (c : Command) : List Byte :=
  commandCode c :: match c with
    | .ackNotices n => [n]
    | .clearFlags m | .setAttnMask m => leBytes 2 m.toNat
    | .setTime t => leBytes 4 t.toNat
    | .confirmStart r | .reportFailure r | .keepViewing r => leBytes 4 r.toNat
    | .view v => leBytes 2 v.toNat
    | .lend ms => leBytes 2 ms.toNat
    | .viewEnd | .standby | .replan | .guardAnchor | .rescan => []

/-- The command's length in bytes, code included, for a code the table lists (9.4). -/
def commandLength (code : Byte) : Option Nat :=
  match code.toNat with
  | 0x01 => some 2
  | 0x02 => some 3
  | 0x03 => some 3
  | 0x04 => some 5
  | 0x05 => some 5
  | 0x06 => some 5
  | 0x07 => some 3
  | 0x08 => some 1
  | 0x09 => some 5
  | 0x0A => some 3
  | 0x0B => some 1
  | 0x0C => some 1
  | 0x0D => some 1
  | 0x0E => some 1
  | _ => none

/-- The command a code and an argument of the right length spell (9.4). -/
def commandOf (code : Byte) (arg : List Byte) : Command :=
  match code.toNat with
  | 0x01 => .ackNotices (BitVec.ofNat 8 (leValue arg))
  | 0x02 => .clearFlags (BitVec.ofNat 16 (leValue arg))
  | 0x03 => .setAttnMask (BitVec.ofNat 16 (leValue arg))
  | 0x04 => .setTime (BitVec.ofNat 32 (leValue arg))
  | 0x05 => .confirmStart (BitVec.ofNat 32 (leValue arg))
  | 0x06 => .reportFailure (BitVec.ofNat 32 (leValue arg))
  | 0x07 => .view (BitVec.ofNat 16 (leValue arg))
  | 0x08 => .viewEnd
  | 0x09 => .keepViewing (BitVec.ofNat 32 (leValue arg))
  | 0x0A => .lend (BitVec.ofNat 16 (leValue arg))
  | 0x0B => .standby
  | 0x0C => .replan
  | 0x0D => .guardAnchor
  | _ => .rescan

/-- What the first four checks of R167 find: a command, or the failing answer with its recorded code (`none`: no data
byte was sent, and R167 gives no recorded code; log 6). -/
inductive Parsed where
  | command (c : Command)
  | failed (code : Option Byte) (r : CmdResult)
  deriving DecidableEq, Repr

/-- Checks 1 to 4 of R167: offset, size, code, length. `sent` is every byte the SoC sent; at most 256 pass check 2, so the
bytes FPX keeps (the last 256, R152) are then all of them. -/
def parseCommand (offset : Byte) (sent : List Byte) : Parsed :=
  if offset ≠ 0 then .failed (some 0xFF) .badLength
  else if 256 < sent.length then .failed (some 0xFF) .badLength
  else match sent with
    | [] => .failed none .badCode
    | code :: arg =>
      match commandLength code with
      | none => .failed (some code) .badCode
      | some n => if arg.length + 1 = n then .command (commandOf code arg) else .failed (some code) .badLength

/-- Check 5 of R167: the argument's range. -/
def argOk : Command → Bool
  | .ackNotices n => 1 ≤ n.toNat && n.toNat ≤ 32
  | .view v => v ≠ 0 && v ≠ 0xFFFF
  | .lend ms => 1 ≤ ms.toNat && ms.toNat ≤ 60000
  | _ => true

/-- The row of the table that stands for a window command (9.4). -/
def Command.row : Command → Instr
  | .ackNotices n => .ackNotices n
  | .clearFlags m => .clearFlags m
  | .setAttnMask m => .setAttnMask m
  | .setTime t => .setTime t
  | .confirmStart r => .confirmStart r
  | .reportFailure r => .reportFailure r
  | .view v => .view v
  | .viewEnd => .viewEnd
  | .keepViewing r => .keepViewing r
  | .lend ms => .lend ms
  | .standby => .standby
  | .replan => .replan
  | .guardAnchor => .guardAnchor
  | .rescan => .rescan

/-- The window command a row stands for, where it does. -/
def Instr.command : Instr → Option Command
  | .coldReset | .warmReset | .vddFall | .pwrgoodRise | .pwrgoodFall | .counterAdvance => none
  | .read .. | .clockLatchRead | .replanToggleRead | .program .. | .eraseSector .. | .eraseBlock .. => none
  | .eraseChip .. | .writeStatus .. | .readStatus .. | .writeEnable .. | .writeDisable .. | .suspend .. => none
  | .resume .. | .resetArm .. | .flashReset .. | .powerDown .. | .release .. | .detaching .. => none
  | .otherInstruction .. | .writeDeadlineExpiry | .invalidCommand .. => none
  | .startEvent _ | .stopEvent _ | .confirmEvent | .warnEvent | .wakeEvent | .replanPublish => none
  | .sectorReadStart _ | .busyWaitTimeout | .mirrorSectorVerify _ | .guideSectorVerify _ | .guideSectorScan _ => none
  | .lendExpiry | .wakeDeadlineExpiry | .standbyStatusPoll _ => none
  | .ackNotices n => some (.ackNotices n)
  | .clearFlags m => some (.clearFlags m)
  | .setAttnMask m => some (.setAttnMask m)
  | .setTime t => some (.setTime t)
  | .confirmStart r => some (.confirmStart r)
  | .reportFailure r => some (.reportFailure r)
  | .view v => some (.view v)
  | .viewEnd => some .viewEnd
  | .keepViewing r => some (.keepViewing r)
  | .lend ms => some (.lend ms)
  | .standby => some .standby
  | .replan => some .replan
  | .guardAnchor => some .guardAnchor
  | .rescan => some .rescan

end Sys2Proof
end

