-- ==== Sys2Proof/Machine/Memory.lean ====
section
/-! DEFINITION. The mirrors' memory (R1, R2, R3, R18, R25): bytes by offset, in one canonical form. An unlisted byte reads
FFh, the value every mirror byte has at reset (R25) and after an erase (R3). -/

namespace Sys2Proof.Machine

/-- A mirror: cells at strictly rising offsets, none of them FFh. -/
abbrev Memory := List Host.Cell

/-- What an unlisted byte reads as: FFh (R25). -/
def Memory.blank : Byte := 0xFF

/-- One byte of a mirror. -/
def Memory.read : Memory → Nat → Byte
  | [], _ => Memory.blank
  | (a, b) :: rest, at_ => if a = at_ then b else Memory.read rest at_

/-- The byte at `at_` becomes `v`; FFh is kept unlisted. -/
def Memory.write : Memory → Nat → Byte → Memory
  | [], at_, v => if v = Memory.blank then [] else [(at_, v)]
  | (a, b) :: rest, at_, v =>
    if at_ < a then (if v = Memory.blank then (a, b) :: rest else (at_, v) :: (a, b) :: rest)
    else if at_ = a then (if v = Memory.blank then rest else (at_, v) :: rest)
    else (a, b) :: Memory.write rest at_ v

/-- Every byte of [lo, lo + len) becomes FFh (R3). -/
def Memory.erase (m : Memory) (lo len : Nat) : Memory :=
  m.filter fun c => c.1 < lo || lo + len ≤ c.1

/-- The cells of consecutive bytes from offset `lo`. -/
def Memory.ofBytes (lo : Nat) : List Byte → Memory
  | [] => []
  | b :: bs => if b = Memory.blank then Memory.ofBytes (lo + 1) bs else (lo, b) :: Memory.ofBytes (lo + 1) bs

/-- The bytes of `data` replace [lo, lo + data.length) (R18). -/
def Memory.replace (m : Memory) (lo : Nat) (data : List Byte) : Memory :=
  m.filter (fun c => c.1 < lo) ++ Memory.ofBytes lo data ++ m.filter (fun c => lo + data.length ≤ c.1)

/-- The bytes of [lo, lo + len). -/
def Memory.slice (m : Memory) (lo len : Nat) : List Byte :=
  (List.range len).map fun i => m.read (lo + i)

/-- A program's AND at one offset (R2). -/
def Memory.clearBits (m : Memory) (at_ : Nat) (v : Byte) : Memory :=
  m.write at_ (m.read at_ &&& v)

/-- The canonical form: strictly rising offsets, no listed FFh. -/
def Memory.wf : Memory → Bool
  | [] => true
  | [(_, b)] => b != Memory.blank
  | (a, b) :: (a', b') :: rest => b != Memory.blank && decide (a < a') && Memory.wf ((a', b') :: rest)

end Sys2Proof.Machine
end

