-- ==== Sys2Proof/Machine/Types.lean ====
section
/-! DEFINITION. The types of the K240's state, block by block. Schedule times, ids, refs and flash addresses held in
tables are natural numbers; what the SoC reads as bits stays a bit vector. -/

namespace Sys2Proof.Machine

/-! ### Flash path -/

/-- The instruction classes of R141, less OTHER (a code the class table does not list). -/
inductive InstrClass where
  | read
  | fastRead
  | program
  | eraseSector
  | eraseBlock
  | eraseChip
  | writeEnable
  | writeDisable
  | readStatus
  | writeStatus
  | suspend
  | resume
  | resetArm
  | reset
  | powerDown
  | release
  | detaching
  deriving DecidableEq, Repr

/-- One code of the class table with its dummy clocks and data width (R14). -/
structure ClassEntry where
  code : Byte
  cls : InstrClass
  dummy : Nat
  width : Nat
  deriving DecidableEq, Repr

/-- The class table in force and the busy-bit position (R14, R145). -/
structure ClassTable where
  entries : List ClassEntry
  busyBit : Nat
  deriving DecidableEq, Repr

/-- The kinds of write the tracker holds (R145). -/
inductive WriteKind where
  | program
  | eraseSector
  | eraseBlock
  | eraseChip
  | writeStatus
  deriving DecidableEq, Repr

/-- A range of flash addresses [lo, lo + len); a WRITE_STATUS has none (R144), held as length 0. -/
structure FlashRange where
  lo : Nat
  len : Nat
  deriving DecidableEq, Repr

/-- The in-flight write; its deadline is a moment on the crystal count (R145). -/
structure InFlight where
  kind : WriteKind
  range : FlashRange
  deadline : Nat
  deriving DecidableEq, Repr

/-- The suspended write, with the crystal periods its deadline had still to run (R147). -/
structure Suspended where
  kind : WriteKind
  range : FlashRange
  remaining : Nat
  deriving DecidableEq, Repr

/-- What a sector is read for (R156, R157). -/
inductive Purpose where
  | mirror
  | guideVerify
  | guideScan
  deriving DecidableEq, Repr

/-- The scan engine (R156, R157): idle, waiting for the busy bit before a sector, or reading its data. -/
inductive ScanState where
  | idle
  | waiting (sector : Nat) (purpose : Purpose)
  | reading (sector : Nat) (purpose : Purpose)
  deriving DecidableEq, Repr

/-- A lend in progress (R155): when it began, its length in milliseconds, the sectors read, and whether the length has
run out while a sector's data is being read. -/
structure Lend where
  start : Nat
  ms : Nat
  read : Nat
  expired : Bool
  deriving DecidableEq, Repr

inductive PathOwner where
  | soc
  | k240
  deriving DecidableEq, Repr

/-- What the flash port carries in a step (log 18): a SoC selection forwarded, a SoC selection whose select is withdrawn so
that the flash discards it (R151 to R153), or an instruction of the K240's own. -/
inductive FlashOp where
  | forward (code : Byte)
  | cut (code : Byte)
  | own (code : Byte) (addr : Option Nat) (dummy width : Nat)
  deriving DecidableEq, Repr

/-- What the last step showed at the two ports. A byte read through from the flash is `none`: the flash drives it. -/
structure Ports where
  soc : List (Option Byte)
  flash : List FlashOp
  deriving DecidableEq, Repr

structure Fpx where
  classTable : ClassTable
  wel : Bool
  resetArm : Bool
  inFlight : Option InFlight
  suspended : Option Suspended
  asleep : Bool
  attached : Bool
  owner : PathOwner
  guard : Bool
  scan : ScanState
  firstPoll : Option Nat
  gaveUp : Bool
  lend : Option Lend
  deriving DecidableEq, Repr

/-! ### Record store -/

/-- A slot's resolved state (R5). -/
inductive SlotState where
  | blank
  | opened
  | live
  | retired
  | damaged
  | doubtful
  deriving DecidableEq, Repr

/-- Tag bytes; an absent tag is empty (R29). -/
abbrev Tag := List Byte

structure ServiceRec where
  id : Nat
  revision : Nat
  slot : Nat
  multiplex : Nat
  feed : Nat
  deriving DecidableEq, Repr

structure BookingRec where
  id : Nat
  revision : Nat
  slot : Nat
  service : Nat
  start : Nat
  duration : Nat
  prePad : Option Nat
  postPad : Option Nat
  event : Option Nat
  finished : Bool
  deriving DecidableEq, Repr

structure LinkRec where
  id : Nat
  revision : Nat
  slot : Nat
  rank : Nat
  newOnly : Bool
  service : Option Nat
  prePad : Option Nat
  postPad : Option Nat
  tag : Tag
  deriving DecidableEq, Repr

/-- A mark key with the lowest slot that carries it (R16). -/
structure MarkRec where
  link : Nat
  tag : Tag
  part : Nat
  slot : Nat
  deriving DecidableEq, Repr

/-- The records of the four kinds, each list ascending by slot address (R19). -/
structure Records where
  services : List ServiceRec
  bookings : List BookingRec
  links : List LinkRec
  marks : List MarkRec
  deriving DecidableEq, Repr

inductive Mode where
  | single
  | twin
  | twinLooped
  deriving DecidableEq, Repr

/-- The layout group of the configuration (1.8); no schedule base and no guide base while unconfigured. -/
structure LayoutGroup where
  schedule : Option Nat
  guideBase : Option Nat
  guideBlocks : Nat
  window : Nat
  deriving DecidableEq, Repr

structure TunerGroup where
  mode : Mode
  perTuner : Nat
  total : Nat
  deriving DecidableEq, Repr

structure ScheduleGroup where
  prePad : Nat
  postPad : Nat
  wakeLead : Nat
  confirmTimeout : Nat
  warningLead : Nat
  horizon : Nat
  stepLimit : Nat
  deriving DecidableEq, Repr

structure Cfg where
  layout : LayoutGroup
  tuner : TunerGroup
  schedule : ScheduleGroup
  deriving DecidableEq, Repr

/-- A CONFIG record as resolved, with its slot's flash address (R12, R15). -/
structure ConfigRec where
  slot : Nat
  revision : Nat
  cfg : Cfg
  deriving DecidableEq, Repr

/-- An OPCODES record as resolved; entries whose class byte names no class are gone (R14). -/
structure OpcodesRec where
  slot : Nat
  revision : Nat
  busyBit : Option Nat
  entries : List ClassEntry
  deriving DecidableEq, Repr

structure Rst where
  anchor : Memory
  schedule : Memory
  reported : List Nat
  rejected : List Nat
  verify : List Nat
  tables : Records
  leftOut : Records
  effConfig : Option ConfigRec
  effOpcodes : Option OpcodesRec
  adopted : Bool
  inForce : Cfg
  deferred : Option TunerGroup
  deriving DecidableEq, Repr

/-! ### Guide matcher and series engine -/

/-- A guide event's fields after clamping (R29). -/
structure Event where
  id : Nat
  version : Nat
  service : Nat
  start : Nat
  duration : Nat
  first : Bool
  part : Nat
  partCount : Nat
  series : Tag
  episode : Tag
  deriving DecidableEq, Repr

/-- An entry of the matched-event table (R31). -/
structure MatchedEntry where
  slot : Nat
  event : Event
  linked : Bool
  named : Bool
  displacing : Bool
  doubtful : Bool
  effective : Bool
  deriving DecidableEq, Repr

structure Gmx where
  entries : List MatchedEntry
  deriving DecidableEq, Repr

/-- An episode key (R46). -/
inductive EpisodeKey where
  | tagged (link : Nat) (episode : Tag) (part : Nat)
  | untagged (event : Nat) (part : Nat)
  deriving DecidableEq, Repr

/-- A pending key with the ref of the run that ended (3.6). -/
structure PendingKey where
  key : EpisodeKey
  ref : Nat
  deriving DecidableEq, Repr

structure Ser where
  pendingMarks : List PendingKey
  scanRequest : Option Nat
  deriving DecidableEq, Repr

/-! ### Planner -/

/-- One showing of a candidate; a manual candidate's showing is its booking's event id or absent (R63, R80). -/
structure Showing where
  event : Option Nat
  service : Nat
  start : Nat
  duration : Nat
  part : Nat
  partCount : Nat
  deriving DecidableEq, Repr

/-- The link and key a series candidate came from (R54). -/
structure Origin where
  link : Nat
  key : EpisodeKey
  deriving DecidableEq, Repr

/-- A candidate (R54, R63): a manual one has rank 0, no alternates and no origin. -/
structure Candidate where
  ref : Nat
  rank : Nat
  prePad : Option Nat
  postPad : Option Nat
  showing : Showing
  alternates : List Showing
  origin : Option Origin
  deriving DecidableEq, Repr

inductive PlanStatus where
  | pinned
  | placed
  | trimmed
  | moved
  | clash
  deriving DecidableEq, Repr

/-- An entry of the plan table (R80), with the origin its waiting entry inherits (R110). -/
structure PlanEntry where
  ref : Nat
  status : PlanStatus
  tuner : Option Tuner
  wstart : Nat
  wend : Nat
  cstart : Nat
  cend : Nat
  service : Nat
  showing : Option Nat
  part : Nat
  partCount : Nat
  origin : Option Origin
  generation : BitVec 32
  deriving DecidableEq, Repr

/-- A clash record (R81). -/
structure ClashRec where
  ref : Nat
  wstart : Nat
  cend : Nat
  opponents : List Nat
  more : Bool
  generation : BitVec 32
  deriving DecidableEq, Repr

/-- A published plan with its header values (R80 to R82). -/
structure Plan where
  entries : List PlanEntry
  clashes : List ClashRec
  deferred : Nat
  overCount : Nat
  truncated : Bool
  deriving DecidableEq, Repr

/-! ### Runs -/

inductive RunState where
  | starting
  | recording
  deriving DecidableEq, Repr

/-- A manual run's booking revision (R125), or a series run's event, link and key (R108). -/
inductive RunKind where
  | manual (revision : Nat)
  | series (event : Nat) (origin : Origin)
  deriving DecidableEq, Repr

/-- An active run (R108). -/
structure ActiveRun where
  ref : Nat
  kind : RunKind
  tuner : Tuner
  service : Nat
  multiplex : Nat
  feed : Nat
  recStart : Nat
  recService : Nat
  state : RunState
  actualStart : Nat
  late : Bool
  windowEnd : Nat
  deadline : Option Nat
  showing : Option Nat
  part : Nat
  partCount : Nat
  deriving DecidableEq, Repr

/-- Why a start was refused (R113). -/
inductive Cause where
  | viewer
  | tuner
  deriving DecidableEq, Repr

/-- A waiting entry (R110); `blocked` holds the mark with the cause of the last refusal. -/
structure WaitingEntry where
  ref : Nat
  tuner : Tuner
  wstart : Nat
  wend : Nat
  service : Nat
  showing : Option Nat
  part : Nat
  partCount : Nat
  origin : Option Origin
  blocked : Option Cause
  deriving DecidableEq, Repr

inductive MissReason where
  | late
  | noConfirm
  | noTuner
  | viewer
  deriving DecidableEq, Repr

/-- The outcomes of ENDED, and DECLINED (chapter 6). -/
inductive RunOutcome where
  | complete
  | partly
  | missed (reason : MissReason)
  | failed
  | cancelled
  | cut
  | declined
  deriving DecidableEq, Repr

/-- A history entry (R118, R123): `endTime` is the actual stop of a run (R103), the end of a waiting entry, and none for an
entry declined, to which R122 gives no end time (log 51). -/
structure HistoryEntry where
  ref : Nat
  outcome : RunOutcome
  endTime : Option Nat
  windowEnd : Nat
  deriving DecidableEq, Repr

structure EndState where
  booking : Nat
  revision : Nat
  outcome : RunOutcome
  deriving DecidableEq, Repr

/-- The run engine (R108, R110, R123, R125). `changed` holds the refs that a record change has taken off the waiting list since
the last snapshot: a plan computed before the change cannot bring them back (R121, log 52). -/
structure RunEngine where
  runs : List ActiveRun
  waiting : List WaitingEntry
  history : List HistoryEntry
  endStates : List EndState
  changed : List Nat
  deriving DecidableEq, Repr

/-- A pinned run of the snapshot, with the showing and pads its record gives, when it has one (R64, R70). -/
structure PinnedRun where
  run : ActiveRun
  record : Option (Showing × Option Nat × Option Nat)
  deriving DecidableEq, Repr

/-- The planner's snapshot (R65). -/
structure Snapshot where
  now : Nat
  tuner : TunerGroup
  prePad : Nat
  postPad : Nat
  horizon : Nat
  services : List ServiceRec
  candidates : List Candidate
  pinned : List PinnedRun
  viewer : Option Tuner
  deriving DecidableEq, Repr

/-- The planner (R89); RUNNING is a held snapshot, IDLE is none. -/
structure Pln where
  snapshot : Option Snapshot
  stale : Bool
  plan : Plan
  generation : BitVec 32
  toggle : Bool
  published : Bool
  deriving DecidableEq, Repr

/-! ### Clock -/

/-- The seven compare channels (5.5). -/
inductive Channel where
  | start (t : Tuner)
  | stop (t : Tuner)
  | confirm
  | warn
  | wake
  deriving DecidableEq, Repr

structure ChannelState where
  value : Nat
  enabled : Bool
  deriving DecidableEq, Repr

structure Channels where
  startA : ChannelState
  startB : ChannelState
  stopA : ChannelState
  stopB : ChannelState
  confirm : ChannelState
  warn : ChannelState
  wake : ChannelState
  deriving DecidableEq, Repr

/-- The waiting entry WAKE was loaded for: its window start, ref and planned tuner (R178, R179). -/
structure WakeTarget where
  wstart : Nat
  ref : Nat
  tuner : Tuner
  deriving DecidableEq, Repr

/-- A compare event waiting for its owner (R101), with the crystal count at the firing (the wake deadline is timed from it,
R179) and, for WAKE, the entry it was loaded for. -/
structure CompareEvent where
  channel : Channel
  time : Nat
  crystal : Nat
  target : Option WakeTarget
  deriving DecidableEq, Repr

structure Clk where
  counter : Nat
  prescaler : Nat
  secondLen : Nat
  crystal : Nat
  trim : Int
  lastSet : Option Nat
  valid : Bool
  channels : Channels
  events : List CompareEvent
  deriving DecidableEq, Repr

/-! ### Tuners -/

/-- A tuner record (R127); the viewer flag and the viewer service are one option, and the state follows by
`TunerRec.state`. -/
structure TunerRec where
  multiplex : Option Nat
  feed : Option Nat
  streams : Nat
  viewer : Option Nat
  deriving DecidableEq, Repr

inductive TunerState where
  | idle
  | view
  | recording
  | shared
  deriving DecidableEq, Repr

structure Tun where
  a : TunerRec
  b : TunerRec
  warned : List Nat
  deriving DecidableEq, Repr

/-! ### Report unit -/

/-- The notice kinds (R162, R182). -/
inductive NoticeKind where
  | start
  | stop
  | missed
  | handoverWarning
  | viewGranted
  | viewRefused
  | viewLost
  | planPublished
  | tableFull
  | recordDamaged
  | configRejected
  | configDeferred
  | configApplied
  | mirrorCorrected
  | guardBlocked
  | lendDone
  | timeStepped
  | clockWrapped
  | wakeIssued
  | wakeFailed
  | startupDone
  deriving DecidableEq, Repr

/-- A notice (9.2). -/
structure Notice where
  kind : NoticeKind
  tuner : Option Tuner
  detail : Int
  time : Nat
  ref : Nat
  aux : Int
  deriving DecidableEq, Repr

structure Rep where
  notices : List Notice
  sticky : BitVec 16
  mask : BitVec 16
  lastCode : Byte
  lastResult : Byte
  lastCounter : Byte
  counter : Byte
  latch : BitVec 24
  deriving DecidableEq, Repr

/-! ### Power and wake -/

inductive PowerState where
  | startUp
  | run
  | standby
  | dormant
  deriving DecidableEq, Repr

/-- A wake in progress: the deadline on the crystal count, and what WAKE_FAILED repeats (R179). -/
structure Waking where
  deadline : Nat
  ref : Nat
  fired : Nat
  deriving DecidableEq, Repr

structure Pwc where
  power : PowerState
  waking : Option Waking
  wokenFor : Option Nat
  wakeTarget : Option WakeTarget
  sleepNote : Option Byte
  socrst : Bool
  wakeLine : Bool
  handBack : Bool
  startupReads : Nat
  cold : Bool
  deriving DecidableEq, Repr

/-- The flash size straps FSIZE1, FSIZE0 (1.1). -/
inductive FlashSize where
  | mib2
  | mib4
  | mib8
  | mib16
  deriving DecidableEq, Repr

/-- The board's straps, supply and input line. -/
structure Pins where
  fsize : FlashSize
  pwrgood : Bool
  vdd : Bool
  deriving DecidableEq, Repr

end Sys2Proof.Machine
end

