-- ==== Sys2Proof/Machine/Defaults.lean ====
section
/-! DEFINITION. The built-in values of the part: flash geometry by the FSIZE straps, the built-in class table, the
unconfigured defaults, and the values each block's state takes at a reset. -/

namespace Sys2Proof.Machine

/-- The flash size in bytes (1.1). -/
def FlashSize.bytes : FlashSize → Nat
  | .mib2 => 0x200000
  | .mib4 => 0x400000
  | .mib8 => 0x800000
  | .mib16 => 0x1000000

/-- The anchor: the highest sector of the flash (1.1). -/
def FlashSize.anchor (f : FlashSize) : Nat := f.bytes - Config.sectorSize

/-- The anchor's block (1.1). -/
def FlashSize.anchorBlock (f : FlashSize) : Nat := f.bytes - Config.blockSize

/-- The default window: the block just below the anchor's block (R12). -/
def FlashSize.defaultWindow (f : FlashSize) : Nat := f.bytes - 2 * Config.blockSize

/-- The built-in class table (R14). -/
def builtinEntries : List ClassEntry :=
  [ ⟨0x03, .read, 0, 1⟩, ⟨0x0B, .fastRead, 8, 1⟩, ⟨0x02, .program, 0, 1⟩, ⟨0x20, .eraseSector, 0, 1⟩,
    ⟨0xD8, .eraseBlock, 0, 1⟩, ⟨0xC7, .eraseChip, 0, 1⟩, ⟨0x60, .eraseChip, 0, 1⟩, ⟨0x06, .writeEnable, 0, 1⟩,
    ⟨0x04, .writeDisable, 0, 1⟩, ⟨0x05, .readStatus, 0, 1⟩ ]

/-- The class table when no OPCODES record is effective; the busy bit is bit 0 (R14). -/
def builtinTable : ClassTable := ⟨builtinEntries, 0⟩

/-- The tuner group's defaults (R12). -/
def defaultTunerGroup : TunerGroup := ⟨.twin, 2, 3⟩

/-- The schedule group's defaults (R12). -/
def defaultScheduleGroup : ScheduleGroup := ⟨2, 5, 180, 30, 60, 14, 2⟩

/-- The unconfigured layout: no schedule partition, no guide, the default window (1.8). -/
def unconfiguredLayout (f : FlashSize) : LayoutGroup := ⟨none, none, 0, f.defaultWindow⟩

/-- The configuration when no CONFIG is effective (1.8). -/
def unconfigured (f : FlashSize) : Cfg := ⟨unconfiguredLayout f, defaultTunerGroup, defaultScheduleGroup⟩

def Records.empty : Records := ⟨[], [], [], []⟩

def Plan.empty : Plan := ⟨[], [], 0, 0, false⟩

/-- FPX after a cold or warm reset (R158). -/
def Fpx.afterReset : Fpx :=
  { classTable := builtinTable, wel := false, resetArm := false, inFlight := none, suspended := none, asleep := false,
    attached := true, owner := .k240, guard := false, scan := .idle, firstPoll := none, gaveUp := false, lend := none }

/-- RST after a cold or warm reset (R25). -/
def Rst.afterReset (f : FlashSize) : Rst :=
  { anchor := [], schedule := [], reported := [], rejected := [], verify := [f.anchor], tables := Records.empty,
    leftOut := Records.empty, effConfig := none, effOpcodes := none, adopted := false, inForce := unconfigured f,
    deferred := none }

/-- GMX after a cold or warm reset (R43). -/
def Gmx.afterReset : Gmx := ⟨[]⟩

/-- SER after a cold or warm reset (R62). -/
def Ser.afterReset : Ser := ⟨[], none⟩

/-- PLN after a cold or warm reset (R89). -/
def Pln.afterReset : Pln :=
  { snapshot := none, stale := false, plan := Plan.empty, generation := 0, toggle := false, published := false }

/-- A compare channel after either reset: value 0, disabled (R107). -/
def ChannelState.off : ChannelState := ⟨0, false⟩

def Channels.afterReset : Channels := ⟨.off, .off, .off, .off, .off, .off, .off⟩

/-- CLK after a cold reset (R106, R107). The crystal count is the model's own time base and starts at `crystal`. -/
def Clk.afterCold (crystal : Nat) : Clk :=
  { counter := 0, prescaler := 0, secondLen := Config.secondPeriods, crystal := crystal, trim := 0, lastSet := none,
    valid := false, channels := Channels.afterReset, events := [] }

/-- CLK after a warm reset: the counter, prescaler, trim and last set are kept (R106, R107). -/
def Clk.afterWarm (c : Clk) : Clk :=
  { c with valid := false, channels := Channels.afterReset, events := [] }

/-- RUN after a cold or warm reset (R126). -/
def RunEngine.afterReset : RunEngine := ⟨[], [], [], [], []⟩

def TunerRec.idle : TunerRec := ⟨none, none, 0, none⟩

/-- TUN after a cold or warm reset (R140). -/
def Tun.afterReset : Tun := ⟨TunerRec.idle, TunerRec.idle, []⟩

/-- REP after a cold or warm reset (R172). -/
def Rep.afterReset : Rep :=
  { notices := [], sticky := 0, mask := 0xFFFF, lastCode := 0xFF, lastResult := 0xFF, lastCounter := 0x00,
    counter := 0x00, latch := 0 }

/-- PWC after a cold or warm reset (R180), once step 1 of R173 has used the flash-sleep note. -/
def Pwc.afterReset (cold : Bool) : Pwc :=
  { power := .startUp, waking := none, wokenFor := none, wakeTarget := none, sleepNote := none, socrst := true,
    wakeLine := false, handBack := false, startupReads := 0, cold := cold }

/-- The WRITE_DISABLE of the first ownership after a reset, with its built-in code 04h (R155, R173). -/
def startupWriteDisable : FlashOp := .own 0x04 none 0 1

end Sys2Proof.Machine
end

