-- ==== Sys2Proof/Machine/State.lean ====
section
/-! DEFINITION. The K240's state, its reset value, and the (unused) reasons to stop. -/

namespace Sys2Proof.Machine

/-- The whole state: one structure per block of the block diagram (00_scope.md), the board's pins, the port record of the
last step, the free-value count (log 6) and the queue of commands that wait. -/
structure State where
  pins : Pins
  fpx : Fpx
  rst : Rst
  gmx : Gmx
  ser : Ser
  pln : Pln
  clk : Clk
  run : RunEngine
  tun : Tun
  rep : Rep
  pwc : Pwc
  ports : Ports
  freeCount : Nat
  pending : List Instr
  deriving DecidableEq, Repr

/-- Reasons the machine stops with a fault. The manual names none: every row's meaning ends in a next state, so no
constructor exists and nothing raises one (safe). -/
inductive Fault where
  deriving DecidableEq, Repr

/-- Reasons for refusing a command. -/
inductive Refusal where
  /-- Raised by exec's arm of a command that has no meaning yet (safe); no arm raises it now. -/
  | notModelled (mnemonic : String)
  deriving DecidableEq, Repr

/-- The machine right after a cold reset: every block at its reset value (R25, R43, R62, R89, R107, R126, R140, R158, R172,
R180), the WRITE_DISABLE of R173 sent. The straps read 11 and PWRGOOD is low (DESIGN CHOICE, log 5). -/
def State.reset : State :=
  { pins := ⟨.mib16, false, true⟩
    fpx := Fpx.afterReset
    rst := Rst.afterReset .mib16
    gmx := Gmx.afterReset
    ser := Ser.afterReset
    pln := Pln.afterReset
    clk := Clk.afterCold 0
    run := RunEngine.afterReset
    tun := Tun.afterReset
    rep := Rep.afterReset
    pwc := Pwc.afterReset true
    ports := ⟨[], [startupWriteDisable]⟩
    freeCount := 0
    pending := [] }

end Sys2Proof.Machine
end

