-- ==== Sys2Proof/Machine/Operands.lean ====
section
/-! DEFINITION. Reading the operands: slots and their states (1.3), the fields of every record kind at the offsets of
chapter 11 (R181) with the validity and clamping conditions of 1.4 and R29, and the class table (R14, R141). -/

namespace Sys2Proof.Machine

/-! ### Fields -/

/-- The little-endian field of `len` bytes at `off` of a slot (R181). -/
def fieldAt (f : Nat → Byte) (off len : Nat) : Nat :=
  leValue ((List.range len).map fun i => f (off + i))

/-- The `len` bytes at `off` of a slot. -/
def bytesAt (f : Nat → Byte) (off len : Nat) : List Byte :=
  (List.range len).map fun i => f (off + i)

/-- A value brought to the nearest bound of a range (1.4). -/
def clampTo (lo hi v : Nat) : Nat := max lo (min v hi)

/-- A record id, or an id that names something: 1 to 65534 (1.4). -/
def validId (n : Nat) : Bool := 1 ≤ n && n ≤ 65534

/-- An optional pad byte: FFh absent, else clamped to its bound (R9, R10). -/
def padField (bound v : Nat) : Option Nat := if v = 0xFF then none else some (min v bound)

/-- The slot reader of a mirror at a slot's offset. -/
def Memory.slotAt (m : Memory) (off : Nat) : Nat → Byte := fun i => m.read (off + i)

/-- The slot reader of 64 or more bytes read from the flash, at slot `k`. -/
def dataSlot (data : List Byte) (k : Nat) : Nat → Byte :=
  let slot := data.drop (Config.slotSize * k)
  fun i => slot.getD i Memory.blank

/-! ### Slot states -/

/-- The state a state byte gives (1.3). -/
def stateOfByte (b : Byte) : SlotState :=
  if b = 0xFF then .blank
  else if b = 0x7F then .opened
  else if b = 0x3F then .live
  else if b = 0x1F then .retired
  else .damaged

/-- The base of the sector that holds an address. -/
def sectorOf (addr : Nat) : Nat := addr / Config.sectorSize * Config.sectorSize

/-- The base of the block that holds an address. -/
def blockOf (addr : Nat) : Nat := addr / Config.blockSize * Config.blockSize

/-- The base of the page that holds an address. -/
def pageOf (addr : Nat) : Nat := addr / Config.pageSize * Config.pageSize

/-- The base of the slot that holds an address. -/
def slotOf (addr : Nat) : Nat := addr / Config.slotSize * Config.slotSize

/-- [lo, lo + len) and [lo', lo' + len') share an address. -/
def rangesMeet (lo len lo' len' : Nat) : Bool :=
  0 < len && 0 < len' && lo < lo' + len' && lo' < lo + len

/-! ### Schedule records -/

/-- R8. -/
def parseService (f : Nat → Byte) (slot : Nat) : Option ServiceRec :=
  let id := fieldAt f 2 2
  let revision := fieldAt f 4 2
  let multiplex := fieldAt f 6 2
  let feed := fieldAt f 8 1
  if validId id && revision ≠ 0xFFFF && validId multiplex && feed ≤ 3 then
    some ⟨id, revision, slot, multiplex, feed⟩
  else none

/-- R9. -/
def parseBooking (f : Nat → Byte) (slot : Nat) : Option BookingRec :=
  let id := fieldAt f 2 2
  let revision := fieldAt f 4 2
  let service := fieldAt f 6 2
  let duration := fieldAt f 12 4
  let event := fieldAt f 18 3
  if validId id && revision ≠ 0xFFFF && validId service && duration ≠ 0 then
    some { id := id, revision := revision, slot := slot, service := service, start := fieldAt f 8 4,
           duration := min duration 86400, prePad := padField 60 (fieldAt f 16 1), postPad := padField 120 (fieldAt f 17 1),
           event := if event = 0 ∨ event = 0xFFFFFF then none else some event, finished := fieldAt f 21 1 ≠ 0xFF }
  else none

/-- A tag of 1 to 16 bytes behind its length byte (R10, R11). -/
def parseTag (f : Nat → Byte) (off : Nat) : Option Tag :=
  let len := fieldAt f off 1
  if 1 ≤ len && len ≤ 16 then some (bytesAt f (off + 1) len) else none

/-- An optional tag of 0 to 16 bytes behind its length byte; absent is empty (R29). -/
def parseOptTag (f : Nat → Byte) (off : Nat) : Option Tag :=
  let len := fieldAt f off 1
  if len ≤ 16 then some (bytesAt f (off + 1) len) else none

/-- R10. -/
def parseLink (f : Nat → Byte) (slot : Nat) : Option LinkRec :=
  let id := fieldAt f 2 2
  let revision := fieldAt f 4 2
  let service := fieldAt f 8 2
  match parseTag f 12 with
  | none => none
  | some tag =>
    if validId id && revision ≠ 0xFFFF && service ≠ 0 then
      some { id := id, revision := revision, slot := slot, rank := clampTo 1 15 (fieldAt f 6 1),
             newOnly := (f 7).getLsbD 0, service := if service = 0xFFFF then none else some service,
             prePad := padField 60 (fieldAt f 10 1), postPad := padField 120 (fieldAt f 11 1), tag := tag }
    else none

/-- R11. -/
def parseMark (f : Nat → Byte) (slot : Nat) : Option MarkRec :=
  let link := fieldAt f 2 2
  let part := fieldAt f 4 1
  match parseTag f 5 with
  | none => none
  | some tag => if validId link && part ≤ 15 then some ⟨link, tag, part, slot⟩ else none

/-- What a LIVE slot of the schedule partition is (R6, R7). -/
inductive SchedSlot where
  | service (r : ServiceRec)
  | booking (r : BookingRec)
  | link (r : LinkRec)
  | mark (r : MarkRec)
  | foreign
  | damaged
  deriving DecidableEq, Repr

def SchedSlot.of {α : Type} (mk : α → SchedSlot) : Option α → SchedSlot
  | some r => mk r
  | none => .damaged

/-- A LIVE slot of the schedule partition, by its kind byte (R6). -/
def schedSlot (f : Nat → Byte) (slot : Nat) : SchedSlot :=
  match (f 1).toNat with
  | 0x01 => .of .service (parseService f slot)
  | 0x02 => .of .booking (parseBooking f slot)
  | 0x03 => .of .link (parseLink f slot)
  | 0x04 => .of .mark (parseMark f slot)
  | _ => .foreign

/-! ### Anchor records -/

/-- The classes by their values in an OPCODES record (11.1). -/
def classOfValue (v : Nat) : Option InstrClass :=
  match v with
  | 0x01 => some .read
  | 0x02 => some .fastRead
  | 0x03 => some .program
  | 0x04 => some .eraseSector
  | 0x05 => some .eraseBlock
  | 0x06 => some .eraseChip
  | 0x07 => some .writeEnable
  | 0x08 => some .writeDisable
  | 0x09 => some .readStatus
  | 0x0A => some .writeStatus
  | 0x0B => some .suspend
  | 0x0C => some .resume
  | 0x0D => some .resetArm
  | 0x0E => some .reset
  | 0x0F => some .powerDown
  | 0x10 => some .release
  | 0x11 => some .detaching
  | _ => none

/-- The class values of 11.1, as GUARD_BLOCKED's detail carries them (R182). -/
def classValue : InstrClass → Nat
  | .read => 0x01
  | .fastRead => 0x02
  | .program => 0x03
  | .eraseSector => 0x04
  | .eraseBlock => 0x05
  | .eraseChip => 0x06
  | .writeEnable => 0x07
  | .writeDisable => 0x08
  | .readStatus => 0x09
  | .writeStatus => 0x0A
  | .suspend => 0x0B
  | .resume => 0x0C
  | .resetArm => 0x0D
  | .reset => 0x0E
  | .powerDown => 0x0F
  | .release => 0x10
  | .detaching => 0x11

/-- The tuner mode byte (11.1). -/
def modeOfByte (v : Nat) : Option Mode :=
  match v with
  | 0x00 => some .single
  | 0x01 => some .twin
  | 0x02 => some .twinLooped
  | _ => none

/-- The layout conditions of R13: block alignment, guide size, regions inside the flash, disjoint from each other and from
the anchor's block. -/
def layoutOk (fs : FlashSize) (schedule guideBase guideBlocks window : Nat) : Bool :=
  let regions : List (Nat × Nat) :=
    (if guideBlocks = 0 then [] else [(guideBase, guideBlocks * Config.blockSize)])
      ++ [(schedule, Config.blockSize), (window, Config.blockSize)]
  schedule % 0x10000 = 0 && window % 0x10000 = 0 && (guideBlocks = 0 || guideBase % 0x10000 = 0) && guideBlocks ≤ 32
    && regions.all (fun r => r.1 + r.2 ≤ fs.bytes)
    && regions.all (fun r => !rangesMeet r.1 r.2 fs.anchorBlock Config.blockSize)
    && regions.Pairwise (fun r r' => !rangesMeet r.1 r.2 r'.1 r'.2)

/-- A CONFIG slot's fields, clamped by R12; `none` is REJECTED (R13). -/
def parseConfig (fs : FlashSize) (f : Nat → Byte) (slot : Nat) : Option ConfigRec :=
  let revision := fieldAt f 2 2
  let schedule := fieldAt f 17 3
  let guideBase := fieldAt f 20 3
  let guideBlocks := fieldAt f 23 1
  let window := fieldAt f 24 3
  match modeOfByte (fieldAt f 4 1) with
  | none => none
  | some mode =>
    if revision ≠ 0xFFFF && layoutOk fs schedule guideBase guideBlocks window then
      some
        { slot := slot
          revision := revision
          cfg :=
            { layout := ⟨some schedule, some guideBase, guideBlocks, window⟩
              tuner := ⟨mode, clampTo 1 3 (fieldAt f 5 1), clampTo 1 6 (fieldAt f 6 1)⟩
              schedule :=
                { prePad := clampTo 0 60 (fieldAt f 7 1)
                  postPad := clampTo 0 120 (fieldAt f 8 1)
                  wakeLead := clampTo 30 1800 (fieldAt f 9 2)
                  confirmTimeout := clampTo 5 300 (fieldAt f 11 2)
                  warningLead := clampTo 0 300 (fieldAt f 13 2)
                  horizon := clampTo 1 21 (fieldAt f 15 1)
                  stepLimit := clampTo 1 60 (fieldAt f 16 1) } } }
    else none

/-- Entry `i` of an OPCODES record (R14): no class, no entry; the dummy count is held at 16, a width other than 4 is 1. -/
def opcodesEntry (f : Nat → Byte) (i : Nat) : Option ClassEntry :=
  match classOfValue (fieldAt f (6 + 4 * i) 1) with
  | none => none
  | some cls =>
    some ⟨f (7 + 4 * i), cls, min (fieldAt f (8 + 4 * i) 1) 16, if fieldAt f (9 + 4 * i) 1 = 4 then 4 else 1⟩

/-- R14. -/
def parseOpcodes (f : Nat → Byte) (slot : Nat) : Option OpcodesRec :=
  let revision := fieldAt f 2 2
  let busy := fieldAt f 4 1
  let count := fieldAt f 5 1
  if revision ≠ 0xFFFF && 1 ≤ count && count ≤ 12 then
    some ⟨slot, revision, if busy ≤ 7 then some busy else none, (List.range count).filterMap (opcodesEntry f)⟩
  else none

/-- What a LIVE slot of the anchor is (R6, R7, R13). -/
inductive AnchorSlot where
  | config (r : ConfigRec)
  | rejected (revision : Nat)
  | opcodes (r : OpcodesRec)
  | foreign
  | damaged
  deriving DecidableEq, Repr

/-- A LIVE slot of the anchor, by its kind byte (R6). -/
def anchorSlot (fs : FlashSize) (f : Nat → Byte) (slot : Nat) : AnchorSlot :=
  match (f 1).toNat with
  | 0x10 =>
    match parseConfig fs f slot with
    | some r => .config r
    | none => .rejected (fieldAt f 2 2)
  | 0x11 =>
    match parseOpcodes f slot with
    | some r => .opcodes r
    | none => .damaged
  | _ => .foreign

/-! ### The class table -/

/-- Entries without those whose code an earlier one gives (R14). -/
def firstOfCode : List ClassEntry → List ClassEntry
  | [] => []
  | e :: es => e :: (firstOfCode es).filter (fun e' => e'.code ≠ e.code)

/-- The effective OPCODES record laid over the built-in defaults (R14). -/
def classTableOf : Option OpcodesRec → ClassTable
  | none => builtinTable
  | some r =>
    let own := firstOfCode r.entries
    let kept := builtinEntries.filter fun d => own.all fun e => e.cls ≠ d.cls && e.code ≠ d.code
    ⟨own ++ kept, r.busyBit.getD 0⟩

/-- The entry of a code; a code the table does not list is OTHER (R141). -/
def ClassTable.entryOf (t : ClassTable) (code : Byte) : Option ClassEntry :=
  t.entries.find? (fun e => e.code = code)

/-- The class of a code; `none` is OTHER (R141). -/
def ClassTable.classOf (t : ClassTable) (code : Byte) : Option InstrClass :=
  (t.entryOf code).map ClassEntry.cls

/-- The first entry of a class, in the table's order. -/
def ClassTable.firstOf (t : ClassTable) (c : InstrClass) : Option ClassEntry :=
  t.entries.find? (fun e => e.cls = c)

/-- The first code of a class with its clocks and width, or the built-in one (R155, R157). -/
def ClassTable.ownOf (t : ClassTable) (c : InstrClass) : Option ClassEntry :=
  match t.firstOf c with
  | some e => some e
  | none => builtinTable.firstOf c

/-! ### Guide events -/

/-- An EVENT slot's fields (R29); `none` is DAMAGED. -/
def parseEvent (f : Nat → Byte) : Option Event :=
  let id := fieldAt f 2 3
  let version := fieldAt f 5 1
  let service := fieldAt f 6 2
  let duration := fieldAt f 12 4
  let part := fieldAt f 17 1
  match parseOptTag f 19, parseOptTag f 36 with
  | some series, some episode =>
    if 1 ≤ id && id ≤ 0xFFFFFE && version ≠ 0xFF && validId service && duration ≠ 0 && part ≤ 15 then
      some { id := id, version := version, service := service, start := fieldAt f 8 4, duration := min duration 86400,
             first := (f 16).getLsbD 0, part := part, partCount := min (fieldAt f 18 1) 15, series := series,
             episode := episode }
    else none
  | _, _ => none

/-- What a guide slot's 64 bytes are (R28). -/
inductive GuideSlot where
  | event (e : Event)
  | damaged
  | nothing
  deriving DecidableEq, Repr

/-- The state byte first, then the kind byte, then the fields (R28). -/
def guideSlot (f : Nat → Byte) : GuideSlot :=
  match stateOfByte (f 0) with
  | .live =>
    if f 1 = 0x20 then
      match parseEvent f with
      | some e => .event e
      | none => .damaged
    else .nothing
  | .damaged => .damaged
  | _ => .nothing

/-- The end of an event: start plus duration, held at FFFFFFFFh (R29). -/
def Event.stop (e : Event) : Nat := satAdd e.start e.duration

/-- The ref of a series showing: 80000000h plus the event id (00_scope.md, "Refs"). -/
def seriesRef (event : Nat) : Nat := 0x80000000 + event

/-! ### A selection of the SoC -/

/-- A SoC selection as the rows carry it (R141): the code; the three address bytes when the row gives them; the whole bytes
the SoC drove after them; whether it ended on a byte boundary; the data bytes read, and the flash's status responses. -/
structure Selection where
  code : Byte
  addr : Option FlashAddr
  data : List Byte
  whole : Bool
  count : Nat
  response : List Byte
  deriving DecidableEq, Repr

/-- The address phase and what follows it, for a class that has one: given by the row, or the first three bytes. -/
def Selection.addressed (sel : Selection) : Option (Nat × List Byte) :=
  match sel.addr, sel.data with
  | some a, data => some (a.toNat, data)
  | none, b0 :: b1 :: b2 :: data => some (b0.toNat * 0x10000 + b1.toNat * 0x100 + b2.toNat, data)
  | none, _ => none

/-- The bytes after the code, for a class without an address phase. -/
def Selection.tail (sel : Selection) : List Byte :=
  match sel.addr with
  | some a => [BitVec.ofNat 8 (a.toNat / 0x10000), BitVec.ofNat 8 (a.toNat / 0x100), BitVec.ofNat 8 a.toNat] ++ sel.data
  | none => sel.data

/-- An erase ends directly after its third address byte: nothing is sent or clocked after it (R141, R144). -/
def Selection.endsAfterAddress (sel : Selection) (rest : List Byte) : Bool := sel.whole && rest.isEmpty && sel.count = 0

/-- A class with no phases after its code is counted when its selection ends directly after the code's eighth clock
(R141). -/
def Selection.counted (sel : Selection) : Bool := sel.addr.isNone && sel.data.isEmpty && sel.whole

end Sys2Proof.Machine
end

