-- ==== Sys2Proof/Machine/Flags.lean ====
section
/-! DEFINITION. The flag set, the attention mask and ATTN (R165, R166). -/

namespace Sys2Proof.Machine

/-- The twelve flags (R165). -/
inductive Flag where
  | noticePending
  | noticeLost
  | planNew
  | commandDone
  | cmdRejected
  | scanPending
  | timeUnset
  | lendViolation
  | tableFull
  | detached
  | restartNeeded
  | startupDone
  deriving DecidableEq, Repr

/-- A flag's number (R165). -/
def Flag.number : Flag → Nat
  | .noticePending => 0
  | .noticeLost => 1
  | .planNew => 2
  | .commandDone => 3
  | .cmdRejected => 4
  | .scanPending => 5
  | .timeUnset => 6
  | .lendViolation => 7
  | .tableFull => 8
  | .detached => 9
  | .restartNeeded => 10
  | .startupDone => 11

/-- A 16-bit word with the flag's bit set. -/
def Flag.bit (f : Flag) : BitVec 16 := 1#16 <<< f.number

/-- The sticky flags' bits: numbers 1, 2, 3, 4, 7, 8, 10 and 11 (R165). -/
def stickyBits : BitVec 16 := 0x0D9E

/-- A sticky flag is raised; one already set stays set (R165). -/
def State.raise (s : State) (f : Flag) : State :=
  { s with rep := { s.rep with sticky := s.rep.sticky ||| f.bit } }

/-- CLEAR_FLAGS clears the sticky flags its mask names (R170). -/
def State.clearSticky (s : State) (mask : BitVec 16) : State :=
  { s with rep := { s.rep with sticky := s.rep.sticky &&& ~~~mask } }

/-- SCAN_PENDING: the verify set has a member or a guide scan request is pending (R17, R40, R165). -/
def State.scanPending (s : State) : Bool := !s.rst.verify.isEmpty || s.ser.scanRequest.isSome

/-- The following flags, each reading its condition (R165). -/
def State.following (s : State) : BitVec 16 :=
  (if s.rep.notices.isEmpty then 0 else Flag.bit .noticePending)
    ||| (if s.scanPending then Flag.bit .scanPending else 0)
    ||| (if s.clk.valid then 0 else Flag.bit .timeUnset)
    ||| (if s.fpx.attached then 0 else Flag.bit .detached)

/-- The flag set as the status header shows it (R160, R165). DESIGN CHOICE (log 50): bits 12 to 15, which name no flag, read 0. -/
def State.flagSet (s : State) : BitVec 16 := s.rep.sticky ||| s.following

/-- ATTN: high while a flag is set both in the flag set and in the mask; mask bits 12 to 15 select nothing (R166). -/
def State.attn (s : State) : Bool := s.flagSet &&& s.rep.mask &&& 0x0FFF ≠ 0

end Sys2Proof.Machine
end

