-- ==== Sys2Proof/Machine/Ops.lean ====
section
/-! DEFINITION. Shared operations: the ports, posting a notice, loading and firing the compare channels, taking a compare
event, and the lists kept sorted. -/

namespace Sys2Proof.Machine

/-! ### Sorted lists -/

/-- Insertion before the first element `x` does not follow. -/
def insertBy {α : Type} (le : α → α → Bool) (x : α) : List α → List α
  | [] => [x]
  | y :: ys => if le x y then x :: y :: ys else y :: insertBy le x ys

/-- A list in the order of `le`, equal elements in the order they stood. -/
def sortBy {α : Type} (le : α → α → Bool) (xs : List α) : List α :=
  xs.foldr (insertBy le) []

/-- A number put into an ascending list without repeats. -/
def insertNat (x : Nat) : List Nat → List Nat
  | [] => [x]
  | y :: ys => if x < y then x :: y :: ys else if x = y then y :: ys else y :: insertNat x ys

/-- The members of a list, ascending, each once. -/
def natSet (xs : List Nat) : List Nat := xs.foldr insertNat []

/-- Lexicographic order on two keys. -/
def lePair (a b : Nat × Nat) : Bool := a.1 < b.1 || (a.1 = b.1 && a.2 ≤ b.2)

/-- The least of the values that are present. -/
def leastOf (xs : List Nat) : Option Nat :=
  xs.foldl (fun acc x => match acc with | none => some x | some y => some (min x y)) none

/-! ### Ports (log 18) -/

/-- The port record starts empty in each step. -/
def State.clearPorts (s : State) : State := { s with ports := ⟨[], []⟩ }

/-- The flash port carries one more instruction. -/
def State.flashPort (s : State) (op : FlashOp) : State :=
  { s with ports := { s.ports with flash := s.ports.flash ++ [op] } }

/-- Bytes appear on the SoC's data lines. -/
def State.socPort (s : State) (bytes : List (Option Byte)) : State :=
  { s with ports := { s.ports with soc := s.ports.soc ++ bytes } }

/-- The K240 sends the flash an instruction of its own, with no address. -/
def State.ownCode (s : State) (code : Byte) : State := s.flashPort (.own code none 0 1)

/-! ### Notices (R163) -/

/-- A post into a full queue removes the oldest notice first and raises NOTICE_LOST (R163). -/
def State.post (s : State) (n : Notice) : State :=
  if s.rep.notices.length < Config.noticeCap then
    { s with rep := { s.rep with notices := s.rep.notices ++ [n] } }
  else
    State.raise { s with rep := { s.rep with notices := s.rep.notices.drop 1 ++ [n] } } .noticeLost

/-- A notice stamped with the counter (R162). -/
def State.postNow (s : State) (kind : NoticeKind) (tuner : Option Tuner) (detail : Int) (ref : Nat) (aux : Int) : State :=
  s.post ⟨kind, tuner, detail, s.clk.counter, ref, aux⟩

/-- FFFFFFFFh, the ref of a notice that names none (R162). -/
def noRef : Nat := 0xFFFFFFFF

/-! ### Compare channels (5.5) -/

def Channels.get (cs : Channels) : Channel → ChannelState
  | .start .A => cs.startA
  | .start .B => cs.startB
  | .stop .A => cs.stopA
  | .stop .B => cs.stopB
  | .confirm => cs.confirm
  | .warn => cs.warn
  | .wake => cs.wake

def Channels.set (cs : Channels) (c : Channel) (v : ChannelState) : Channels :=
  match c with
  | .start .A => { cs with startA := v }
  | .start .B => { cs with startB := v }
  | .stop .A => { cs with stopA := v }
  | .stop .B => { cs with stopB := v }
  | .confirm => { cs with confirm := v }
  | .warn => { cs with warn := v }
  | .wake => { cs with wake := v }

/-- The seven channels; the clock gives no order between their owners (R100), this one is the model's (log 9). -/
def allChannels : List Channel := [.start .A, .start .B, .stop .A, .stop .B, .confirm, .warn, .wake]

/-- A channel is disabled: the enable is cleared and the value stays (R99). -/
def Clk.disable (k : Clk) (c : Channel) : Clk :=
  { k with channels := k.channels.set c { k.channels.get c with enabled := false } }

/-- Every channel is disabled (R97, R105). -/
def Clk.disableAll (k : Clk) : Clk := allChannels.foldl Clk.disable k

/-- An enabled channel at or below the counter fires: it is disabled and its event waits for the owner (R100, R101). -/
def Clk.fireIfDue (k : Clk) (target : Option WakeTarget) (c : Channel) : Clk :=
  if (k.channels.get c).enabled && (k.channels.get c).value ≤ k.counter then
    { Clk.disable k c with
      events := k.events ++ [⟨c, k.counter, k.crystal, if c = .wake then target else none⟩] }
  else k

/-- The clock checks every channel against the counter (R100). -/
def State.checkChannels (s : State) : State :=
  { s with clk := allChannels.foldl (fun k c => k.fireIfDue s.pwc.wakeTarget c) s.clk }

/-- The owner loads a channel: enabled and checked at once while time is VALID, left disabled while UNSET (R99, R100). -/
def State.loadChannel (s : State) (c : Channel) (value : Nat) : State :=
  let k := { s.clk with channels := s.clk.channels.set c ⟨value, s.clk.valid⟩ }
  { s with clk := k.fireIfDue s.pwc.wakeTarget c }

/-- The owner disables a channel (R99). -/
def State.disableChannel (s : State) (c : Channel) : State := { s with clk := s.clk.disable c }

/-- Loads the channel with a value, or disables it when there is none. -/
def State.reloadChannel (s : State) (c : Channel) : Option Nat → State
  | some v => s.loadChannel c v
  | none => s.disableChannel c

/-- The first waiting event of a channel, taken from the list (R101). -/
def takeFirst (c : Channel) : List CompareEvent → Option (CompareEvent × List CompareEvent)
  | [] => none
  | e :: es =>
    if e.channel = c then some (e, es)
    else match takeFirst c es with
      | none => none
      | some (e', es') => some (e', e :: es')

/-- The owner takes the channel's oldest waiting event and acts on it; with none waiting nothing happens (log 2). -/
def State.takeEvent (s : State) (c : Channel) (act : CompareEvent → State → State) : State :=
  match takeFirst c s.clk.events with
  | none => s
  | some (e, rest) => act e { s with clk := { s.clk with events := rest } }

/-! ### Tables as the other blocks read them -/

def State.service (s : State) (id : Nat) : Option ServiceRec :=
  s.rst.tables.services.find? (fun r => r.id = id)

def State.booking (s : State) (id : Nat) : Option BookingRec :=
  s.rst.tables.bookings.find? (fun r => r.id = id)

def State.link (s : State) (id : Nat) : Option LinkRec :=
  s.rst.tables.links.find? (fun r => r.id = id)

/-- The effective event of an id: its effective entry, when that entry is matched (R31). -/
def effectiveIn (entries : List MatchedEntry) (id : Nat) : Option Event :=
  (entries.find? (fun e => e.event.id = id && e.effective && (e.linked || e.named))).map MatchedEntry.event

def State.effectiveEvent (s : State) (id : Nat) : Option Event := effectiveIn s.gmx.entries id

end Sys2Proof.Machine
end

