-- ==== Sys2Proof/Machine/Tuners.lean ====
section
/-! DEFINITION. The run engine's channels (R111) and the tuner arbiter: tuner records, the grant rule, evictions and
releases, the threatened entries and WARN, and the mode change (chapter 7). -/

namespace Sys2Proof.Machine

/-- The other tuner. -/
def otherTuner : Tuner → Tuner
  | .A => .B
  | .B => .A

/-- The tuners of a mode (R137). -/
def Mode.tuners : Mode → List Tuner
  | .single => [.A]
  | .twin => [.A, .B]
  | .twinLooped => [.A, .B]

/-- The tuner is one of the mode in force (R137). -/
def State.hasTuner (s : State) (T : Tuner) : Bool := s.rst.inForce.tuner.mode.tuners.contains T

/-- The effective total cap: the lower of the total cap and the per-tuner cap times the tuner count (R73, R129). -/
def TunerGroup.cap (g : TunerGroup) : Nat := min g.total (g.perTuner * g.mode.tuners.length)

def Tun.get (t : Tun) : Tuner → TunerRec
  | .A => t.a
  | .B => t.b

def Tun.set (t : Tun) (T : Tuner) (r : TunerRec) : Tun :=
  match T with
  | .A => { t with a := r }
  | .B => { t with b := r }

/-- The state by the stream count and the viewer flag (R127). -/
def TunerRec.state (r : TunerRec) : TunerState :=
  if r.streams = 0 then (if r.viewer.isSome then .view else .idle)
  else (if r.viewer.isSome then .shared else .recording)

/-- The tuner whose viewer flag is set (R127: at most one). -/
def Tun.viewerTuner (t : Tun) : Option Tuner :=
  if t.a.viewer.isSome then some .A else if t.b.viewer.isSome then some .B else none

/-! ### The run engine's channels -/

/-- The value each START and STOP channel takes (R111). -/
def RunEngine.startValue (r : RunEngine) (T : Tuner) : Option Nat :=
  leastOf ((r.waiting.filter (fun e => e.tuner = T && e.blocked.isNone)).map WaitingEntry.wstart)

def RunEngine.stopValue (r : RunEngine) (T : Tuner) : Option Nat :=
  leastOf (((r.runs.filter (fun x => x.tuner = T)).map ActiveRun.windowEnd)
    ++ ((r.waiting.filter (fun e => e.tuner = T && e.blocked.isSome)).map WaitingEntry.wend))

/-- The earliest confirm deadline among the STARTING runs (R111). -/
def RunEngine.confirmValue (r : RunEngine) : Option Nat :=
  leastOf ((r.runs.filter (fun x => x.state = .starting)).filterMap ActiveRun.deadline)

/-- The run engine loads its five channels; in SINGLE mode START_B and STOP_B stay disabled (R111). DESIGN CHOICE (log 47): an
event taken after a wrap, between the next SET_TIME and its publish, loads them as any event does. -/
def State.reloadRunChannels (s : State) : State :=
  let onB := fun (v : Option Nat) => if s.rst.inForce.tuner.mode = .single then none else v
  ((((s.reloadChannel (.start .A) (s.run.startValue .A)).reloadChannel (.start .B) (onB (s.run.startValue .B))).reloadChannel
    (.stop .A) (s.run.stopValue .A)).reloadChannel (.stop .B) (onB (s.run.stopValue .B))).reloadChannel .confirm
    s.run.confirmValue

/-- The blocked mark is cleared on every waiting entry, on both tuners (R113). -/
def RunEngine.clearBlocked (r : RunEngine) : RunEngine :=
  { r with waiting := r.waiting.map fun e => { e with blocked := none } }

/-- The run engine is told that a viewer hold has been made, changed or released (R113, R132, R133). -/
def State.viewerHoldChanged (s : State) : State :=
  State.reloadRunChannels { s with run := s.run.clearBlocked }

/-! ### Granting a stream -/

/-- The arbiter's answer to a start request (R129, R130). -/
inductive GrantAnswer where
  | granted
  | evicts
  | refused (cause : Cause)
  deriving DecidableEq, Repr

/-- The five conditions of R129 for tuner T, multiplex m and feed group f, with the other tuner's record as `other`. -/
def grantConditions (g : TunerGroup) (t : Tun) (T : Tuner) (m f : Nat) (other : TunerRec) : Bool :=
  let r := t.get T
  g.mode.tuners.contains T
    && (r.streams = 0 || r.multiplex = some m)
    && r.streams < g.perTuner
    && t.a.streams + t.b.streams < g.cap
    && (g.mode ≠ .twinLooped || other.state = .idle || other.feed = some f)

/-- The judgment of a request (R129, R130): a grant, a grant that evicts the viewer, or a refusal with its cause. -/
def judgeRequest (g : TunerGroup) (t : Tun) (T : Tuner) (m f : Nat) : GrantAnswer :=
  let other := t.get (otherTuner T)
  if grantConditions g t T m f other then
    (if (t.get T).viewer.isSome && (t.get T).multiplex ≠ some m then .evicts else .granted)
  else if g.mode = .twinLooped && other.state = .view && grantConditions g t T m f TunerRec.idle then .refused .viewer
  else .refused .tuner

/-- A granted stream: one more on the record; a tuner that leaves IDLE takes m and f (R128, R129). -/
def TunerRec.grant (r : TunerRec) (m f : Nat) : TunerRec :=
  if r.state = .idle then { r with multiplex := some m, feed := some f, streams := r.streams + 1 }
  else { r with streams := r.streams + 1 }

/-- An eviction: the viewer is gone and the tuner carries the run alone (R130). -/
def TunerRec.evict (r : TunerRec) (m f : Nat) : TunerRec :=
  { r with multiplex := some m, feed := some f, streams := r.streams + 1, viewer := none }

/-- A tuner that goes back to IDLE has no multiplex and no feed group (R127). -/
def TunerRec.settle (r : TunerRec) : TunerRec :=
  if r.state = .idle then { r with multiplex := none, feed := none } else r

/-- One stream is released (R128). -/
def TunerRec.releaseStream (r : TunerRec) : TunerRec := ({ r with streams := r.streams - 1 } : TunerRec).settle

/-- The viewer hold is released (R132, R133, R137). -/
def TunerRec.releaseViewer (r : TunerRec) : TunerRec := ({ r with viewer := none } : TunerRec).settle

/-! ### Handover warnings -/

/-- A threat to a waiting entry (R134): EVICT or BLOCK. -/
inductive Threat where
  | evict
  | block
  deriving DecidableEq, Repr

/-- HANDOVER_WARNING's detail (R182). -/
def Threat.detail : Threat → Int
  | .evict => 1
  | .block => 2

/-- Whether and how the viewer threatens an entry (R134). -/
def State.threat (s : State) (e : WaitingEntry) : Option Threat :=
  match s.service e.service, s.tun.viewerTuner with
  | some sv, some v =>
    let r := s.tun.get v
    if v = e.tuner then (if r.multiplex ≠ some sv.multiplex then some .evict else none)
    else if s.rst.inForce.tuner.mode = .twinLooped && r.state = .view && r.feed ≠ some sv.feed then some .block
    else none
  | _, _ => none

/-- An entry's warning time: its window start less the warning lead in force, held at 0 (R134). -/
def State.warningTime (s : State) (e : WaitingEntry) : Nat := e.wstart - s.rst.inForce.schedule.warningLead

/-- The threatened entries whose ref is not in the warned list (R134). -/
def State.threatened (s : State) : List WaitingEntry :=
  s.run.waiting.filter fun e => (s.threat e).isSome && !s.tun.warned.contains e.ref

/-- WARN takes the earliest warning time, or is disabled (R134). -/
def State.reloadWarn (s : State) : State :=
  s.reloadChannel .warn (leastOf (s.threatened.map s.warningTime))

/-- The warned list is emptied (R130, R132, R133, R135, R137). -/
def State.emptyWarned (s : State) : State := { s with tun := { s.tun with warned := [] } }

/-- The warned list after a ref that waits is added: each ref once, and a full list first loses the refs that no longer wait
(R135). -/
def enterWarned (waiting : List WaitingEntry) (l : List Nat) (ref : Nat) : List Nat :=
  if l.contains ref then l
  else (if l.length < Config.warnedCap then l else l.filter fun r => waiting.any fun e => e.ref = r) ++ [ref]

def State.addWarned (s : State) (ref : Nat) : State :=
  { s with tun := { s.tun with warned := enterWarned s.run.waiting s.tun.warned ref } }

/-! ### Requests -/

/-- The stream is granted or refused on the records, with VIEW_LOST for an evicted viewer (R128 to R130). `f` is the firing
time of the start. -/
def State.requestStream (s : State) (T : Tuner) (ref m fd f : Nat) : GrantAnswer × State :=
  let r := s.tun.get T
  let answer := judgeRequest s.rst.inForce.tuner s.tun T m fd
  match answer with
  | .granted => (answer, { s with tun := s.tun.set T (r.grant m fd) })
  | .evicts =>
    let s1 := { s with tun := s.tun.set T (r.evict m fd) }
    (answer, (s1.post ⟨.viewLost, some T, 1, f, ref, (r.viewer.getD 0 : Nat)⟩).emptyWarned.reloadWarn)
  | .refused _ => (answer, s)

/-- START_B and STOP_B are disabled (R111). -/
def State.disableB (s : State) : State := (s.disableChannel (.start .B)).disableChannel (.stop .B)

/-- The record store's tuner group has taken effect: SINGLE disables START_B and STOP_B (R111) and releases a hold on B with
VIEW_LOST, and WARN is reloaded in every mode (R137). -/
def State.applyTunerMode (s : State) : State :=
  match s.rst.inForce.tuner.mode, s.tun.b.viewer with
  | .single, some v =>
    let s1 := { s.disableB with tun := { s.tun with b := s.tun.b.releaseViewer } }
    (s1.postNow .viewLost (some .B) 2 noRef (v : Nat)).viewerHoldChanged.emptyWarned.reloadWarn
  | .single, none => s.disableB.reloadWarn
  | _, _ => s.reloadWarn

end Sys2Proof.Machine
end

