-- ==== Sys2Proof/Machine/Runs.lean ====
section
/-! DEFINITION. The run engine (chapter 6): ends, history and end states, the deferred tuner change, starts, refusals and
record changes. Each operation takes the replan trigger as an argument, because a replan's own purge reports to the run
engine (R42) while the replan is RUNNING, when a trigger only sets the stale flag (R83). -/

namespace Sys2Proof.Machine

/-- A replan trigger's effect on the state (R83). -/
abbrev Trigger := State → State

/-- A change handed over with its cause (R20, R38). -/
inductive Change where
  | new
  | revised
  | withdrawn
  | withheld
  deriving DecidableEq, Repr

/-- The reason codes of STOP and MISSED (R182). -/
def MissReason.code : MissReason → Int
  | .late => 1
  | .noConfirm => 2
  | .noTuner => 3
  | .viewer => 4

/-- STOP's detail: the outcome in the low byte, the reason in the high byte (R182). DECLINED posts no STOP (R122). -/
def RunOutcome.detail : RunOutcome → Int
  | .complete => 1
  | .partly => 2
  | .missed r => 3 + 256 * r.code
  | .failed => 4
  | .cancelled => 5
  | .cut => 6
  | .declined => 0

/-! ### History, end states, pending marks -/

/-- A ref enters the history: an older entry of it goes first, then the oldest of a full history (R123). -/
def enterHistory (h : List HistoryEntry) (e : HistoryEntry) : List HistoryEntry :=
  let others := h.filter fun x => x.ref ≠ e.ref
  (if others.length < Config.historyCap then others else others.drop 1) ++ [e]

/-- An end state enters: it replaces the booking's older one, and a full list loses its oldest (R125). -/
def enterEndState (l : List EndState) (e : EndState) : List EndState :=
  let others := l.filter fun x => x.booking ≠ e.booking
  (if others.length < Config.endStatesCap then others else others.drop 1) ++ [e]

/-- The mark table holds the key (R47, R55). -/
def marked (marks : List MarkRec) : EpisodeKey → Bool
  | .tagged link episode part => marks.any fun m => m.link = link && m.tag = episode && m.part = part
  | .untagged _ _ => false

/-- A recorded key enters the pending-mark list at the newest position, unless a mark already holds it (R55, R57). -/
def enterPending (marks : List MarkRec) (l : List PendingKey) (k : PendingKey) : List PendingKey :=
  if marked marks k.key then l
  else
    let others := l.filter fun x => x.key ≠ k.key
    (if others.length < Config.pendingCap then others else others.drop 1) ++ [k]

/-- The history's outcomes that exclude a ref: every one but CUT (R52, R63, R110). -/
def historyExcludes (h : List HistoryEntry) (ref : Nat) : Bool :=
  h.any fun e => e.ref = ref && e.outcome ≠ .cut

def State.addHistory (s : State) (e : HistoryEntry) : State :=
  { s with run := { s.run with history := enterHistory s.run.history e } }

def State.addEndState (s : State) (e : EndState) : State :=
  { s with run := { s.run with endStates := enterEndState s.run.endStates e } }

def State.addPending (s : State) (k : PendingKey) : State :=
  { s with ser := { s.ser with pendingMarks := enterPending s.rst.tables.marks s.ser.pendingMarks k } }

/-! ### The deferred tuner change -/

/-- Ref and aux of a CONFIG notice: the effective CONFIG's revision and slot, or FFFFFFFFh when none is effective
(R162). -/
def State.configRef (s : State) : Nat × Nat :=
  match s.rst.effConfig with
  | some r => (r.revision, r.slot)
  | none => (noRef, noRef)

/-- The run table has become empty: a deferred tuner change takes effect, with CONFIG_APPLIED, the arbiter's part and a
replan request (R23, R118, R137). DESIGN CHOICE (log 42): it does so while the anchor is a member of the verify set too. -/
def State.applyDeferred (trig : Trigger) (s : State) : State :=
  match s.rst.deferred with
  | none => s
  | some g =>
    let s1 :=
      { s with rst := { s.rst with deferred := none, inForce := { s.rst.inForce with tuner := g } } }
    trig ((s1.postNow .configApplied none 2 s1.configRef.1 (s1.configRef.2 : Nat)).applyTunerMode)

/-! ### Ends -/

/-- The end state a manual run or entry takes, for any outcome except CUT (R118, R125). -/
def State.manualEnd (s : State) (booking revision : Nat) (o : RunOutcome) : State :=
  if o = .cut then s else s.addEndState ⟨booking, revision, o⟩

/-- Step 3 of R118 for a run: a series run ending COMPLETE or PARTIAL hands its key on; a manual one takes an end state.
DESIGN CHOICE (log 61): its revision is the last that was handed over for the run. -/
def State.markEnd (s : State) (r : ActiveRun) (o : RunOutcome) : State :=
  match r.kind with
  | .manual revision => s.manualEnd r.ref revision o
  | .series _ origin => if o = .complete ∨ o = .partly then s.addPending ⟨origin.key, r.ref⟩ else s

/-- Step 1 of R118 for a run: one stream is released and the run leaves the run table. -/
def State.releaseRun (s : State) (r : ActiveRun) : State :=
  { s with
    tun := s.tun.set r.tuner (s.tun.get r.tuner).releaseStream
    run := { s.run with runs := s.run.runs.filter fun x => x.ref ≠ r.ref } }

/-- An active run ends with `o` at the actual stop `stop` (R118). -/
def State.endRun (trig : Trigger) (r : ActiveRun) (o : RunOutcome) (stop : Nat) (s : State) : State :=
  let s1 := (s.releaseRun r).addHistory ⟨r.ref, o, some stop, r.windowEnd⟩
  let s2 := (s1.markEnd r o).post ⟨.stop, some r.tuner, o.detail, stop, r.ref, (r.actualStart : Nat)⟩
  let s3 := { s2 with run := s2.run.clearBlocked }
  let s4 := if s3.run.runs.isEmpty then s3.applyDeferred trig else s3
  trig s4.reloadRunChannels

/-- The revision of a booking as the booking table holds it; a waiting manual entry has one (R110, R121). -/
def State.bookingRevision (s : State) (id : Nat) : Nat :=
  match s.booking id with
  | some b => b.revision
  | none => 0

/-- An entry leaves the waiting list. -/
def State.dropWaiting (s : State) (ref : Nat) : State :=
  { s with run := { s.run with waiting := s.run.waiting.filter fun e => e.ref ≠ ref } }

/-- A waiting entry ends MISSED at `at_` (R113, R118). -/
def State.endWaiting (trig : Trigger) (e : WaitingEntry) (reason : MissReason) (at_ : Nat) (s : State) : State :=
  let s1 := (s.dropWaiting e.ref).addHistory ⟨e.ref, .missed reason, some at_, e.wend⟩
  let s2 := if e.origin.isNone then s1.manualEnd e.ref (s1.bookingRevision e.ref) (.missed reason) else s1
  let s3 := s2.post ⟨.missed, some e.tuner, reason.code, at_, e.ref, (e.wstart : Nat)⟩
  trig s3.reloadRunChannels

/-- The outcome of a run that reaches its window end (R116). -/
def ActiveRun.naturalOutcome (r : ActiveRun) : RunOutcome :=
  match r.state with
  | .starting => .missed .noConfirm
  | .recording => if r.actualStart ≤ r.recStart then .complete else .partly

/-! ### Window ends -/

/-- The padded end of a record: start plus duration plus the post-pad, each sum held at FFFFFFFFh (R66, R67). -/
def paddedEnd (start duration postMinutes : Nat) : Nat := satAdd (satAdd start duration) (60 * postMinutes)

/-- The link's post-pad override where the link is in the link table (R109). -/
def State.linkPost (s : State) (link : Nat) : Option Nat :=
  match s.link link with
  | some l => l.postPad
  | none => none

/-- The window end from the run's record as it stands; none when the record is not available (R109). -/
def State.windowEndOf (s : State) (r : ActiveRun) : Option Nat :=
  let dflt := s.rst.inForce.schedule.postPad
  match r.kind with
  | .manual _ => (s.booking r.ref).map fun b => paddedEnd b.start b.duration (b.postPad.getD dflt)
  | .series ev origin =>
    (s.effectiveEvent ev).map fun e => paddedEnd e.start e.duration ((s.linkPost origin.link).getD dflt)

/-- An active run's record of the run table is replaced. -/
def State.setRun (s : State) (r : ActiveRun) : State :=
  { s with run := { s.run with runs := s.run.runs.map fun x => if x.ref = r.ref then r else x } }

/-- A recomputation: a window end at or before now ends the run at once, another is taken (R109, R116). -/
def State.recomputeEnd (trig : Trigger) (r : ActiveRun) (s : State) : State :=
  match s.windowEndOf r with
  | none => s
  | some e =>
    if e ≤ s.clk.counter then s.endRun trig r r.naturalOutcome s.clk.counter
    else s.setRun { r with windowEnd := e }

/-! ### Record changes (6.5) -/

def State.runOf (s : State) (ref : Nat) : Option ActiveRun := s.run.runs.find? (fun r => r.ref = ref)

def State.waitingOf (s : State) (ref : Nat) : Option WaitingEntry := s.run.waiting.find? (fun e => e.ref = ref)

/-- A booking entry of higher revision removes the booking's end state (R125). -/
def State.clearEndState (s : State) (b : BookingRec) : State :=
  { s with run := { s.run with endStates := s.run.endStates.filter fun e => !(e.booking = b.id && e.revision < b.revision) } }

/-- The service and start now in the record against those the run was started with: CUT, or a new window end (R119,
R120). -/
def State.followRecord (trig : Trigger) (r : ActiveRun) (service start : Nat) (s : State) : State :=
  if service ≠ r.recService ∨ start ≠ r.recStart then s.endRun trig r .cut s.clk.counter
  else s.recomputeEnd trig r

/-- A booking change for an active manual run (R119). -/
def State.runBookingChange (trig : Trigger) (r : ActiveRun) (c : Change) (b : Option BookingRec) (s : State) : State :=
  match c, b with
  | .withdrawn, _ => s.endRun trig r .cancelled s.clk.counter
  | .new, some b => (s.setRun { r with kind := .manual b.revision }).followRecord trig { r with kind := .manual b.revision } b.service b.start
  | .revised, some b => (s.setRun { r with kind := .manual b.revision }).followRecord trig { r with kind := .manual b.revision } b.service b.start
  | _, _ => s

/-- An effective-event change for an active series run (R120). -/
def State.runEventChange (trig : Trigger) (r : ActiveRun) (c : Change) (e : Option Event) (s : State) : State :=
  match c, e with
  | .new, some e => s.followRecord trig r e.service e.start
  | .revised, some e => s.followRecord trig r e.service e.start
  | _, _ => s

/-- A ref is held back from the plan of a replan whose snapshot was taken before now (R121). -/
def State.holdBack (s : State) (ref : Nat) : State :=
  { s with run := { s.run with changed := insertNat ref s.run.changed } }

/-- A change for a waiting entry's ref takes the entry off the list, whatever its cause, and holds it back from a plan computed
before the change (R121). -/
def State.waitingChange (s : State) (ref : Nat) : State :=
  match s.waitingOf ref with
  | some _ => ((s.dropWaiting ref).holdBack ref).reloadRunChannels
  | none => s

/-- The record store hands the run engine one booking change (R20, R119, R121, R125). -/
def State.bookingChange (trig : Trigger) (id : Nat) (c : Change) (b : Option BookingRec) (s : State) : State :=
  let s1 := match b with | some b => s.clearEndState b | none => s
  let s2 := match s1.runOf id with
    | some r => (s1.runBookingChange trig r c b).reloadRunChannels
    | none => s1
  s2.waitingChange id

/-- The guide matcher tells the run engine of one event (R38, R120, R121). -/
def State.eventChange (trig : Trigger) (id : Nat) (c : Change) (e : Option Event) (s : State) : State :=
  let s1 := match s.runOf (seriesRef id) with
    | some r => (s.runEventChange trig r c e).reloadRunChannels
    | none => s
  s1.waitingChange (seriesRef id)

/-! ### Starting (6.3) -/

/-- A refused start: the entry stays, blocked with its cause, and one replan trigger is sent (R113). -/
def State.refuseStart (trig : Trigger) (e : WaitingEntry) (cause : Cause) (s : State) : State :=
  trig { s with run := { s.run with waiting := s.run.waiting.map fun x => if x.ref = e.ref then { x with blocked := some cause } else x } }

/-- The recorded start and service, from the booking or the effective event (R112). -/
def State.recordOf (s : State) (e : WaitingEntry) : Option (Nat × Nat) :=
  match e.origin with
  | none => (s.booking e.ref).map fun b => (b.start, b.service)
  | some _ => (s.effectiveEvent (e.ref - 0x80000000)).map fun v => (v.start, v.service)

/-- The active run a granted entry becomes (R108, R112). -/
def State.newRun (s : State) (e : WaitingEntry) (sv : ServiceRec) (f : Nat) : ActiveRun :=
  let rec_ := (s.recordOf e).getD (e.wstart, e.service)
  let r : ActiveRun :=
    { ref := e.ref
      kind := match e.origin with
        | none => .manual (s.bookingRevision e.ref)
        | some o => .series (e.ref - 0x80000000) o
      tuner := e.tuner
      service := e.service
      multiplex := sv.multiplex
      feed := sv.feed
      recStart := rec_.1
      recService := rec_.2
      state := .starting
      actualStart := f
      late := decide (rec_.1 < f)
      windowEnd := e.wend
      deadline := some (satAdd f s.rst.inForce.schedule.confirmTimeout)
      showing := e.showing
      part := e.part
      partCount := e.partCount }
  { r with windowEnd := (s.windowEndOf r).getD e.wend }

/-- A granted entry enters the run table in STARTING, with START and one trigger (R112). -/
def State.enterRun (trig : Trigger) (e : WaitingEntry) (sv : ServiceRec) (f : Nat) (s : State) : State :=
  let r := s.newRun e sv f
  let s1 := s.dropWaiting e.ref
  let s2 := { s1 with run := { s1.run with runs := s1.run.runs ++ [r] } }
  trig (s2.post ⟨.start, some e.tuner, if r.late then 1 else 0, f, e.ref, (r.windowEnd : Nat)⟩)

/-- One due entry: missed, refused or granted (R112, R113). An entry on tuner B that SINGLE has overtaken does not end (R111;
log 41). -/
def State.startEntry (trig : Trigger) (f : Nat) (e : WaitingEntry) (s : State) : State :=
  if e.wend ≤ f then (if s.hasTuner e.tuner then s.endWaiting trig e .late f else s)
  else match s.service e.service with
    | none => s.refuseStart trig e .tuner
    | some sv =>
      match s.requestStream e.tuner e.ref sv.multiplex sv.feed f with
      | (.refused cause, s1) => s1.refuseStart trig e cause
      | (_, s1) => s1.enterRun trig e sv f

/-- The due entries of START_T, by window start and ref (R112). -/
def RunEngine.dueStarts (r : RunEngine) (T : Tuner) (f : Nat) : List WaitingEntry :=
  sortBy (fun a b => lePair (a.wstart, a.ref) (b.wstart, b.ref))
    (r.waiting.filter fun e => e.tuner = T && e.blocked.isNone && e.wstart ≤ f)

/-- A due entry is taken if it still waits unblocked when its turn comes. -/
def State.startIfWaiting (trig : Trigger) (f ref : Nat) (s : State) : State :=
  match s.waitingOf ref with
  | some e => if e.blocked.isNone then s.startEntry trig f e else s
  | none => s

/-- START_T's event (R112). -/
def State.startDue (trig : Trigger) (T : Tuner) (f : Nat) (s : State) : State :=
  ((s.run.dueStarts T f).foldl (fun s e => s.startIfWaiting trig f e.ref) s).reloadRunChannels

/-! ### Stop and confirm events (6.4) -/

/-- The due runs of STOP_T, by window end and ref (R116). -/
def RunEngine.dueStops (r : RunEngine) (T : Tuner) (f : Nat) : List ActiveRun :=
  sortBy (fun a b => lePair (a.windowEnd, a.ref) (b.windowEnd, b.ref))
    (r.runs.filter fun x => x.tuner = T && x.windowEnd ≤ f)

/-- The blocked entries whose window end STOP_T has reached, with the reason of their last refusal (R113). -/
def RunEngine.dueBlocked (r : RunEngine) (T : Tuner) (f : Nat) : List (WaitingEntry × MissReason) :=
  (sortBy (fun a b => lePair (a.wend, a.ref) (b.wend, b.ref))
    (r.waiting.filter fun e => e.tuner = T && e.wend ≤ f)).filterMap fun e =>
      match e.blocked with
      | some .tuner => some (e, .noTuner)
      | some .viewer => some (e, .viewer)
      | none => none

/-- A due run ends if it is still active when its turn comes. -/
def State.endIfActive (trig : Trigger) (ref : Nat) (o : ActiveRun → RunOutcome) (stop : Nat) (s : State) : State :=
  match s.runOf ref with
  | some r => s.endRun trig r (o r) stop
  | none => s

/-- A due blocked entry ends if it still waits when its turn comes; one on tuner B that SINGLE has overtaken does not (R111;
log 41). -/
def State.endIfWaiting (trig : Trigger) (ref : Nat) (reason : MissReason) (f : Nat) (s : State) : State :=
  match s.waitingOf ref with
  | some e => if s.hasTuner e.tuner then s.endWaiting trig e reason f else s
  | none => s

/-- STOP_T's event: the due runs end, and the entries that were blocked when it was taken (R113, R116; log 13). DESIGN CHOICE
(log 56): each end's trigger acts at once, so that a replan can start before the later ends of one event. -/
def State.stopDue (trig : Trigger) (T : Tuner) (f : Nat) (s : State) : State :=
  let s1 := (s.run.dueStops T f).foldl (fun s r => s.endIfActive trig r.ref ActiveRun.naturalOutcome f) s
  let s2 := (s.run.dueBlocked T f).foldl (fun s p => s.endIfWaiting trig p.1.ref p.2 f) s1
  s2.reloadRunChannels

/-- The STARTING runs whose confirm deadline is at or before f, by deadline and ref (R115; log 14). -/
def RunEngine.dueConfirms (r : RunEngine) (f : Nat) : List ActiveRun :=
  sortBy (fun a b => lePair (a.deadline.getD 0, a.ref) (b.deadline.getD 0, b.ref))
    (r.runs.filter fun x => x.state = .starting && (match x.deadline with | some d => decide (d ≤ f) | none => false))

/-- CONFIRM's event (R115). -/
def State.confirmDue (trig : Trigger) (f : Nat) (s : State) : State :=
  ((s.run.dueConfirms f).foldl (fun s r => s.endIfActive trig r.ref (fun _ => .missed .noConfirm) f) s).reloadRunChannels

end Sys2Proof.Machine
end

