-- ==== Sys2Proof/Machine/Guide.lean ====
section
/-! DEFINITION. The guide matcher (chapter 2): the match test, the matched-event table, programs, erases, the re-test, the
reading of sectors, the purge and the report of changed effective events. -/

namespace Sys2Proof.Machine

/-! ### The match test -/

/-- A link reaches an event: equal, non-empty series tags and a restriction that admits the service (R30, R45). -/
def LinkRec.reaches (l : LinkRec) (e : Event) : Bool :=
  e.series ≠ [] && l.tag = e.series && (match l.service with | none => true | some v => decide (v = e.service))

/-- The event is linked (R30). -/
def State.isLinked (s : State) (e : Event) : Bool := s.rst.tables.links.any fun l => l.reaches e

/-- The event is named (R30). -/
def State.isNamed (s : State) (e : Event) : Bool := s.rst.tables.bookings.any fun b => b.event = some e.id

/-! ### The table -/

/-- A matched entry: linked, named, or both (R30). -/
def MatchedEntry.matched (e : MatchedEntry) : Bool := e.linked || e.named

/-- Version first, then slot address (R31). -/
def outranks (v slot v' slot' : Nat) : Bool := v' < v || (v' = v && slot' < slot)

def MatchedEntry.outranks (x e : MatchedEntry) : Bool :=
  Sys2Proof.Machine.outranks x.event.version x.slot e.event.version e.slot

/-- The effective flags, from the entries as they stand (R31). -/
def recomputeEffective (es : List MatchedEntry) : List MatchedEntry :=
  es.map fun e =>
    { e with effective := !e.doubtful && es.all fun x => x.doubtful || x.event.id ≠ e.event.id || !x.outranks e }

/-- Displacing entries whose id has no matched entry are removed (R32). -/
def pruneDisplacing (es : List MatchedEntry) : List MatchedEntry :=
  es.filter fun e => !e.displacing || es.any fun x => x.event.id = e.event.id && x.matched

/-- The displacing entries of one id are removed when it has no matched entry (R32, R33). -/
def pruneDisplacingOf (id : Nat) (es : List MatchedEntry) : List MatchedEntry :=
  if es.any (fun x => x.event.id = id && x.matched) then es
  else es.filter fun e => !(e.event.id = id && e.displacing)

/-- The table's entries are replaced, with the effective flags recomputed. -/
def State.setEntries (s : State) (es : List MatchedEntry) : State :=
  { s with gmx := ⟨recomputeEffective es⟩ }

/-- The slot is held (R27). -/
def State.held (s : State) (slot : Nat) : Bool := s.gmx.entries.any fun e => e.slot = slot

/-- An entry's place in the table, which no one can observe (R31): ascending by slot address. -/
def insertEntry (e : MatchedEntry) (es : List MatchedEntry) : List MatchedEntry :=
  insertBy (fun a b => decide (a.slot ≤ b.slot)) e es

/-! ### The guide partition -/

/-- The guide partition in force: base and number of sectors; none with a guide size of 0 or while unconfigured (2.1). -/
def LayoutGroup.guide (l : LayoutGroup) : Option (Nat × Nat) :=
  match l.guideBase with
  | none => none
  | some base => if l.guideBlocks = 0 then none else some (base, 16 * l.guideBlocks)

/-- An address lies in the guide partition in force. -/
def LayoutGroup.inGuide (l : LayoutGroup) (addr : Nat) : Bool :=
  match l.guide with
  | none => false
  | some (base, n) => base ≤ addr && addr < base + n * Config.sectorSize

/-- The sectors of the guide partition in force. -/
def LayoutGroup.guideSectors (l : LayoutGroup) : List Nat :=
  match l.guide with
  | none => []
  | some (base, n) => (List.range n).map fun i => base + i * Config.sectorSize

/-- Raising the guide scan request: pending with the cursor at 0, unless no guide partition is in force (R40). Links verified in
START-UP raise it as well (log 44). -/
def State.raiseScan (s : State) : State :=
  if s.rst.inForce.layout.guide.isSome then { s with ser := { s.ser with scanRequest := some 0 } } else s

/-! ### Reporting -/

/-- The cause reported for an id, from its effective event before and after (R38). -/
def eventCause (after : List MatchedEntry) (id : Nat) (old new : Option Event) : Option Change :=
  match old, new with
  | none, none => none
  | none, some _ => some .new
  | some a, some b => if a = b then none else some .revised
  | some _, none =>
    let left := after.filter fun e => e.event.id = id
    if !left.isEmpty && left.all (fun e => e.doubtful) then some .withheld else some .withdrawn

/-- The changed effective events between two tables, in ascending id (log 9). -/
def eventChanges (before after : List MatchedEntry) : List (Nat × Change × Option Event) :=
  (natSet ((before ++ after).map fun e => e.event.id)).filterMap fun id =>
    match eventCause after id (effectiveIn before id) (effectiveIn after id) with
    | some c => some (id, c, effectiveIn after id)
    | none => none

/-- At the end of a piece of work, the run engine is told of each changed effective event, and one replan request is sent
when the work calls for one (R38). -/
def State.reportEvents (trig : Trigger) (request : Bool) (before : List MatchedEntry) (s : State) : State :=
  let changes := eventChanges before s.gmx.entries
  let s1 := changes.foldl (fun s p => s.eventChange trig p.1 p.2.1 p.2.2) s
  if request && !changes.isEmpty then trig s1 else s1

/-! ### Taking a slot -/

/-- The sector of an address is a member of the verify set. -/
def State.doubtfulAt (s : State) (addr : Nat) : Bool := s.rst.verify.contains (sectorOf addr)

/-- TABLE_FULL for a refused event slot (R33). -/
def State.refuseEvent (s : State) (slot : Nat) (e : Event) (notice : Bool) : State :=
  let s1 := s.raise .tableFull
  if notice then s1.postNow .tableFull none 0x20 e.id (slot : Nat) else s1

/-- How slots are taken: one at a time from a program, or from a sector read, where only the first refusal posts (R33) and,
in a scan, no entry is removed (R41; log 10). -/
inductive TakeMode where
  | program
  | verify
  | scan
  deriving DecidableEq, Repr

/-- The state while slots are taken, and whether a refusal has already posted its notice. -/
structure Taking where
  st : State
  noticed : Bool

/-- A refusal: the flag, and the notice the mode allows (R33). -/
def Taking.refuse (t : Taking) (mode : TakeMode) (slot : Nat) (e : Event) : Taking :=
  ⟨t.st.refuseEvent slot e (mode = .program || !t.noticed), true⟩

/-- A matched slot enters, or is refused by a full table (R30, R33). Its doubtful mark follows its sector; in a verification
the sector is leaving the verify set. -/
def Taking.takeMatched (t : Taking) (mode : TakeMode) (slot : Nat) (e : Event) : Taking :=
  let s := t.st
  if s.gmx.entries.length < Config.matchedCap then
    let entry : MatchedEntry :=
      ⟨slot, e, s.isLinked e, s.isNamed e, false, mode ≠ .verify && s.doubtfulAt slot, false⟩
    ⟨s.setEntries (insertEntry entry s.gmx.entries), t.noticed⟩
  else t.refuse mode slot e

/-- The new slot outranks every matched entry of its id, and there is one (R32). -/
def displaces (es : List MatchedEntry) (slot : Nat) (e : Event) : Bool :=
  let same := es.filter fun x => x.event.id = e.id && x.matched
  !same.isEmpty && same.all fun x => outranks e.version slot x.event.version x.slot

/-- An unmatched slot enters as a displacing entry when it outranks the held ones; refused, it removes them instead (R32,
R33). -/
def Taking.takeUnmatched (t : Taking) (mode : TakeMode) (slot : Nat) (e : Event) : Taking :=
  let s := t.st
  if displaces s.gmx.entries slot e then
    if s.gmx.entries.length < Config.matchedCap then
      let entry : MatchedEntry := ⟨slot, e, false, false, true, mode ≠ .verify && s.doubtfulAt slot, false⟩
      ⟨s.setEntries (insertEntry entry s.gmx.entries), t.noticed⟩
    else
      let kept :=
        if mode = .scan then s.gmx.entries
        else pruneDisplacingOf e.id (s.gmx.entries.filter fun x =>
          !(x.event.id = e.id && x.matched && outranks e.version slot x.event.version x.slot))
      Taking.refuse ⟨s.setEntries kept, t.noticed⟩ mode slot e
  else t

/-- The match test decides how a valid event slot is taken (R30, R32). -/
def State.isMatched (s : State) (e : Event) : Bool := s.isLinked e || s.isNamed e

/-! ### Programs -/

/-- The bytes a program applies, with their page-relative offsets: the last 256 sent, wrapped in the page (R2, R27). -/
def appliedBytes (addr : Nat) (data : List Byte) : List (Nat × Byte) :=
  let skip := data.length - Config.pageSize
  ((data.drop skip).zipIdx skip).map fun p => ((addr + p.2) % Config.pageSize, p.1)

/-- The bytes applied to the slot at page offset `off`, with slot-relative offsets. -/
def slotBytes (applied : List (Nat × Byte)) (off : Nat) : List (Nat × Byte) :=
  (applied.filter fun p => off ≤ p.1 && p.1 < off + Config.slotSize).map fun p => (p.1 - off, p.2)

/-- The slot's sector joins the verify set: its entries become doubtful and lose the effective flag (R17, R35). -/
def State.doubtGuideSector (s : State) (sector : Nat) : State :=
  State.setEntries { s with rst := { s.rst with verify := insertNat sector s.rst.verify } }
    (s.gmx.entries.map fun e => if sectorOf e.slot = sector then { e with doubtful := true } else e)

/-- A program over a held slot (R34, R35). DEDUCED (log 60): the result is 3Fh AND the data byte, so that a data byte with bits 5
and 4 set leaves the slot unchanged only where its bits 0 to 3 are set too. -/
def State.programHeld (s : State) (slot : Nat) (bytes : List (Nat × Byte)) : State :=
  match bytes.filter fun p => p.2 ≠ Memory.blank with
  | [] => s
  | [(0, v)] =>
    if (0x3F : Byte) &&& v = 0x1F then
      s.setEntries (pruneDisplacing (s.gmx.entries.filter fun e => e.slot ≠ slot))
    else if (0x3F : Byte) &&& v = 0x3F then s
    else s.doubtGuideSector (sectorOf slot)
  | _ => s.doubtGuideSector (sectorOf slot)

/-- A slot's content from the bytes a whole program applied (R28). -/
def contentOf (bytes : List (Nat × Byte)) : Nat → Byte := fun i => (bytes.lookup i).getD Memory.blank

/-- A whole program over a slot that is not held (R28). -/
def State.programWhole (s : State) (slot : Nat) (f : Nat → Byte) : State :=
  match guideSlot f with
  | .event e =>
    if s.isMatched e then (Taking.takeMatched ⟨s, false⟩ .program slot e).st
    else (Taking.takeUnmatched ⟨s, false⟩ .program slot e).st
  | .damaged => s.postNow .recordDamaged none (f 1).toNat slot 0
  | .nothing => s

/-- One slot of a program (R27). -/
def State.programSlot (s : State) (page : Nat) (applied : List (Nat × Byte)) (off : Nat) : State :=
  let bytes := slotBytes applied off
  if bytes.isEmpty then s
  else if s.held (page + off) then s.programHeld (page + off) bytes
  else if bytes.length = Config.slotSize then s.programWhole (page + off) (contentOf bytes)
  else s

/-- An accepted program into the guide partition; one into a member sector is disregarded (R26, R27, R38). -/
def State.guideProgram (trig : Trigger) (addr : Nat) (data : List Byte) (s : State) : State :=
  let page := pageOf addr
  if !s.rst.inForce.layout.inGuide page || s.doubtfulAt page then s
  else
    let applied := appliedBytes addr data
    ([0, 64, 128, 192].foldl (fun s off => s.programSlot page applied off) s).reportEvents trig true s.gmx.entries

/-! ### Erases -/

/-- An accepted erase removes every entry whose slot lies in its range (R36, R38). -/
def State.guideErase (trig : Trigger) (lo len : Nat) (s : State) : State :=
  (s.setEntries (pruneDisplacing (s.gmx.entries.filter fun e => !(lo ≤ e.slot && e.slot < lo + len)))).reportEvents
    trig true s.gmx.entries

/-! ### The re-test -/

/-- One entry's new test results (R37). -/
def State.retestEntry (s : State) (e : MatchedEntry) : MatchedEntry :=
  let l := s.isLinked e.event
  let n := s.isNamed e.event
  { e with linked := l, named := n, displacing := !(l || n) }

/-- Every held entry is tested again; an unmatched one stays only where it outranks a matched entry of its id (R37). -/
def State.guideRetest (trig : Trigger) (s : State) : State :=
  let es := s.gmx.entries.map s.retestEntry
  let kept := es.filter fun e => e.matched || es.any fun x => x.event.id = e.event.id && x.matched && e.outranks x
  (s.setEntries (pruneDisplacing kept)).reportEvents trig false s.gmx.entries

/-! ### Reading sectors -/

/-- The valid event slots of a sector's data, ascending, with their flash addresses. -/
def sectorEvents (sector : Nat) (data : List Byte) : List (Nat × Event) :=
  (List.range (Config.sectorSize / Config.slotSize)).filterMap fun k =>
    match guideSlot (dataSlot data k) with
    | .event e => some (sector + Config.slotSize * k, e)
    | _ => none

/-- The slots of a sector read are taken: every matched slot first, then the unmatched ones against the entries then held
(R39, R41). -/
def State.takeSector (s : State) (mode : TakeMode) (slots : List (Nat × Event)) : State :=
  let t1 := (slots.filter fun p => s.isMatched p.2).foldl (fun t p => t.takeMatched mode p.1 p.2) (⟨s, false⟩ : Taking)
  ((slots.filter fun p => !s.isMatched p.2).foldl (fun t p => t.takeUnmatched mode p.1 p.2) t1).st

/-- What MIRROR_CORRECTED compares: slot addresses and fields (R39). -/
def sectorView (es : List MatchedEntry) (sector : Nat) : List (Nat × Event) :=
  (es.filter fun e => sectorOf e.slot = sector).map fun e => (e.slot, e.event)

/-- A guide sector of the verify set is verified (R39). No MIRROR_CORRECTED is posted at start-up (R39, R173; log 12). -/
def State.guideVerify (trig : Trigger) (sector : Nat) (data : List Byte) (s : State) : State :=
  let s1 := s.setEntries (s.gmx.entries.filter fun e => sectorOf e.slot ≠ sector)
  let s2 := s1.takeSector .verify (sectorEvents sector data)
  let s3 := s2.setEntries (pruneDisplacing s2.gmx.entries)
  let s4 :=
    if s.pwc.power ≠ .startUp && sectorView s.gmx.entries sector ≠ sectorView s3.gmx.entries sector then
      s3.postNow .mirrorCorrected none 3 sector 0
    else s3
  let s5 := { s4 with rst := { s4.rst with verify := s4.rst.verify.filter fun x => x ≠ sector } }
  s5.reportEvents trig true s.gmx.entries

/-- The scan request's sector has been read: unheld slots are taken and the cursor advances (R40, R41). DESIGN CHOICE (log 53):
the cursor advances by one whichever sector was read, so also where it was restarted at 0 since the read's sector was begun. -/
def State.guideScan (trig : Trigger) (sector : Nat) (data : List Byte) (s : State) : State :=
  let s1 := s.takeSector .scan ((sectorEvents sector data).filter fun p => !s.held p.1)
  let s2 := s1.reportEvents trig true s.gmx.entries
  let sectors := s2.rst.inForce.layout.guideSectors.length
  let next := fun c => if c + 1 < sectors then some (c + 1) else none
  { s2 with ser := { s2.ser with scanRequest := s2.ser.scanRequest.bind next } }

/-! ### The purge -/

/-- Entries whose end is at or before now - 86400 are removed; no replan request (R42). -/
def State.guidePurge (trig : Trigger) (s : State) : State :=
  let kept := s.gmx.entries.filter fun e => !(e.event.stop ≤ s.clk.counter - Config.day)
  (s.setEntries (pruneDisplacing kept)).reportEvents trig false s.gmx.entries

end Sys2Proof.Machine
end

