-- ==== Sys2Proof/Machine/Series.lean ====
section
/-! DEFINITION. The series engine (chapter 3): owners, episode keys, the tests that remove a key, showings, and the
derivation of the series candidates. -/

namespace Sys2Proof.Machine

/-- The effective events: effective entries that are matched (R31). -/
def State.effectiveEvents (s : State) : List Event :=
  (s.gmx.entries.filter fun e => e.effective && e.matched).map MatchedEntry.event

/-- The owner of an event: the reaching link of lowest rank, then of lowest id (R45). -/
def State.ownerOf (s : State) (e : Event) : Option LinkRec :=
  (sortBy (fun a b => lePair (a.rank, a.id) (b.rank, b.id)) (s.rst.tables.links.filter fun l => l.reaches e)).head?

/-- The key an owned event is gathered under (R46). -/
def keyOf (link : Nat) (e : Event) : EpisodeKey :=
  if e.episode = [] then .untagged e.id e.part else .tagged link e.episode e.part

/-- The event is the showing of a STARTING or RECORDING series run (R51). -/
def RunEngine.recordsEvent (r : RunEngine) (id : Nat) : Bool := r.runs.any fun x => x.ref = seriesRef id

/-- A series run in STARTING or RECORDING carries the key (R51). -/
def RunEngine.recordsKey (r : RunEngine) (k : EpisodeKey) : Bool :=
  r.runs.any fun x => match x.kind with | .series _ o => o.key = k | .manual _ => false

/-- The owned events with their links and keys; the showing of an active series run is absent from every group (R45, R46,
R51). -/
def State.ownedEvents (s : State) : List (EpisodeKey × LinkRec × Event) :=
  (s.effectiveEvents.filter fun e => !s.run.recordsEvent e.id).filterMap fun e =>
    (s.ownerOf e).map fun l => (keyOf l.id e, l, e)

/-- A booking in the booking table has recorded the episode or is set to record it (R49). -/
def State.covered (s : State) (l : LinkRec) : EpisodeKey → Bool
  | .untagged ev _ => s.rst.tables.bookings.any fun b => b.event = some ev
  | .tagged _ episode part =>
    s.rst.tables.bookings.any fun b =>
      match b.event with
      | none => false
      | some id =>
        match s.effectiveEvent id with
        | none => false
        | some v => v.series = l.tag && v.episode = episode && v.part = part

/-- A key is removed by a mark, a pending mark, coverage, new-only, or a recording under way (R47 to R51). -/
def State.keyRemoved (s : State) (k : EpisodeKey) (l : LinkRec) (group : List Event) : Bool :=
  marked s.rst.tables.marks k
    || s.ser.pendingMarks.any (fun p => p.key = k)
    || s.covered l k
    || (l.newOnly && !group.any (fun e => e.first))
    || s.run.recordsKey k

/-- The events of a group that are showings (R52). -/
def State.isShowing (s : State) (l : LinkRec) (e : Event) : Bool :=
  s.clk.counter < satAdd e.start e.duration
    && !historyExcludes s.run.history (seriesRef e.id)
    && (!l.newOnly || e.first)

def Event.showing (e : Event) : Showing := ⟨some e.id, e.service, e.start, e.duration, e.part, e.partCount⟩

/-- The candidate of one key: its showings in order, the first the primary (R52 to R54). -/
def State.candidateOf (s : State) (k : EpisodeKey) (l : LinkRec) (group : List Event) : Option Candidate :=
  if s.keyRemoved k l group then none
  else
    match sortBy (fun a b => lePair (a.start, a.id) (b.start, b.id)) (group.filter (s.isShowing l)) with
    | [] => none
    | p :: rest =>
      some
        { ref := seriesRef p.id, rank := l.rank, prePad := l.prePad, postPad := l.postPad, showing := p.showing,
          alternates := rest.map Event.showing, origin := some ⟨l.id, k⟩ }

/-- A list without repeats of its elements' keys, the first of each kept. -/
def distinctKeys : List (EpisodeKey × LinkRec × Event) → List (EpisodeKey × LinkRec)
  | [] => []
  | (k, l, _) :: rest => (k, l) :: (distinctKeys rest).filter fun p => p.1 ≠ k

/-- The series candidates, from the tables as they stand (R44). -/
def State.seriesCandidates (s : State) : List Candidate :=
  let owned := s.ownedEvents
  (distinctKeys owned).filterMap fun p =>
    s.candidateOf p.1 p.2 ((owned.filter fun o => o.1 = p.1).map fun o => o.2.2)

/-- Untagged pending keys whose event has no effective event and whose ref has left the history are removed (R58). -/
def State.removeUntagged (s : State) : State :=
  { s with ser := { s.ser with pendingMarks := s.ser.pendingMarks.filter fun p =>
      match p.key with
      | .tagged _ _ _ => true
      | .untagged ev _ => (s.effectiveEvent ev).isSome || s.run.history.any (fun h => h.ref = p.ref) } }

/-- A mark key that enters the mark table removes its pending key (R56). -/
def State.markEntered (s : State) (m : MarkRec) : State :=
  { s with ser := { s.ser with pendingMarks := s.ser.pendingMarks.filter fun p => p.key ≠ .tagged m.link m.tag m.part } }

end Sys2Proof.Machine
end

