-- ==== Sys2Proof/Machine/Planner.lean ====
section
/-! DEFINITION. The planner (chapter 4): the snapshot and the start of a replan, and the placement computed from the
snapshot alone. -/

namespace Sys2Proof.Machine

/-! ### The snapshot and the trigger -/

/-- The manual candidates (R63). -/
def State.manualCandidates (s : State) : List Candidate :=
  (s.rst.tables.bookings.filter fun b =>
      !b.finished && !historyExcludes s.run.history b.id && !s.run.endStates.any (fun e => e.booking = b.id)
        && !s.run.runs.any (fun r => r.ref = b.id)).map fun b =>
    { ref := b.id, rank := 0, prePad := b.prePad, postPad := b.postPad,
      showing := ⟨b.event, b.service, b.start, b.duration, 0, 0⟩, alternates := [], origin := none }

/-- A pinned run with the showing and pads its record gives (R64, R70). -/
def State.pinnedRun (s : State) (r : ActiveRun) : PinnedRun :=
  match r.kind with
  | .manual _ =>
    ⟨r, (s.booking r.ref).map fun b => (⟨b.event, b.service, b.start, b.duration, 0, 0⟩, b.prePad, b.postPad)⟩
  | .series ev o =>
    let pads := match s.link o.link with
      | some l => (l.prePad, l.postPad)
      | none => (none, none)
    ⟨r, (s.effectiveEvent ev).map fun e => (e.showing, pads.1, pads.2)⟩

/-- The snapshot (R65). -/
def State.takeSnapshot (s : State) : Snapshot :=
  let g := s.rst.inForce.schedule
  { now := s.clk.counter, tuner := s.rst.inForce.tuner, prePad := g.prePad, postPad := g.postPad, horizon := g.horizon,
    services := s.rst.tables.services, candidates := s.manualCandidates ++ s.seriesCandidates,
    pinned := s.run.runs.map s.pinnedRun, viewer := s.tun.viewerTuner }

/-- A trigger while the replan is RUNNING: the stale flag (R83). -/
def State.markStale (s : State) : State := { s with pln := { s.pln with stale := true } }

/-- History entries whose window end plus a day has passed leave (R123). -/
def State.historyPurge (s : State) : State :=
  { s with run := { s.run with history := s.run.history.filter fun h => s.clk.counter < satAdd h.windowEnd Config.day } }

/-- A replan starts (R84): the stale flag is cleared, the purges, the removal of untagged pending keys, the derivation and the
snapshot, which takes in every record change so far (R121). Triggers that arise in these steps find it RUNNING. DESIGN CHOICE
(log 55): the guide's purge precedes the history's. -/
def State.startReplan (s : State) : State :=
  let s1 := { s with pln := { s.pln with stale := false } }
  let s2 := ((s1.guidePurge State.markStale).historyPurge).removeUntagged
  { s2 with pln := { s2.pln with snapshot := some s2.takeSnapshot }, run := { s2.run with changed := [] } }

/-- A replan trigger (R83). -/
def State.trigger (s : State) : State :=
  if s.pln.snapshot.isSome then s.markStale
  else if s.clk.valid then s.startReplan
  else s

/-! ### Windows (4.2) -/

/-- A showing's effective window [ws, we) and effective core [cs, ce) (R67, R68). -/
structure Windows where
  ws : Nat
  we : Nat
  cs : Nat
  ce : Nat
  deriving DecidableEq, Repr

/-- The windows of a showing, clipped at now (R66 to R68). -/
def Snapshot.windows (sn : Snapshot) (pre post : Option Nat) (sh : Showing) : Windows :=
  let P := 60 * pre.getD sn.prePad
  let Q := 60 * post.getD sn.postPad
  let c := satAdd sh.start sh.duration
  { ws := max (sh.start - P) sn.now, we := satAdd c Q, cs := max sh.start sn.now, ce := c }

/-- The horizon's end (R69). -/
def Snapshot.limit (sn : Snapshot) : Nat := satAdd sn.now (sn.horizon * Config.day)

def Snapshot.serviceOf (sn : Snapshot) (id : Nat) : Option ServiceRec := sn.services.find? (fun r => r.id = id)

/-- What is settled before placement (R68, R69). -/
inductive PreStatus where
  | empty
  | past
  | noService
  | deferred
  | open_
  deriving DecidableEq, Repr

def Snapshot.preStatus (sn : Snapshot) (c : Candidate) : PreStatus :=
  let w := sn.windows c.prePad c.postPad c.showing
  if c.showing.start = timeMax then .empty
  else if w.ce ≤ sn.now then .past
  else if (sn.serviceOf c.showing.service).isNone then .noService
  else if sn.limit ≤ w.ws then .deferred
  else .open_

/-! ### Profiles and feasibility (4.5) -/

/-- An entry of the plan being built, with its multiplex and feed group; CLASH entries occupy no profile (R72, R79). -/
structure Placed where
  entry : PlanEntry
  multiplex : Nat
  feed : Nat
  deriving DecidableEq, Repr

/-- The entry's window contains the instant, on tuner T (R72). -/
def Placed.presentOn (p : Placed) (T : Tuner) (t : Nat) : Bool :=
  p.entry.status ≠ .clash && p.entry.tuner = some T && p.entry.wstart ≤ t && t < p.entry.wend

/-- The entries present on T at an instant (R72). -/
def profile (ps : List Placed) (T : Tuner) (t : Nat) : List Placed := ps.filter fun p => p.presentOn T t

/-- The four conditions of R73 at one instant, for a showing of multiplex m and feed group f on T. DESIGN CHOICE (log 45): where
the entries present have different multiplexes, the tuner is feasible for none. -/
def feasibleAt (g : TunerGroup) (ps : List Placed) (T : Tuner) (m f t : Nat) : Bool :=
  let here := profile ps T t
  let there := profile ps (otherTuner T) t
  here.all (fun p => p.multiplex = m)
    && here.length < g.perTuner
    && here.length + there.length < g.cap
    && (g.mode ≠ .twinLooped || there.all fun p => p.feed = f)

/-- The instants within [ws, we) at which a profile may change: window starts and ends, with both bounds (R72). -/
def boundaries (ps : List Placed) (ws we : Nat) : List Nat :=
  natSet ((ws :: we :: ps.flatMap fun p => [p.entry.wstart, p.entry.wend]).filter fun t => ws ≤ t && t ≤ we)

/-- Consecutive pairs of a list. -/
def segments : List Nat → List (Nat × Nat)
  | a :: b :: rest => (a, b) :: segments (b :: rest)
  | _ => []

/-- The blocked set as segments between profile boundaries (R76). -/
def blockedSegments (g : TunerGroup) (ps : List Placed) (T : Tuner) (m f ws we : Nat) : List (Nat × Nat) :=
  (segments (boundaries ps ws we)).filter fun s => !feasibleAt g ps T m f s.1

/-- The tuner's profile carries multiplex m at an instant (R74). DESIGN CHOICE (log 45): a profile of entries with different
multiplexes carries none. -/
def carries (ps : List Placed) (T : Tuner) (m t : Nat) : Bool :=
  let here := profile ps T t
  !here.isEmpty && here.all fun p => p.multiplex = m

/-- The try order (R74): the multiplex at the window's start, then no viewer hold, then A before B. -/
def tryOrder (sn : Snapshot) (ps : List Placed) (m ws : Nat) : List Tuner :=
  let score := fun T => (if carries ps T m ws then 0 else 2) + (if sn.viewer = some T then 1 else 0)
  match sn.tuner.mode with
  | .single => [.A]
  | _ => if score .A ≤ score .B then [.A, .B] else [.B, .A]

/-! ### Placing one candidate (4.6) -/

/-- A placement found: the tuner, the status of a primary, and the window. -/
structure Found where
  tuner : Tuner
  trimmed : Bool
  ws : Nat
  we : Nat
  deriving DecidableEq, Repr

/-- The padded attempt on one tuner (R75). -/
def tryPadded (sn : Snapshot) (ps : List Placed) (w : Windows) (m f : Nat) (T : Tuner) : Option Found :=
  if (blockedSegments sn.tuner ps T m f w.ws w.we).isEmpty then some ⟨T, false, w.ws, w.we⟩ else none

/-- The trimmed attempt on one tuner (R76): no blocked instant in the core; the latest blocked end before it and the
earliest blocked start after it bound the window. Segments that touch make one blocked run; their latest end and earliest
start are the same. -/
def tryTrimmed (sn : Snapshot) (ps : List Placed) (w : Windows) (m f : Nat) (T : Tuner) : Option Found :=
  let blocked := blockedSegments sn.tuner ps T m f w.ws w.we
  if blocked.any fun s => s.1 < w.ce && w.cs < s.2 then none
  else
    some ⟨T, true, ((blocked.map Prod.snd).filter (fun e => e ≤ w.cs)).foldl max w.ws,
      ((blocked.map Prod.fst).filter (fun b => w.ce ≤ b)).foldl min w.we⟩

/-- Both attempts of one showing, in its try order (R74 to R76). -/
def tryShowing (sn : Snapshot) (ps : List Placed) (w : Windows) (sv : ServiceRec) : Option Found :=
  let order := tryOrder sn ps sv.multiplex w.ws
  match order.findSome? (tryPadded sn ps w sv.multiplex sv.feed) with
  | some r => some r
  | none => order.findSome? (tryTrimmed sn ps w sv.multiplex sv.feed)

/-- The plan under construction. -/
structure Building where
  placed : List Placed
  clashes : List ClashRec
  overCount : Nat
  deriving DecidableEq, Repr

/-- The entry of a placed showing (R75, R76, R78, R80). -/
def entryFor (c : Candidate) (sh : Showing) (w : Windows) (ref : Nat) (status : PlanStatus) (r : Found) : PlanEntry :=
  { ref := ref, status := status, tuner := some r.tuner, wstart := r.ws, wend := r.we, cstart := w.cs, cend := w.ce,
    service := sh.service, showing := sh.event, part := sh.part, partCount := sh.partCount, origin := c.origin,
    generation := 0 }

/-- An alternate is skipped when its event is already a placed entry's showing, its service is unknown, its start is
FFFFFFFFh, or it lies beyond the horizon (R77). -/
def skipAlternate (sn : Snapshot) (b : Building) (w : Windows) (sh : Showing) : Bool :=
  b.placed.any (fun p => p.entry.status ≠ .clash && p.entry.showing = sh.event && sh.event.isSome)
    || (sn.serviceOf sh.service).isNone
    || sh.start = timeMax
    || sn.limit ≤ w.ws

/-- The alternates in turn (R77, R78). -/
def tryAlternates (sn : Snapshot) (b : Building) (c : Candidate) : List Showing → Option Placed
  | [] => none
  | sh :: rest =>
    let w := sn.windows c.prePad c.postPad sh
    if skipAlternate sn b w sh then tryAlternates sn b c rest
    else match sn.serviceOf sh.service with
      | none => tryAlternates sn b c rest
      | some sv =>
        match tryShowing sn b.placed w sv with
        | some r =>
          some ⟨entryFor c sh w (seriesRef (sh.event.getD 0)) (if r.trimmed then .trimmed else .moved) r, sv.multiplex, sv.feed⟩
        | none => tryAlternates sn b c rest

/-- A clash: the entry without a tuner, and the record of its opponents (R79). DESIGN CHOICE (log 46): a pinned entry with an
empty window is no opponent. -/
def clashOf (b : Building) (c : Candidate) (w : Windows) : Building :=
  let entry : PlanEntry :=
    { ref := c.ref, status := .clash, tuner := none, wstart := w.ws, wend := w.we, cstart := w.cs, cend := w.ce,
      service := c.showing.service, showing := c.showing.event, part := c.showing.part, partCount := c.showing.partCount,
      origin := c.origin, generation := 0 }
  let opponents := (b.placed.filter fun p =>
    p.entry.status ≠ .clash && p.entry.wstart < p.entry.wend && p.entry.wstart < w.ce && w.cs < p.entry.wend).map fun p => p.entry.ref
  { b with
    placed := b.placed ++ [⟨entry, 0, 0⟩]
    clashes := b.clashes ++ [⟨c.ref, w.ws, w.ce, opponents.take Config.opponentCap, decide (Config.opponentCap < opponents.length), 0⟩] }

/-- One candidate through the attempts (R71, R75 to R79); a full plan table makes it OVER. -/
def placeCandidate (sn : Snapshot) (b : Building) (c : Candidate) : Building :=
  if Config.planCap ≤ b.placed.length then { b with overCount := b.overCount + 1 }
  else
    let w := sn.windows c.prePad c.postPad c.showing
    match sn.serviceOf c.showing.service with
    | none => b
    | some sv =>
      match tryShowing sn b.placed w sv with
      | some r =>
        { b with placed := b.placed ++ [⟨entryFor c c.showing w c.ref (if r.trimmed then .trimmed else .placed) r, sv.multiplex, sv.feed⟩] }
      | none =>
        match tryAlternates sn b c c.alternates with
        | some p => { b with placed := b.placed ++ [p] }
        | none => clashOf b c w

/-- A pinned run's entry (R70). What it shows beside the window when the record gives no values is the model's choice (log 21).
DESIGN CHOICE (log 59): its service is the one the run was granted with, whatever the record says. -/
def pinEntry (sn : Snapshot) (p : PinnedRun) : Placed :=
  let r := p.run
  let mf := match sn.serviceOf r.service with
    | some sv => (sv.multiplex, sv.feed)
    | none => (r.multiplex, r.feed)
  let base : PlanEntry :=
    { ref := r.ref, status := .pinned, tuner := some r.tuner, wstart := r.actualStart, wend := r.windowEnd,
      cstart := r.actualStart, cend := r.windowEnd, service := r.service, showing := r.showing, part := r.part,
      partCount := r.partCount, origin := match r.kind with | .series _ o => some o | .manual _ => none, generation := 0 }
  match p.record with
  | none => ⟨base, mf.1, mf.2⟩
  | some (sh, pre, post) =>
    let w := sn.windows pre post sh
    ⟨{ base with wend := w.we, cstart := max sh.start r.actualStart, cend := w.ce, showing := sh.event, part := sh.part,
                 partCount := sh.partCount }, mf.1, mf.2⟩

/-- The placement order (R71): rank, effective window start, ref. -/
def Snapshot.order (sn : Snapshot) (a b : Candidate) : Bool :=
  let ka := (sn.windows a.prePad a.postPad a.showing).ws
  let kb := (sn.windows b.prePad b.postPad b.showing).ws
  a.rank < b.rank || (a.rank = b.rank && lePair (ka, a.ref) (kb, b.ref))

/-- The pinned entries by actual start and ref (R70). -/
def Snapshot.pins (sn : Snapshot) : List Placed :=
  (sortBy (fun a b => lePair (a.run.actualStart, a.run.ref) (b.run.actualStart, b.run.ref)) sn.pinned).map (pinEntry sn)

/-- Pinned entries first, then every candidate in order (R70, R71). -/
def Snapshot.build (sn : Snapshot) : Building :=
  (sortBy sn.order (sn.candidates.filter fun c => sn.preStatus c = .open_)).foldl (placeCandidate sn) ⟨sn.pins, [], 0⟩

/-- The plan a snapshot gives: the table by window start and ref, the clash list in placement order (R80 to R82). -/
def Snapshot.plan (sn : Snapshot) : Plan :=
  let b := sn.build
  { entries := sortBy (fun x y => lePair (x.wstart, x.ref) (y.wstart, y.ref)) (b.placed.map Placed.entry)
    clashes := b.clashes.take Config.clashCap
    deferred := (sn.candidates.filter fun c => sn.preStatus c = .deferred).length
    overCount := b.overCount
    truncated := decide (Config.clashCap < b.clashes.length) }

end Sys2Proof.Machine
end

