-- ==== Sys2Proof/Machine/Store.lean ====
section
/-! DEFINITION. The record store (chapter 1): the slot directory, effective records, tables, the work after each applied
write or verification (R4), joining the verify set (R17), verification (R18) and the adoption of a configuration (R21). -/

namespace Sys2Proof.Machine

/-! ### The slot directory -/

/-- The flash address of the anchor. -/
def State.anchorBase (s : State) : Nat := s.pins.fsize.anchor

/-- The schedule partition the schedule mirror is attached to (R1, R21). -/
def State.scheduleBase (s : State) : Option Nat := s.rst.inForce.layout.schedule

/-- The slots of a mirror that lists a state byte, with that byte; every other slot is BLANK. -/
def Memory.slots (m : Memory) : List (Nat × Byte) :=
  m.filter fun c => c.1 % Config.slotSize = 0

/-- The slots of the schedule mirror outside the verify set that list a state byte: mirror offset, flash address, state
byte (R5). -/
def State.schedSlots (s : State) : List (Nat × Nat × Byte) :=
  match s.scheduleBase with
  | none => []
  | some base =>
    (s.rst.schedule.slots.map fun c => (c.1, base + c.1, c.2)).filter fun p => !s.doubtfulAt p.2.1

/-- The same for the anchor mirror. -/
def State.anchorSlots (s : State) : List (Nat × Nat × Byte) :=
  (s.rst.anchor.slots.map fun c => (c.1, s.anchorBase + c.1, c.2)).filter fun p => !s.doubtfulAt p.2.1

/-- A LIVE slot's record, or DAMAGED for a state byte that names no state (R5). -/
def State.schedRecords (s : State) : List (Nat × Nat × SchedSlot) :=
  s.schedSlots.filterMap fun p =>
    match stateOfByte p.2.2 with
    | .live => some (p.1, p.2.1, schedSlot (s.rst.schedule.slotAt p.1) p.2.1)
    | .damaged => some (p.1, p.2.1, .damaged)
    | _ => none

def State.anchorRecords (s : State) : List (Nat × Nat × AnchorSlot) :=
  s.anchorSlots.filterMap fun p =>
    match stateOfByte p.2.2 with
    | .live => some (p.1, p.2.1, anchorSlot s.pins.fsize (s.rst.anchor.slotAt p.1) p.2.1)
    | .damaged => some (p.1, p.2.1, .damaged)
    | _ => none

/-- A slot's resolved state in the slot directory, for a slot of the anchor or the schedule mirror (R5 to R7). -/
def State.slotState (s : State) (addr : Nat) : SlotState :=
  if s.doubtfulAt addr then .doubtful
  else if s.anchorBase ≤ addr then
    let f := s.rst.anchor.slotAt (addr - s.anchorBase)
    match stateOfByte (f 0) with
    | .live => if anchorSlot s.pins.fsize f addr = .damaged then .damaged else .live
    | st => st
  else
    let f := s.rst.schedule.slotAt (addr - s.scheduleBase.getD 0)
    match stateOfByte (f 0) with
    | .live => if schedSlot f addr = .damaged then .damaged else .live
    | st => st

/-! ### Effective records (1.5) -/

/-- Of the contenders of one id, the highest revision, then the highest slot address (R15). The list keeps its order. -/
def effectiveOf {α : Type} (id revision slot : α → Nat) (xs : List α) : List α :=
  xs.filter fun x => xs.all fun y => id y ≠ id x || !outranks (revision y) (slot y) (revision x) (slot x)

/-- Each present mark key at its lowest slot address (R16). The list is ascending by slot address. -/
def presentMarks : List MarkRec → List MarkRec
  | [] => []
  | m :: rest => m :: (presentMarks rest).filter fun x => !(x.link = m.link && x.tag = m.tag && x.part = m.part)

/-- The effective records of the four kinds, ascending by slot address (R15, R16). -/
def State.effectiveRecords (s : State) : Records :=
  let rs := s.schedRecords.map fun p => p.2.2
  { services := effectiveOf ServiceRec.id ServiceRec.revision ServiceRec.slot
      (rs.filterMap fun r => match r with | .service x => some x | _ => none)
    bookings := effectiveOf BookingRec.id BookingRec.revision BookingRec.slot
      (rs.filterMap fun r => match r with | .booking x => some x | _ => none)
    links := effectiveOf LinkRec.id LinkRec.revision LinkRec.slot
      (rs.filterMap fun r => match r with | .link x => some x | _ => none)
    marks := presentMarks (rs.filterMap fun r => match r with | .mark x => some x | _ => none) }

/-- The records the tables hold: the lowest slot addresses up to each capacity (R19). -/
def Records.held (r : Records) : Records :=
  ⟨r.services.take Config.servicesCap, r.bookings.take Config.bookingsCap, r.links.take Config.linksCap,
    r.marks.take Config.marksCap⟩

/-- The records left out of full tables (R19). -/
def Records.left (r : Records) : Records :=
  ⟨r.services.drop Config.servicesCap, r.bookings.drop Config.bookingsCap, r.links.drop Config.linksCap,
    r.marks.drop Config.marksCap⟩

/-- The effective CONFIG: highest revision, then highest slot address, of the valid ones (R15). -/
def State.resolveConfig (s : State) : Option ConfigRec :=
  (effectiveOf (fun _ => 0) ConfigRec.revision ConfigRec.slot
    (s.anchorRecords.filterMap fun p => match p.2.2 with | .config x => some x | _ => none)).head?

/-- The effective OPCODES record (R15). -/
def State.resolveOpcodes (s : State) : Option OpcodesRec :=
  (effectiveOf (fun _ => 0) OpcodesRec.revision OpcodesRec.slot
    (s.anchorRecords.filterMap fun p => match p.2.2 with | .opcodes x => some x | _ => none)).head?

/-! ### Marks and notices of a re-resolution -/

/-- The DAMAGED slots outside the verify set, ascending, with their kind bytes (R5, R7). -/
def State.damagedSlots (s : State) : List (Nat × Byte) :=
  (s.schedRecords.filterMap fun p => match p.2.2 with | .damaged => some (p.2.1, s.rst.schedule.read (p.1 + 1)) | _ => none)
    ++ (s.anchorRecords.filterMap fun p => match p.2.2 with | .damaged => some (p.2.1, s.rst.anchor.read (p.1 + 1)) | _ => none)

/-- The REJECTED slots outside the verify set, ascending, with their revisions (R13). -/
def State.rejectedSlots (s : State) : List (Nat × Nat) :=
  s.anchorRecords.filterMap fun p => match p.2.2 with | .rejected rev => some (p.2.1, rev) | _ => none

/-- A slot newly DAMAGED posts RECORD_DAMAGED and takes the reported mark; a slot that has left DAMAGED loses it; a
DOUBTFUL slot keeps it (R7). DESIGN CHOICE (log 43): a verification that finds the slot DAMAGED again keeps it too, whatever
its bytes. -/
def State.reportDamaged (s : State) : State :=
  let now := s.damagedSlots
  let fresh := now.filter fun p => !s.rst.reported.contains p.1
  let kept := s.rst.reported.filter fun a => s.doubtfulAt a
  fresh.foldl (fun s p => s.postNow .recordDamaged none (p.2.toNat : Nat) p.1 0)
    { s with rst := { s.rst with reported := natSet (now.map Prod.fst ++ kept) } }

/-- A slot newly REJECTED posts CONFIG_REJECTED and takes the rejected mark; a slot that has left LIVE, as a DOUBTFUL one
has, or that is found valid loses it (R13; log 8). -/
def State.reportRejected (s : State) : State :=
  let now := s.rejectedSlots
  let fresh := now.filter fun p => !s.rst.rejected.contains p.1
  fresh.foldl (fun s p => s.postNow .configRejected none 0 p.1 (p.2 : Nat))
    { s with rst := { s.rst with rejected := natSet (now.map Prod.fst) } }

/-- TABLE_FULL for each record newly left out (R19): kind, id, slot. -/
def State.reportLeft (s : State) (kind : Nat) (fresh : List (Nat × Nat)) : State :=
  fresh.foldl (fun s p => (s.raise .tableFull).postNow .tableFull none (kind : Nat) p.1 (p.2 : Nat)) s

/-- Whether two marks are one key. -/
def sameKey (a b : MarkRec) : Bool := a.link = b.link && a.tag = b.tag && a.part = b.part

/-- The TABLE_FULL notices of a recomputation, in the kind order (R4, R19). -/
def State.reportLeftOut (before : Records) (s : State) : State :=
  let l := s.rst.leftOut
  let s1 := s.reportLeft 0x01 ((l.services.filter fun r => !before.services.any fun o => o.id = r.id).map fun r => (r.id, r.slot))
  let s2 := s1.reportLeft 0x02 ((l.bookings.filter fun r => !before.bookings.any fun o => o.id = r.id).map fun r => (r.id, r.slot))
  let s3 := s2.reportLeft 0x03 ((l.links.filter fun r => !before.links.any fun o => o.id = r.id).map fun r => (r.id, r.slot))
  s3.reportLeft 0x04 ((l.marks.filter fun r => !before.marks.any (sameKey r)).map fun r => (r.link, r.slot))

/-! ### Configuration changes (1.8) -/

/-- What a recomputation did to the configuration. -/
structure ConfigOutcome where
  scheduleApplied : Bool
  tunerApplied : Bool
  tunerDeferred : Bool
  deriving DecidableEq, Repr

/-- The configuration "in the record": the effective CONFIG's, or the unconfigured defaults (1.8). -/
def State.recordCfg (s : State) : Cfg :=
  match s.rst.effConfig with
  | some r => r.cfg
  | none => unconfigured s.pins.fsize

/-- A changed effective CONFIG against the configuration in force, group by group (R22, R23). -/
def State.changeConfig (s : State) : State × ConfigOutcome :=
  let new := s.recordCfg
  let old := s.rst.inForce
  let s1 := if new.layout ≠ old.layout then s.raise .restartNeeded else s
  let scheduleApplied := decide (new.schedule ≠ old.schedule)
  let differs := decide (new.tuner ≠ old.tuner)
  let active := !s.run.runs.isEmpty
  let tunerApplied := differs && !active
  let inForce := { old with schedule := new.schedule, tuner := if tunerApplied then new.tuner else old.tuner }
  let deferred := if differs && active then some new.tuner else none
  ({ s1 with rst := { s1.rst with inForce := inForce, deferred := deferred } },
    ⟨scheduleApplied, tunerApplied, differs && active && s.rst.deferred.isNone⟩)

/-- The notices of a configuration change: one CONFIG_APPLIED for what was applied, then CONFIG_DEFERRED (R22, R23). -/
def State.postConfig (s : State) (o : ConfigOutcome) : State :=
  let r := s.configRef
  let detail : Int := (if o.scheduleApplied then 1 else 0) + (if o.tunerApplied then 2 else 0)
  let s1 := if o.scheduleApplied || o.tunerApplied then s.postNow .configApplied none detail r.1 (r.2 : Nat) else s
  if o.tunerDeferred then s1.postNow .configDeferred none 2 r.1 (r.2 : Nat) else s1

/-! ### Hand-offs (R20) -/

/-- The cause handed over with a booking that has no entry now: withheld while a LIVE, valid slot of its id remains in the
schedule mirror, else withdrawn (R20). DESIGN CHOICE (log 54): a doubtful slot counts by the bytes the mirror holds now. -/
def State.bookingGone (s : State) (id : Nat) : Change :=
  match s.scheduleBase with
  | none => .withdrawn
  | some base =>
    if s.rst.schedule.slots.any (fun c => stateOfByte c.2 = .live &&
        (match schedSlot (s.rst.schedule.slotAt c.1) (base + c.1) with | .booking b => decide (b.id = id) | _ => false))
    then .withheld else .withdrawn

/-- The changes of the booking table, in ascending id (R20; log 9). -/
def State.bookingChanges (before : List BookingRec) (s : State) : List (Nat × Change × Option BookingRec) :=
  let after := s.rst.tables.bookings
  (natSet ((before ++ after).map BookingRec.id)).filterMap fun id =>
    match before.find? (fun b => b.id = id), after.find? (fun b => b.id = id) with
    | none, some b => some (id, .new, some b)
    | some a, some b => if a = b then none else some (id, .revised, some b)
    | some _, none => some (id, s.bookingGone id, none)
    | none, none => none

/-- A link that appears, or changes its tag or restriction, raises the guide scan request (R20, R40). -/
def linkRaisesScan (before after : List LinkRec) : Bool :=
  after.any fun l =>
    match before.find? (fun o => o.id = l.id) with
    | none => true
    | some o => o.tag ≠ l.tag || o.service ≠ l.service

/-- The changes are handed to the blocks that depend on them, in the order of R20; in START-UP too (log 44). -/
def State.handOff (trig : Trigger) (before : Records) (s : State) : State :=
  let after := s.rst.tables
  let s1 := if before.bookings ≠ after.bookings ∨ before.links ≠ after.links then s.guideRetest trig else s
  let s2 := (State.bookingChanges before.bookings s).foldl (fun s p => s.bookingChange trig p.1 p.2.1 p.2.2) s1
  let s3 := if linkRaisesScan before.links after.links then s2.raiseScan else s2
  let s4 := if before.services ≠ after.services then s3.reloadWarn else s3
  (after.marks.filter fun m => !before.marks.any (sameKey m)).foldl (fun s m => s.markEntered m) s4

/-! ### The work after a write or a verification (R4, R18) -/

/-- Steps 1 to 3 of R4 for the anchor: outside the verify set, the effective CONFIG and OPCODES are resolved afresh; a
changed OPCODES gives FPX its class table (R24). -/
def State.resolveAnchor (s : State) : State :=
  if s.doubtfulAt s.anchorBase then s
  else
    let opcodes := s.resolveOpcodes
    let s1 := { s with rst := { s.rst with effConfig := s.resolveConfig, effOpcodes := opcodes } }
    if opcodes = s.rst.effOpcodes then s1
    else { s1 with fpx := { s1.fpx with classTable := classTableOf opcodes } }

/-- The tables are recomputed from the slots as they stand (R19). -/
def State.recomputeTables (s : State) : State :=
  let eff := s.effectiveRecords
  { s with rst := { s.rst with tables := eff.held, leftOut := eff.left } }

/-- Steps 1 to 6 of R4: resolution, tables and configuration, notices, hand-offs, and one replan request when a table or the
configuration in force changed. -/
def State.storeUpdate (trig : Trigger) (s : State) : State :=
  let before := s.rst.tables
  let leftBefore := s.rst.leftOut
  let s1 := (s.recomputeTables).resolveAnchor
  let changed := decide (s1.rst.effConfig ≠ s.rst.effConfig)
  let (s2, outcome) := if changed then s1.changeConfig else (s1, ⟨false, false, false⟩)
  let s3 := ((s2.reportDamaged.reportRejected).reportLeftOut leftBefore).postConfig outcome
  let s4 := if outcome.tunerApplied then s3.applyTunerMode else s3
  let s5 := s4.handOff trig before
  if s2.rst.tables ≠ before ∨ outcome.scheduleApplied ∨ outcome.tunerApplied then trig s5 else s5

/-! ### Applied writes (1.2) -/

/-- A program's bytes are ANDed into one mirror, `page` being the page's offset in it (R2). -/
def Memory.program (m : Memory) (page : Nat) (applied : List (Nat × Byte)) : Memory :=
  applied.foldl (fun m p => m.clearBits (page + p.1) p.2) m

/-- An accepted program meets the anchor or the schedule mirror, or neither (R1, R2). -/
def State.mirrorProgram (s : State) (addr : Nat) (data : List Byte) : State :=
  let page := pageOf addr
  let applied := appliedBytes addr data
  if s.anchorBase ≤ page ∧ page < s.anchorBase + Config.sectorSize then
    { s with rst := { s.rst with anchor := s.rst.anchor.program (page - s.anchorBase) applied } }
  else match s.scheduleBase with
    | some base =>
      if base ≤ page ∧ page < base + Config.blockSize then
        { s with rst := { s.rst with schedule := s.rst.schedule.program (page - base) applied } }
      else s
    | none => s

/-- An accepted erase of [lo, lo + len) sets the mirror bytes it meets to FFh (R3). -/
def State.mirrorErase (s : State) (lo len : Nat) : State :=
  let s1 := { s with rst := { s.rst with anchor := s.rst.anchor.erase (lo - s.anchorBase) (lo + len - s.anchorBase - (lo - s.anchorBase)) } }
  match s.scheduleBase with
  | some base => { s1 with rst := { s1.rst with schedule := s.rst.schedule.erase (lo - base) (lo + len - base - (lo - base)) } }
  | none => s1

/-- The range meets the anchor sector or the schedule partition in force (R1, R144). -/
def State.meetsMirror (s : State) (r : FlashRange) : Bool :=
  rangesMeet r.lo r.len s.anchorBase Config.sectorSize
    || (match s.scheduleBase with | some base => rangesMeet r.lo r.len base Config.blockSize | none => false)

/-- The range meets the guide partition in force (R26, R144). -/
def State.meetsGuide (s : State) (r : FlashRange) : Bool :=
  match s.rst.inForce.layout.guide with
  | some (base, n) => rangesMeet r.lo r.len base (n * Config.sectorSize)
  | none => false

/-! ### The verify set (1.6) -/

/-- The sixteen sectors of the schedule partition in force. -/
def State.scheduleSectors (s : State) : List Nat :=
  match s.scheduleBase with
  | some base => (List.range 16).map fun i => base + i * Config.sectorSize
  | none => []

/-- Every watched sector: the anchor, the schedule partition's and the guide partition's (R171). -/
def State.watchedSectors (s : State) : List Nat :=
  s.anchorBase :: (s.scheduleSectors ++ s.rst.inForce.layout.guideSectors)

/-- The watched sectors a range meets (R17). -/
def State.sectorsMeeting (s : State) (r : FlashRange) : List Nat :=
  s.watchedSectors.filter fun x => rangesMeet r.lo r.len x Config.sectorSize

/-- Sectors join the verify set (R17): anchor and schedule slots become DOUBTFUL with the work of R4, then guide entries
become doubtful with the reports of R38 (R35; log 15). -/
def State.joinVerify (trig : Trigger) (sectors : List Nat) (s : State) : State :=
  let s1 := { s with rst := { s.rst with verify := natSet (sectors ++ s.rst.verify) } }
  let s2 := s1.storeUpdate trig
  let s3 := s2.setEntries (s2.gmx.entries.map fun e =>
    if sectors.contains (sectorOf e.slot) then { e with doubtful := true } else e)
  s3.reportEvents trig true s2.gmx.entries

/-- The part is unconfigured: no effective CONFIG was adopted (1.8). -/
def State.isConfigured (s : State) : Bool := s.rst.inForce.layout.schedule.isSome

/-- The first verification of the anchor after a reset adopts the configuration, the class table and the layout; the
adopted partitions' sectors join the verify set (R17, R21). -/
def State.adopt (s : State) : State :=
  let s1 := s.resolveAnchor
  let s2 := { s1 with rst := { s1.rst with adopted := true, inForce := s1.recordCfg } }
  { s2 with rst := { s2.rst with verify := natSet (s2.scheduleSectors ++ s2.rst.inForce.layout.guideSectors ++ s2.rst.verify) } }

/-- The sector's 4 KiB of mirror are replaced by the bytes read, and the sector leaves the verify set (R18). -/
def State.replaceSector (s : State) (sector : Nat) (data : List Byte) : State :=
  let verify := s.rst.verify.filter fun x => x ≠ sector
  if sector = s.anchorBase then
    { s with rst := { s.rst with anchor := s.rst.anchor.replace 0 data, verify := verify } }
  else match s.scheduleBase with
    | some base => { s with rst := { s.rst with schedule := s.rst.schedule.replace (sector - base) data, verify := verify } }
    | none => { s with rst := { s.rst with verify := verify } }

/-- An anchor or schedule sector is verified (R18): MIRROR_CORRECTED when a byte differed, then the work of R4, or the
adoption for the first anchor verification. -/
def State.mirrorVerify (trig : Trigger) (sector : Nat) (data : List Byte) (s : State) : State :=
  let s1 := s.replaceSector sector data
  let s2 :=
    if s1.rst.anchor ≠ s.rst.anchor ∨ s1.rst.schedule ≠ s.rst.schedule then
      s1.postNow .mirrorCorrected none (if sector = s.anchorBase then 1 else 2) sector 0
    else s1
  if sector = s.anchorBase ∧ !s.rst.adopted then (s2.adopt).storeUpdate trig
  else s2.storeUpdate trig

end Sys2Proof.Machine
end

