-- ==== Sys2Proof/Machine/Publish.lean ====
section
/-! DEFINITION. Publishing a plan (R86, R87) and handing it on: the run engine's reconciliation (R110), WARN (R134) and
WAKE (R178). -/

namespace Sys2Proof.Machine

/-! ### Reconciliation -/

/-- A plan entry that becomes a waiting entry: PLACED, TRIMMED or MOVED, none of the cases R110 leaves out, and not changed since
the plan's snapshot (R121). -/
def State.waits (s : State) (e : PlanEntry) : Bool :=
  (e.status = .placed || e.status = .trimmed || e.status = .moved)
    && !s.run.runs.any (fun r => r.ref = e.ref)
    && !historyExcludes s.run.history e.ref
    && (match e.origin with
        | none =>
          !s.run.endStates.any (fun x => x.booking = e.ref)
            && (match s.booking e.ref with | some b => !b.finished | none => false)
        | some _ => (s.effectiveEvent (e.ref - 0x80000000)).isSome)
    && !(e.tuner = some .B && s.rst.inForce.tuner.mode = .single)
    && !s.run.changed.contains e.ref

/-- The blocked mark and cause kept from the previous list: same ref, tuner and window start (R110). -/
def keptBlock (old : List WaitingEntry) (ref : Nat) (T : Tuner) (wstart : Nat) : Option Cause :=
  match old.find? (fun w => w.ref = ref && w.tuner = T && w.wstart = wstart) with
  | some w => w.blocked
  | none => none

/-- The waiting list rebuilt from the published plan (R110). -/
def State.rebuildWaiting (s : State) : State :=
  let waiting := (s.pln.plan.entries.filter s.waits).filterMap fun e =>
    match e.tuner with
    | none => none
    | some T =>
      some (⟨e.ref, T, e.wstart, e.wend, e.service, e.showing, e.part, e.partCount, e.origin,
        keptBlock s.run.waiting e.ref T e.wstart⟩ : WaitingEntry)
  { s with run := { s.run with waiting := waiting } }

/-- A run still active has its window end recomputed (R109, R110). -/
def State.recomputeIfActive (trig : Trigger) (ref : Nat) (s : State) : State :=
  match s.runOf ref with
  | some r => s.recomputeEnd trig r
  | none => s

/-- The run engine reconciles with a newly published plan (R110). DESIGN CHOICE (log 48): the runs are taken in the order in which
they entered the run table. -/
def State.reconcile (trig : Trigger) (s : State) : State :=
  ((s.run.runs.foldl (fun s r => s.recomputeIfActive trig r.ref) s).rebuildWaiting).reloadRunChannels

/-! ### WAKE -/

/-- The waiting entry WAKE is loaded for: the earliest window start later than the counter and than the woken-for time; of
several, the lowest ref (R178, R179). -/
def State.nextWake (s : State) : Option WaitingEntry :=
  (sortBy (fun a b => lePair (a.wstart, a.ref) (b.wstart, b.ref))
    (s.run.waiting.filter fun e =>
      s.clk.counter < e.wstart && (match s.pwc.wokenFor with | none => true | some w => decide (w < e.wstart)))).head?

/-- WAKE takes that start less the wake lead, held at 0 and raised to the counter; with no such entry it is disabled
(R178). -/
def State.reloadWake (s : State) : State :=
  match s.nextWake with
  | none => State.disableChannel { s with pwc := { s.pwc with wakeTarget := none } } .wake
  | some e =>
    State.loadChannel { s with pwc := { s.pwc with wakeTarget := some ⟨e.wstart, e.ref, e.tuner⟩ } } .wake
      (max (e.wstart - s.rst.inForce.schedule.wakeLead) s.clk.counter)

/-! ### Publishing -/

/-- What PLAN_PUBLISHED compares of an entry: never its generation (R86). -/
structure EntryView where
  ref : Nat
  status : PlanStatus
  tuner : Option Tuner
  wstart : Nat
  wend : Nat
  showing : Option Nat
  deriving DecidableEq, Repr

def PlanEntry.view (e : PlanEntry) : EntryView := ⟨e.ref, e.status, e.tuner, e.wstart, e.wend, e.showing⟩

/-- The new plan differs from the one it replaces (R86). -/
def plansDiffer (old new : Plan) : Bool :=
  decide (old.entries.map PlanEntry.view ≠ new.entries.map PlanEntry.view)
    || new.clashes.any (fun c => old.clashes.any fun o => o.ref = c.ref && (o.opponents ≠ c.opponents || o.more ≠ c.more))
    || old.deferred ≠ new.deferred || old.overCount ≠ new.overCount || old.truncated ≠ new.truncated

/-- The generation is written into every entry and clash record (R86). -/
def Plan.stamp (p : Plan) (g : BitVec 32) : Plan :=
  { p with
    entries := p.entries.map fun e => { e with generation := g }
    clashes := p.clashes.map fun c => { c with generation := g } }

/-- The CLASH entries in table order. -/
def Plan.clashEntries (p : Plan) : List PlanEntry := p.entries.filter fun e => e.status = .clash

/-- The plan is replaced as a whole under the next generation, PLAN_NEW is raised, and PLAN_PUBLISHED posted when the plan
differs or is the first since a reset (R86). -/
def State.replacePlan (s : State) (p : Plan) : State :=
  let g := s.pln.generation + 1
  let notify := !s.pln.published || plansDiffer s.pln.plan p
  let s1 := State.raise { s with pln := { s.pln with plan := p.stamp g, generation := g, published := true } } .planNew
  if notify then
    s1.postNow .planPublished none (p.clashEntries.length : Nat)
      (match p.clashEntries with | e :: _ => e.ref | [] => noRef) (g.toNat : Nat)
  else s1

/-- The end of a publish: another replan when the stale flag is set and time is VALID, else IDLE (R87). -/
def State.finishPublish (s : State) : State :=
  let s1 := { s with pln := { s.pln with snapshot := none } }
  if s.pln.stale then
    (if s.clk.valid then s1.startReplan else { s1 with pln := { s1.pln with stale := false } })
  else s1

/-- A replan completes (R86, R87): with none RUNNING, nothing (log 2). The hand-overs happen while it is RUNNING, so their
triggers set the stale flag. -/
def State.publish (s : State) : State :=
  match s.pln.snapshot with
  | none => s
  | some sn =>
    ((((s.replacePlan sn.plan).reconcile State.trigger).reloadWarn).reloadWake).finishPublish

end Sys2Proof.Machine
end

