-- ==== Sys2Proof/Machine/Power.lean ====
section
/-! DEFINITION. Path ownership, lends and the scan engine's work (8.9, 8.10), and the power and wake controller (chapter
10). -/

namespace Sys2Proof.Machine

/-! ### Work of the scan engine -/

/-- A sector is workable unless it meets the range of the suspended write (R156). -/
def State.workable (s : State) (sector : Nat) : Bool :=
  match s.fpx.suspended with
  | some w => !rangesMeet w.range.lo w.range.len sector Config.sectorSize
  | none => true

/-- The RELEASE code, when the class table gives one (R156). -/
def State.releaseCode (s : State) : Option Byte := (s.fpx.classTable.firstOf .release).map ClassEntry.code

/-- The flash can be woken: awake, or a RELEASE code is configured (R156). -/
def State.canWake (s : State) : Bool := !s.fpx.asleep || s.releaseCode.isSome

/-- The guide sector the pending scan request's cursor names (R40). -/
def State.cursorSector (s : State) : Option Nat :=
  match s.ser.scanRequest, s.rst.inForce.layout.guide with
  | some c, some (base, _) => some (base + c * Config.sectorSize)
  | _, _ => none

/-- The next sector to work and its purpose, in the order of R156. In START-UP the guide is read through the verify set, and a
scan request that links raise waits for the next ownership (R40, R173; log 44). -/
def State.nextWork (s : State) : Option (Nat × Purpose) :=
  if !s.fpx.attached || !s.canWake then none
  else
    let members := fun (xs : List Nat) => xs.filter fun x => s.rst.verify.contains x && s.workable x
    match members [s.anchorBase], members s.scheduleSectors, members s.rst.inForce.layout.guideSectors with
    | x :: _, _, _ => some (x, .mirror)
    | [], x :: _, _ => some (x, .mirror)
    | [], [], x :: _ => some (x, .guideVerify)
    | [], [], [] =>
      if s.rst.verify.isEmpty && s.pwc.power ≠ .startUp then
        match s.cursorSector with
        | some x => if s.workable x then some (x, .guideScan) else none
        | none => none
      else none

/-- The number of sectors still to read: the verify set's members, and from the cursor to the end of the guide partition
while a scan request is pending (R155). -/
def State.sectorsLeft (s : State) : Nat :=
  s.rst.verify.length
    + (match s.ser.scanRequest with
       | some c => s.rst.inForce.layout.guideSectors.length - c
       | none => 0)

/-! ### Ownership and lends -/

/-- The K240 takes the path: a new ownership, with no status read yet (R154, R157). -/
def State.takePath (s : State) : State :=
  { s with fpx := { s.fpx with owner := .k240, firstPoll := none, gaveUp := false } }

/-- LEND_DONE's details (R182). -/
inductive LendEnd where
  | done
  | expired
  | standby
  deriving DecidableEq, Repr

def LendEnd.detail : LendEnd → Int
  | .done => 1
  | .expired => 2
  | .standby => 3

/-- A lend ends (R155): LEND_DONE; on DONE and EXPIRED the SoC owns the path again. -/
def State.endLend (s : State) (why : LendEnd) : State :=
  match s.fpx.lend with
  | none => s
  | some l =>
    let s1 := s.postNow .lendDone none why.detail s.sectorsLeft (l.read : Nat)
    { s1 with fpx := { s1.fpx with lend := none, owner := if why = .standby then s1.fpx.owner else .soc } }

/-! ### DORMANT -/

/-- The conditions of R176 for entering DORMANT. -/
def State.dormantReady (s : State) : Bool :=
  s.pwc.power = .standby && !s.pwc.handBack && s.fpx.scan = .idle && s.nextWork.isNone && s.fpx.inFlight.isNone
    && s.pln.snapshot.isNone && s.clk.events.isEmpty && s.pwc.waking.isNone
    && allChannels.all fun c =>
      !((s.clk.channels.get c).enabled && (s.clk.channels.get c).value ≤ s.clk.counter + Config.dormantGuard)

/-- The flash is put to sleep when the part is ATTACHED and both codes are known (R176). -/
def State.sleepFlash (s : State) : State :=
  match s.fpx.attached, s.fpx.classTable.firstOf .powerDown, s.releaseCode with
  | true, some pd, some rel =>
    let s1 := s.ownCode pd.code
    { s1 with fpx := { s1.fpx with asleep := true }, pwc := { s1.pwc with sleepNote := some rel } }
  | _, _, _ => s

/-- PWC tests the condition and moves from STANDBY to DORMANT when it holds (R176). -/
def State.dormantTest (s : State) : State :=
  if s.dormantReady then
    let s1 := s.sleepFlash
    { s1 with pwc := { s1.pwc with power := .dormant } }
  else s

/-- The noted RELEASE code is sent, the note cleared and the flag set awake (R173, R176). -/
def State.wakeFlash (s : State) : State :=
  match s.pwc.sleepNote with
  | none => s
  | some code =>
    let s1 := s.ownCode code
    { s1 with fpx := { s1.fpx with asleep := false }, pwc := { s1.pwc with sleepNote := none } }

/-- The part returns from DORMANT to STANDBY (R176). -/
def State.dormantReturn (s : State) : State :=
  if s.pwc.power = .dormant then
    let s1 := s.wakeFlash
    { s1 with pwc := { s1.pwc with power := .standby } }
  else s

/-! ### STANDBY, hand-back, end of start-up -/

/-- PWC enters STANDBY from RUN (R175): a lend ends with detail STANDBY and the K240 keeps the path, otherwise FPX takes it;
WAKE is reloaded (R178). -/
def State.enterStandby (s : State) : State :=
  let s1 := if s.fpx.lend.isSome then s.endLend .standby else s.takePath
  (State.reloadWake { s1 with pwc := { s1.pwc with power := .standby } }).dormantTest

/-- The wake ends: the WAKE line is released and the wake state is IDLE (R179). -/
def State.endWake (s : State) : State :=
  { s with pwc := { s.pwc with waking := none, wakeLine := false } }

/-- The path is handed back to the SoC and the power state becomes RUN; a wake under way ends (R177). -/
def State.finishHandBack (s : State) : State :=
  State.endWake
    { s with
      fpx := { s.fpx with owner := .soc }
      pwc := { s.pwc with power := .run, socrst := false, handBack := false } }

/-- Start-up ends (R174): PWRGOOD decides the owner and the power state, SOCRST is released, STARTUP_DONE is posted and
raised. -/
def State.endStartUp (s : State) : State :=
  let s1 :=
    if s.pins.pwrgood then
      { s with fpx := { s.fpx with owner := .soc }, pwc := { s.pwc with power := .run } }
    else { s with pwc := { s.pwc with power := .standby } }
  let s2 := { s1 with pwc := { s1.pwc with socrst := false } }
  let s3 := (s2.postNow .startupDone none (if s2.pwc.cold then 1 else 2) s2.pwc.startupReads
    (if s2.isConfigured then 1 else 0)).raise .startupDone
  if s.pins.pwrgood then s3 else s3.reloadWake

/-- Work is re-examined after a sector read and at the start of an ownership (R155, R156, R174, R177). -/
def State.afterWork (s : State) : State :=
  match s.pwc.power with
  | .startUp => if s.nextWork.isNone then s.endStartUp else s
  | .run =>
    match s.fpx.lend with
    | none => s
    | some l => if l.expired then s.endLend .expired else if s.nextWork.isNone then s.endLend .done else s
  | .standby => if s.pwc.handBack then s.finishHandBack else s
  | .dormant => s

/-- A lend begins at the end of the command's selection (R155). -/
def State.beginLend (s : State) (ms : Nat) : State :=
  let s1 := s.takePath
  State.afterWork { s1 with fpx := { s1.fpx with lend := some ⟨s.clk.crystal, ms, 0, false⟩ } }

/-! ### Wake -/

/-- The hand-back of R177, by what the scan engine is doing: a read is carried to its end under SOCRST, a sector whose data
has not begun is abandoned. -/
def State.startHandBack (s : State) : State :=
  match s.fpx.scan with
  | .reading _ _ => { s with pwc := { s.pwc with socrst := true, handBack := true } }
  | _ => State.finishHandBack { s with fpx := { s.fpx with scan := .idle } }

/-- PWRGOOD rises (R174, R176, R177, R179); a line already high cannot rise (log 2). -/
def State.pwrgoodUp (s : State) : State :=
  if s.pins.pwrgood then s
  else
    let s1 := { s with pins := { s.pins with pwrgood := true } }
    match s1.pwc.power with
    | .startUp => s1
    | .run => s1
    | _ => (s1.dormantReturn.endWake).startHandBack

/-- PWRGOOD falls: in RUN, STANDBY is entered (R175); in the other states only the line's level changes. -/
def State.pwrgoodDown (s : State) : State :=
  if s.pins.pwrgood then
    let s1 := { s with pins := { s.pins with pwrgood := false } }
    match s1.pwc.power with
    | .run => s1.enterStandby
    | _ => s1
  else s

/-- WAKE's event (R179): the woken-for time, and in STANDBY with the wake state IDLE the WAKE line, the deadline and
WAKE_ISSUED; then WAKE is reloaded (R178). -/
def State.wakeFired (e : CompareEvent) (s : State) : State :=
  match e.target with
  | none => s.reloadWake
  | some t =>
    let s1 := { s with pwc := { s.pwc with wokenFor := some t.wstart } }
    if s1.pwc.power = .standby && s1.pwc.waking.isNone then
      let s2 :=
        { s1 with pwc := { s1.pwc with
            waking := some ⟨e.crystal + Config.wakeSeconds * Config.secondPeriods, t.ref, e.time⟩, wakeLine := true } }
      (s2.post ⟨.wakeIssued, some t.tuner, 0, e.time, t.ref, (t.wstart : Nat)⟩).reloadWake
    else s1.reloadWake

/-- The wake deadline has passed: WAKE is released, the wake state is IDLE and WAKE_FAILED is posted (R179). -/
def State.wakeExpired (s : State) : State :=
  match s.pwc.waking with
  | none => s
  | some w =>
    if w.deadline ≤ s.clk.crystal then s.endWake.postNow .wakeFailed none 0 w.ref (w.fired : Nat) else s

/-- WARN's event: each threatened entry that has fallen due is announced and joins the warned list; then WARN is reloaded
(R135). -/
def State.warnDue (f : Nat) (s : State) : State :=
  let due := sortBy (fun a b => lePair (a.wstart, a.ref) (b.wstart, b.ref))
    (s.threatened.filter fun e => s.warningTime e ≤ f)
  (due.foldl (fun s e =>
    match s.threat e with
    | some t => (s.post ⟨.handoverWarning, s.tun.viewerTuner, t.detail, f, e.ref, (e.wstart : Nat)⟩).addWarned e.ref
    | none => s) s).reloadWarn

/-! ### The viewer (7.3) -/

/-- The record as it would stand if the viewer's hold were released (R131). -/
def Tun.judged (t : Tun) (T : Tuner) : TunerRec := (t.get T).releaseViewer

/-- The looped condition of a VIEW (R131). -/
def viewLoopOk (g : TunerGroup) (t : Tun) (T : Tuner) (f : Nat) : Bool :=
  g.mode ≠ .twinLooped || (t.judged (otherTuner T)).state = .idle || (t.judged (otherTuner T)).feed = some f

/-- The tuners of the mode, the one the viewer holds now first (R131). -/
def viewOrder (g : TunerGroup) (t : Tun) : List Tuner :=
  match t.viewerTuner with
  | some .B => if g.mode.tuners.contains .B then [.B, .A] else [.A]
  | _ => g.mode.tuners

/-- A waiting entry planned on T of a multiplex other than m starts within the warning lead (R131). -/
def State.takenSoon (s : State) (T : Tuner) (m : Nat) : Bool :=
  s.run.waiting.any fun e =>
    e.tuner = T && e.wstart ≤ satAdd s.clk.counter s.rst.inForce.schedule.warningLead
      && (match s.service e.service with | some sv => sv.multiplex ≠ m | none => false)

/-- The tuner a VIEW takes, and whether it joins (R131). -/
def State.chooseView (s : State) (m f : Nat) : Option (Tuner × Bool) :=
  let g := s.rst.inForce.tuner
  let order := viewOrder g s.tun
  match order.find? (fun T => (s.tun.judged T).state ≠ .idle && (s.tun.judged T).multiplex = some m && viewLoopOk g s.tun T f) with
  | some T => some (T, true)
  | none =>
    match order.find? (fun T => (s.tun.judged T).state = .idle && !s.takenSoon T m && viewLoopOk g s.tun T f) with
    | some T => some (T, false)
    | none => none

/-- The record of the tuner a VIEW is granted on (R132): from IDLE, or in VIEW on another multiplex, it takes m and f. -/
def TunerRec.takeViewer (r : TunerRec) (service m f : Nat) : TunerRec :=
  if r.streams = 0 && r.multiplex ≠ some m then { r with multiplex := some m, feed := some f, viewer := some service }
  else { r with viewer := some service }

/-- A VIEW is granted (R132). -/
def State.grantView (s : State) (T : Tuner) (joined : Bool) (service m f : Nat) : State :=
  let held := s.tun.viewerTuner
  let t1 := if held = some (otherTuner T) then s.tun.set (otherTuner T) (s.tun.get (otherTuner T)).releaseViewer else s.tun
  let t2 := t1.set T ((t1.get T).takeViewer service m f)
  let s1 := { s with tun := t2 }
  let s2 := s1.postNow .viewGranted (some T) (if joined then 1 else 2) service (m : Nat)
  let newHold := decide (held ≠ some T)
  let old := s.tun.get T
  let changed := newHold || old.multiplex ≠ (t2.get T).multiplex || old.feed ≠ (t2.get T).feed
  let s3 := if changed then s2.viewerHoldChanged.emptyWarned.reloadWarn else s2
  if newHold then s3.trigger else s3

/-- A VIEW whose argument has passed its check (R131, R132). -/
def State.doView (s : State) (service : Nat) : State :=
  match s.service service with
  | none => s.postNow .viewRefused none 1 service 0
  | some sv =>
    match s.chooseView sv.multiplex sv.feed with
    | some (T, joined) => s.grantView T joined service sv.multiplex sv.feed
    | none => s.postNow .viewRefused none 2 service 0

/-- VIEW_END (R133). -/
def State.doViewEnd (s : State) : State :=
  match s.tun.viewerTuner with
  | none => s
  | some T =>
    let s1 := { s with tun := s.tun.set T (s.tun.get T).releaseViewer }
    (s1.viewerHoldChanged.emptyWarned.reloadWarn).trigger

end Sys2Proof.Machine
end

