-- ==== Sys2Proof/Machine/Clock.lean ====
section
/-! DEFINITION. The schedule clock (chapter 5): the length of a second, the advance of the counter and the wrap, the time
set with its drift estimate, and the crystal's idle period. -/

namespace Sys2Proof.Machine

/-! ### Seconds -/

/-- The length of the second that carries `n`, in crystal periods (R91). -/
def secondLength (n : Nat) (k : Int) : Nat :=
  if n % 256 < k.natAbs then (if 0 < k then Config.secondPeriods + 1 else Config.secondPeriods - 1)
  else Config.secondPeriods

/-- A second begins that carries `n` (R91). -/
def Clk.beginSecond (k : Clk) (n : Nat) : Clk :=
  { k with counter := n, prescaler := 0, secondLen := secondLength n k.trim }

/-- The crystal counts what the second in progress still calls for (R90; log 4). -/
def Clk.runOut (k : Clk) : Clk := { k with crystal := k.crystal + (k.secondLen - k.prescaler) }

/-- The end of a second: the counter goes from n to n + 1; from FFFFFFFFh it wraps to 0, every channel is disabled and time
is UNSET (R90, R97). -/
def Clk.advance (k : Clk) : Clk :=
  if timeMax ≤ k.counter then { k.runOut.beginSecond 0 with valid := false }.disableAll
  else k.runOut.beginSecond (k.counter + 1)

/-- An advance with VDD present: the wrap posts CLOCK_WRAPPED (R97); any other value is checked against the channels (R100)
and a multiple of 3600 gives the hourly trigger (R98). Either event returns the part from DORMANT first (R176). A wrap is followed by
no test for DORMANT (log 39). -/
def State.advancePowered (s : State) : State :=
  let s1 := { s with clk := s.clk.advance }
  if timeMax ≤ s.clk.counter then s1.postNow .clockWrapped none 0 timeMax s.clk.trim
  else
    let s2 := s1.checkChannels
    let hourly := decide (s2.clk.counter % 3600 = 0)
    if hourly || decide (s1.clk.events.length < s2.clk.events.length) then
      (if hourly then s2.dormantReturn.trigger else s2.dormantReturn).dormantTest
    else s2

/-- The counter advances with VDD present or absent; without VDD nothing but the clock acts (R105). -/
def State.advanceCounter (s : State) : State :=
  if s.pins.vdd then s.advancePowered else { s with clk := s.clk.advance }

/-! ### Setting the time -/

/-- The correction c (R94). -/
def correction (told tn : Nat) : Int := (tn : Int) - (told : Int)

/-- -c * 8388608 / E to the nearest whole number, halves away from zero (R96), for E above 0. -/
def driftDelta (c : Int) (e : Nat) : Int :=
  let q : Int := ((2 * c.natAbs * 8388608 + e) / (2 * e) : Nat)
  if 0 < c then -q else q

/-- A change of the trim, held at plus and minus 255 (R96). -/
def clampTrim (k : Int) : Int := max (-255) (min 255 k)

/-- The trim a small correction leaves (R96). -/
def Clk.estimate (k : Clk) (c : Int) : Int :=
  match k.lastSet with
  | none => k.trim
  | some t => if t + 3600 ≤ k.counter then clampTrim (k.trim + driftDelta c (k.counter - t)) else k.trim

/-- The set is a small correction (R95). -/
def isSmall (limit : Nat) (c : Int) : Bool := c.natAbs ≤ limit

/-- The clock after SET_TIME (R94 to R96): a small correction may change the trim, a step never does. -/
def Clk.load (k : Clk) (limit tn : Nat) : Clk :=
  let c := correction k.counter tn
  let trim := if isSmall limit c then k.estimate c else k.trim
  { { k with trim := trim }.beginSecond tn with lastSet := some tn, valid := true }

/-- SET_TIME (R94, R95): the load, TIME_STEPPED for a step, the channels, the replan trigger. -/
def State.setTime (s : State) (tn : Nat) : State :=
  let limit := s.rst.inForce.schedule.stepLimit
  let c := correction s.clk.counter tn
  let s1 := { s with clk := s.clk.load limit tn }
  let s2 :=
    if isSmall limit c then s1
    else s1.postNow .timeStepped none (max (-32767) (min 32767 c)) s.clk.counter s.clk.trim
  s2.checkChannels.trigger

/-! ### The crystal -/

/-- The in-flight write's deadline has passed (R146). -/
def State.writeDue (s : State) : Bool :=
  match s.fpx.inFlight with
  | some w => decide (w.deadline ≤ s.clk.crystal)
  | none => false

/-- The lend's length has run out (R155): `ms` milliseconds of 32768 periods a second. -/
def State.lendDue (s : State) : Bool :=
  match s.fpx.lend with
  | some l => !l.expired && decide (l.ms * Config.secondPeriods ≤ (s.clk.crystal - l.start) * 1000)
  | none => false

/-- 400 s have passed since the ownership's first status read (R157). -/
def State.busyOver (s : State) : Bool :=
  match s.fpx.firstPoll with
  | some t => decide (t + Config.busySeconds * Config.secondPeriods ≤ s.clk.crystal)
  | none => false

/-- The 400 s of the ownership's busy wait have passed while a sector waits (R157). -/
def State.busyDue (s : State) : Bool :=
  match s.fpx.scan with
  | .waiting _ _ => s.busyOver
  | _ => false

/-- The wake deadline has passed (R179). -/
def State.wakeDue (s : State) : Bool :=
  match s.pwc.waking with
  | some w => decide (w.deadline ≤ s.clk.crystal)
  | none => false

/-- The rows whose moment has come on the crystal (log 4); without VDD only the second's end comes (R105). -/
def State.dueRows (s : State) : List Instr :=
  (if s.clk.secondLen ≤ s.clk.prescaler then [.counterAdvance] else [])
    ++ (if s.pins.vdd then
          (if s.writeDue then [.writeDeadlineExpiry] else []) ++ (if s.lendDue then [.lendExpiry] else [])
            ++ (if s.busyDue then [.busyWaitTimeout] else []) ++ (if s.wakeDue then [.wakeDeadlineExpiry] else [])
        else [])

/-- With no command waiting, the crystal counts one period and the rows that are now due are queued (log 4). -/
def State.idlePeriod (s : State) : State :=
  let s1 := State.clearPorts
    { s with clk := { s.clk with crystal := s.clk.crystal + 1, prescaler := s.clk.prescaler + 1 } }
  { s1 with pending := s1.pending ++ s1.dueRows }

end Sys2Proof.Machine
end

