-- ==== Sys2Proof/Machine/Window.lean ====
section
/-! DEFINITION. The window pages (9.1, 11.2): every byte the report unit serves, and what serving a byte changes. -/

namespace Sys2Proof.Machine

/-! ### Fields -/

/-- A flag or state byte: 01h set, 00h clear. -/
def boolByte (b : Bool) : Byte := if b then 0x01 else 0x00

/-- 00h for A, 01h for B, FFh for none (R182). -/
def tunerByte : Option Tuner → Byte
  | some .A => 0x00
  | some .B => 0x01
  | none => 0xFF

/-- The little-endian bytes of a field, all bits set when absent. -/
def optBytes (n : Nat) : Option Nat → List Byte
  | some v => leBytes n v
  | none => List.replicate n 0xFF

/-- A signed field, little-endian (11.2). -/
def intBytes (n : Nat) (v : Int) : List Byte := leBytes n (BitVec.ofInt (8 * n) v).toNat

def PowerState.byte : PowerState → Byte
  | .startUp => 0x00
  | .run => 0x01
  | .standby => 0x02
  | .dormant => 0x03

def TunerState.byte : TunerState → Byte
  | .idle => 0x00
  | .view => 0x01
  | .recording => 0x02
  | .shared => 0x03

def PlanStatus.byte : PlanStatus → Byte
  | .pinned => 0x01
  | .placed => 0x02
  | .trimmed => 0x03
  | .moved => 0x04
  | .clash => 0x05

/-- The notice kind codes (R182). -/
def NoticeKind.byte : NoticeKind → Byte
  | .start => 0x01
  | .stop => 0x02
  | .missed => 0x03
  | .handoverWarning => 0x04
  | .viewGranted => 0x05
  | .viewRefused => 0x06
  | .viewLost => 0x07
  | .planPublished => 0x08
  | .tableFull => 0x09
  | .recordDamaged => 0x0A
  | .configRejected => 0x0C
  | .configDeferred => 0x0D
  | .configApplied => 0x0E
  | .mirrorCorrected => 0x0F
  | .guardBlocked => 0x10
  | .lendDone => 0x11
  | .timeStepped => 0x12
  | .clockWrapped => 0x13
  | .wakeIssued => 0x14
  | .wakeFailed => 0x15
  | .startupDone => 0x16

/-! ### Pages -/

/-- The command page (R183). -/
def Rep.commandPage (r : Rep) : List Byte := [r.lastCode, r.lastResult, r.lastCounter]

/-- The toggle byte (R161). -/
def Pln.toggleByte (p : Pln) : Byte := if p.toggle then 0xFF else 0x00

/-- The status header (R160): the counter's upper bytes come from the latch. -/
def State.header (s : State) : List Byte :=
  [0x40, 0x02, 0x01, s.pwc.power.byte, boolByte (!s.fpx.attached), boolByte (s.fpx.owner = .k240)]
    ++ leBytes 2 s.flagSet.toNat ++ leBytes 2 s.rep.mask.toNat ++ leBytes 1 s.clk.counter ++ leBytes 3 s.rep.latch.toNat
    ++ [boolByte s.clk.valid] ++ intBytes 2 s.clk.trim ++ [s.pln.toggleByte] ++ leBytes 4 s.pln.generation.toNat
    ++ leBytes 1 s.rep.notices.length ++ leBytes 2 s.pln.plan.deferred ++ leBytes 2 s.pln.plan.overCount
    ++ [boolByte s.pln.plan.truncated]

/-- A tuner record (R139). -/
def TunerRec.bytes (r : TunerRec) : List Byte :=
  [r.state.byte] ++ optBytes 1 r.feed ++ optBytes 2 r.multiplex ++ leBytes 1 r.streams ++ [boolByte r.viewer.isSome]
    ++ optBytes 2 r.viewer

/-- A notice place (9.2). -/
def Notice.bytes (n : Notice) : List Byte :=
  [n.kind.byte, tunerByte n.tuner] ++ intBytes 2 n.detail ++ leBytes 4 n.time ++ leBytes 4 n.ref ++ intBytes 4 n.aux

/-- A plan place (R80). -/
def PlanEntry.bytes (e : PlanEntry) : List Byte :=
  leBytes 4 e.ref ++ [e.status.byte, tunerByte e.tuner] ++ leBytes 2 e.service ++ leBytes 4 e.wstart ++ leBytes 4 e.wend
    ++ leBytes 4 e.cstart ++ leBytes 4 e.cend ++ optBytes 3 e.showing
    ++ [BitVec.ofNat 8 (e.part % 16 + 16 * (e.partCount % 16))] ++ leBytes 4 e.generation.toNat

/-- A clash place (R81): the core length is the core end less the window start. DESIGN CHOICE (log 50): bits 1 to 7 of the flags
byte read 0. -/
def ClashRec.bytes (c : ClashRec) : List Byte :=
  leBytes 4 c.ref ++ leBytes 4 c.wstart ++ leBytes 3 (c.cend - c.wstart) ++ [boolByte c.more]
    ++ (List.range Config.opponentCap).flatMap (fun i => optBytes 4 c.opponents[i]?) ++ leBytes 4 c.generation.toNat

/-- Byte `off` of a page of places of `size` bytes; an empty place reads FFh. -/
def placeByte {α : Type} (bytes : α → List Byte) (size : Nat) (xs : List α) (off : Nat) : Byte :=
  match xs[off / size]? with
  | some x => (bytes x).getD (off % size) 0xFF
  | none => 0xFF

/-- The report unit's byte at a window offset (R159, R182). -/
def State.windowByte (s : State) (off : Nat) : Byte :=
  if off < 0x100 then s.rep.commandPage.getD off 0xFF
  else if off < 0x200 then s.header.getD (off - 0x100) 0xFF
  else if off < 0x400 then placeByte TunerRec.bytes 16 [s.tun.a, s.tun.b] (off - 0x200)
  else if off < 0x600 then placeByte Notice.bytes 16 s.rep.notices (off - 0x400)
  else if off < 0x1000 then 0xFF
  else if off < 0x3000 then placeByte PlanEntry.bytes 32 s.pln.plan.entries (off - 0x1000)
  else if off < 0x4000 then placeByte ClashRec.bytes 32 s.pln.plan.clashes (off - 0x3000)
  else 0xFF

/-! ### Serving -/

/-- The window offset of the counter's low byte (R160). -/
def clockOffset : Nat := 0x10A

/-- The window offset of the replan toggle (R161). -/
def toggleOffset : Nat := 0x111

/-- Serving the counter's low byte copies its upper three bytes into the latch (R160). -/
def State.loadLatch (s : State) : State :=
  { s with rep := { s.rep with latch := BitVec.ofNat 24 (s.clk.counter / 256) } }

/-- Serving the toggle inverts it while a replan is RUNNING (R161). -/
def State.flipToggle (s : State) : State :=
  if s.pln.snapshot.isSome then { s with pln := { s.pln with toggle := !s.pln.toggle } } else s

/-- What serving the byte at a window offset changes (R159). -/
def State.served (s : State) (off : Nat) : State :=
  if off = clockOffset then s.loadLatch else if off = toggleOffset then s.flipToggle else s

/-- `n` bytes are served from `off` on; past the window's last byte they read FFh (R151). -/
def State.serve (s : State) (off : Nat) : Nat → List (Option Byte) × State
  | 0 => ([], s)
  | n + 1 =>
    let s1 := s.served off
    let rest := s1.serve (off + 1) n
    (some (s1.windowByte off) :: rest.1, rest.2)

end Sys2Proof.Machine
end

