-- ==== Sys2Proof/Machine/Commands.lean ====
section
/-! DEFINITION. The window commands (9.4): the work of each command's block with its result, the completion, and what
follows the completion. -/

namespace Sys2Proof.Machine

/-! ### Completion -/

/-- The completion of a command (R168): the last-command result with the new counter value, the counter, COMMAND_DONE, and
CMD_REJECTED for a result other than OK. -/
def State.complete (s : State) (code : Byte) (r : CmdResult) : State :=
  let n := s.rep.counter + 1
  let s1 :=
    State.raise
      { s with rep := { s.rep with lastCode := code, lastResult := resultCode r, lastCounter := n, counter := n } }
      .commandDone
  if r = .ok then s1 else s1.raise .cmdRejected

/-! ### Commands on recordings -/

/-- The history's entry of a ref (R123: at most one). -/
def State.historyOf (s : State) (ref : Nat) : Option HistoryEntry := s.run.history.find? (fun h => h.ref = ref)

/-- The answer for a ref that is not active (R115, R117). -/
def State.inactiveResult (s : State) (ref : Nat) : CmdResult :=
  if (s.historyOf ref).isSome then .tooLate
  else if (s.waitingOf ref).isSome then .notNow
  else .unknownRef

/-- CONFIRM_START (R115). -/
def State.doConfirm (s : State) (ref : Nat) : CmdResult × State :=
  match s.runOf ref with
  | some r => (.ok, (s.setRun { r with state := .recording, deadline := none }).reloadRunChannels)
  | none => (s.inactiveResult ref, s)

/-- REPORT_FAILURE (R117). -/
def State.doFailure (s : State) (ref : Nat) : CmdResult × State :=
  match s.runOf ref with
  | some r => (.ok, s.endRun State.trigger r .failed s.clk.counter)
  | none => (s.inactiveResult ref, s)

/-- A waiting entry is declined (R122). -/
def State.decline (s : State) (e : WaitingEntry) : State :=
  let s1 := (s.dropWaiting e.ref).addHistory ⟨e.ref, .declined, none, e.wend⟩
  let s2 := if e.origin.isNone then s1.manualEnd e.ref (s1.bookingRevision e.ref) .declined else s1
  s2.reloadRunChannels.trigger

/-- KEEP_VIEWING (R122). -/
def State.doKeep (s : State) (ref : Nat) : CmdResult × State :=
  match s.waitingOf ref with
  | some e => (.ok, s.decline e)
  | none =>
    if (s.runOf ref).isSome then (.tooLate, s)
    else match s.historyOf ref with
      | some h => if h.outcome = .declined then (.ok, s.reloadRunChannels) else (.tooLate, s)
      | none => (.unknownRef, s)

/-! ### Dispatch -/

/-- Sectors join the verify set; with none there is nothing to do. -/
def State.joinSectors (s : State) (sectors : List Nat) : State :=
  if sectors.isEmpty then s else s.joinVerify State.trigger sectors

/-- The work of a command's block and its result (R169). -/
def State.commandWork (s : State) : Command → CmdResult × State
  | .ackNotices n => (.ok, { s with rep := { s.rep with notices := s.rep.notices.drop n.toNat } })
  | .clearFlags _ => (.ok, s)
  | .setAttnMask m => (.ok, { s with rep := { s.rep with mask := m } })
  | .setTime t => (.ok, s.setTime t.toNat)
  | .confirmStart r => s.doConfirm r.toNat
  | .reportFailure r => s.doFailure r.toNat
  | .view v => (.ok, s.doView v.toNat)
  | .viewEnd => (.ok, s.doViewEnd)
  | .keepViewing r => s.doKeep r.toNat
  | .lend _ => (.ok, s)
  | .standby => (.ok, s)
  | .replan => if s.clk.valid then (.ok, s.trigger) else (.notNow, s)
  | .guardAnchor => (.ok, { s with fpx := { s.fpx with guard := true } })
  | .rescan => (.ok, s.joinSectors s.watchedSectors)

/-- What follows a command's completion: the clearing of CLEAR_FLAGS (R170), the start of a lend (R155), the entry into
STANDBY (R171). -/
def State.afterCommand (s : State) : Command → State
  | .clearFlags m => s.clearSticky m
  | .lend ms => s.beginLend ms.toNat
  | .standby => s.enterStandby
  | _ => s

/-- A command that passed checks 1 to 4 is checked for its argument, executed and completed (R167, R168). -/
def State.runCommand (s : State) (c : Command) : State :=
  if argOk c then
    let w := s.commandWork c
    (w.2.complete (commandCode c) w.1).afterCommand c
  else s.complete (commandCode c) .badArg

/-- A command that failed one of checks 1 to 4 is answered (R167, R168); the recorded code of one that sent no byte is the
free value (log 6). -/
def State.failCommand (s : State) (code : Option Byte) (r : CmdResult) : State :=
  match code with
  | some c => s.complete c r
  | none => State.complete { s with freeCount := s.freeCount + 1 } (Config.freeCode s.freeCount) r

/-- An absorbed command is taken (R167). -/
def State.takeCommand (s : State) (offset : Byte) (sent : List Byte) : State :=
  match parseCommand offset sent with
  | .command c => s.runCommand c
  | .failed code r => s.failCommand code r

end Sys2Proof.Machine
end

