-- ==== Sys2Proof/Machine/Path.lean ====
section
/-! DEFINITION. The SoC's selections at the flash path (chapter 8): dropping, decoding by the class table, the window, the
anchor guard, acceptance, the write tracker, the flash reset and the attach state. -/

namespace Sys2Proof.Machine

/-! ### Ports -/

/-- Bytes the flash drives that FPX does not hold. -/
def flashDriven (n : Nat) : List (Option Byte) := List.replicate n none

/-- What the SoC reads of a selection that reaches the flash and is not a read. -/
def Selection.answer (sel : Selection) : List (Option Byte) := sel.response.map some ++ flashDriven sel.count

/-- The selection is forwarded to the flash. -/
def State.forward (s : State) (sel : Selection) : State := (s.flashPort (.forward sel.code)).socPort sel.answer

/-- The flash-side select is withdrawn, so that the flash discards the instruction (R151 to R153). -/
def State.cut (s : State) (code : Byte) : State := s.flashPort (.cut code)

/-- The reset arm is disarmed at the end of a selection (R148). -/
def State.disarm (s : State) : State := { s with fpx := { s.fpx with resetArm := false } }

/-- A selection while the K240 owns the path (R154): FFh for every byte read, and LEND_VIOLATION in START-UP or RUN. -/
def State.dropSelection (s : State) (sel : Selection) : State :=
  let s1 := s.socPort (List.replicate (sel.response.length + sel.count) (some 0xFF))
  if s.pwc.power = .startUp ∨ s.pwc.power = .run then s1.raise .lendViolation else s1

/-! ### Reads (R151) -/

/-- The data bytes clocked after the address: the row's count, or what the bytes sent after it amount to once the class's
dummy clocks are taken off. -/
def Selection.readCount (sel : Selection) (e : ClassEntry) (rest : List Byte) : Nat :=
  sel.count + (8 * rest.length - e.dummy) * e.width / 8

/-- The window block's number, its first address byte (8.7). -/
def State.windowBlock (s : State) : Nat := s.rst.inForce.layout.window / Config.blockSize

/-- The first address byte names the window block (R151, R152). -/
def State.inWindow (s : State) (addr : Nat) : Bool := addr / Config.blockSize = s.windowBlock

/-- How many bytes of a forwarded read come before the window base, counted modulo the flash size (R151). -/
def State.beforeWindow (s : State) (addr : Nat) : Nat :=
  let size := s.pins.fsize.bytes
  (s.rst.inForce.layout.window + size - addr % size) % size

/-- A READ or FAST_READ of `n` bytes (R151). -/
def State.readFlash (s : State) (sel : Selection) (addr n : Nat) : State :=
  if s.inWindow addr then
    let r := s.serve (addr % Config.blockSize) n
    (r.2.cut sel.code).socPort r.1
  else
    let d := min n (s.beforeWindow addr)
    let r := s.serve 0 (n - d)
    (r.2.flashPort (.forward sel.code)).socPort (flashDriven d ++ r.1)

/-! ### Acceptance (R144) -/

/-- The assumed-done times, in crystal periods (R145). -/
def WriteKind.periods : WriteKind → Nat
  | .program => 2 * Config.secondPeriods
  | .eraseSector => 2 * Config.secondPeriods
  | .writeStatus => 2 * Config.secondPeriods
  | .eraseBlock => 8 * Config.secondPeriods
  | .eraseChip => 400 * Config.secondPeriods

/-- Condition 5 of R144. -/
def besideSuspended (w : Option Suspended) (kind : WriteKind) (r : FlashRange) : Bool :=
  match w with
  | none => true
  | some w => kind = .program && w.kind ≠ .program && !rangesMeet r.lo r.len w.range.lo w.range.len

/-- The five conditions of R144; `ended` is condition 4. -/
def Fpx.accepts (f : Fpx) (kind : WriteKind) (r : FlashRange) (ended : Bool) : Bool :=
  f.wel && !f.asleep && f.inFlight.isNone && ended && besideSuspended f.suspended kind r

/-- The accepted write becomes the in-flight write and the WEL replica is cleared (R144, R145). -/
def State.enterWrite (s : State) (kind : WriteKind) (r : FlashRange) : State :=
  { s with fpx := { s.fpx with wel := false, inFlight := some ⟨kind, r, s.clk.crystal + kind.periods⟩ } }

/-- The hand-off of an accepted program: to the record store, then to the guide matcher (R144). -/
def State.handProgram (s : State) (addr : Nat) (data : List Byte) : State :=
  let r : FlashRange := ⟨pageOf addr, Config.pageSize⟩
  let s1 := if s.meetsMirror r then (s.mirrorProgram addr data).storeUpdate State.trigger else s
  if s1.meetsGuide r then s1.guideProgram State.trigger addr data else s1

/-- The hand-off of an accepted erase (R144). -/
def State.handErase (s : State) (r : FlashRange) : State :=
  let s1 := if s.meetsMirror r then (s.mirrorErase r.lo r.len).storeUpdate State.trigger else s
  if s1.meetsGuide r then s1.guideErase State.trigger r.lo r.len else s1

/-- A PROGRAM that reaches the flash (R144). -/
def State.judgeProgram (s : State) (addr : Nat) (data : List Byte) (whole : Bool) : State :=
  let r : FlashRange := ⟨pageOf addr, Config.pageSize⟩
  if s.fpx.accepts .program r (whole && !data.isEmpty) then (s.enterWrite .program r).handProgram addr data else s

/-- An erase that reaches the flash (R144). -/
def State.judgeErase (s : State) (kind : WriteKind) (r : FlashRange) (ended : Bool) : State :=
  if s.fpx.accepts kind r ended then (s.enterWrite kind r).handErase r else s

/-- A WRITE_STATUS that reaches the flash: it has no target (R144). -/
def State.judgeStatusWrite (s : State) (ended : Bool) : State :=
  if s.fpx.accepts .writeStatus ⟨0, 0⟩ ended then s.enterWrite .writeStatus ⟨0, 0⟩ else s

/-! ### The anchor guard (R153) -/

/-- A cancelled instruction posts GUARD_BLOCKED. -/
def State.guardCancel (s : State) (sel : Selection) (cls : InstrClass) (ref : Nat) : State :=
  (s.cut sel.code).postNow .guardBlocked none (classValue cls : Nat) ref 0

/-- The address lies in the anchor sector. -/
def State.inAnchor (s : State) (addr : Nat) : Bool := sectorOf addr = s.anchorBase

/-! ### Tracker, reset, sleep and attach state -/

/-- One status response: with the busy bit clear, the in-flight write has finished (R145). -/
def State.statusResponse (s : State) (b : Byte) : State :=
  if b.getLsbD s.fpx.classTable.busyBit then s else { s with fpx := { s.fpx with inFlight := none } }

/-- A counted SUSPEND (R147). -/
def State.doSuspend (s : State) : State :=
  match s.fpx.inFlight, s.fpx.suspended with
  | some w, none =>
    { s with fpx := { s.fpx with
        inFlight := none, suspended := some ⟨w.kind, w.range, w.deadline - s.clk.crystal⟩ } }
  | _, _ => s

/-- A counted RESUME (R147). -/
def State.doResume (s : State) : State :=
  match s.fpx.inFlight, s.fpx.suspended with
  | none, some w =>
    { s with fpx := { s.fpx with
        inFlight := some ⟨w.kind, w.range, s.clk.crystal + w.remaining⟩, suspended := none } }
  | _, _ => s

/-- The sectors a RESET taken makes doubtful (R148, R150): the tracked writes' targets, and every watched sector when the part
re-attaches. DESIGN CHOICE (log 57): they join as one piece of work. -/
def State.resetSectors (s : State) : List Nat :=
  (match s.fpx.inFlight with | some w => s.sectorsMeeting w.range | none => [])
    ++ (match s.fpx.suspended with | some w => s.sectorsMeeting w.range | none => [])
    ++ (if s.fpx.attached then [] else s.watchedSectors)

/-- A flash RESET taken (R148). -/
def State.flashResetTaken (s : State) : State :=
  State.joinSectors
    { s with fpx := { s.fpx with
        wel := false, resetArm := false, inFlight := none, suspended := none, asleep := false, attached := true } }
    s.resetSectors

/-- A counted RESET: taken when armed (R148). -/
def State.doReset (s : State) : State := if s.fpx.resetArm then s.flashResetTaken else s

/-- A counted DETACHING code (R150). -/
def State.detach (s : State) : State :=
  { s with fpx := { s.fpx with
      attached := false, wel := false, resetArm := false, inFlight := none, suspended := none } }

/-- The effect of a class with no phases after its code, when counted (R142, R147 to R150). -/
def State.countedEffect (s : State) : InstrClass → State
  | .writeEnable => { s with fpx := { s.fpx with wel := true } }
  | .writeDisable => { s with fpx := { s.fpx with wel := false } }
  | .suspend => s.doSuspend
  | .resume => s.doResume
  | .resetArm => { s with fpx := { s.fpx with resetArm := true } }
  | .reset => s.doReset
  | .powerDown => { s with fpx := { s.fpx with asleep := true } }
  | .release => { s with fpx := { s.fpx with asleep := false } }
  | .detaching => s.detach
  | _ => s

/-! ### A selection -/

/-- A PROGRAM: absorbed by the window, cancelled by the guard, or judged (R144, R152, R153). -/
def State.selectProgram (s : State) (sel : Selection) (addr : Nat) (data : List Byte) : State :=
  if s.inWindow addr then
    let s1 := s.cut sel.code
    if addr % Config.blockSize < Config.pageSize then s1.takeCommand (BitVec.ofNat 8 addr) data else s1
  else if s.fpx.guard && s.inAnchor addr then s.guardCancel sel .program addr
  else (s.forward sel).judgeProgram addr data sel.whole

/-- An addressed erase: absorbed, cancelled or judged; `guarded` says that the guard would cancel it. -/
def State.selectErase (s : State) (sel : Selection) (cls : InstrClass) (kind : WriteKind) (addr : Nat) (r : FlashRange)
    (guarded ended : Bool) : State :=
  if s.inWindow addr then s.cut sel.code
  else if s.fpx.guard && guarded then s.guardCancel sel cls addr
  else (s.forward sel).judgeErase kind r ended

/-- The whole flash, an ERASE_CHIP's target (R144). -/
def State.wholeFlash (s : State) : FlashRange := ⟨0, s.pins.fsize.bytes⟩

/-- A selection of an addressed class that ends inside its address. When its first address byte names the window block and its
second has arrived, the flash-side select has been withdrawn (R151, R152); else it is forwarded. It has no other effect. DESIGN
CHOICE (log 62): one that ends part-way through the byte in which the select is withdrawn counts as forwarded. -/
def State.cutShort (s : State) (sel : Selection) : State :=
  match sel.data with
  | b :: _ :: _ => if s.inWindow (b.toNat * Config.blockSize) then s.cut sel.code else s.forward sel
  | _ => s.forward sel

/-- A selection of a listed class, decoded by its phases (R141). -/
def State.selectClass (s : State) (sel : Selection) (e : ClassEntry) : State :=
  match e.cls, sel.addressed with
  | .read, some (addr, rest) => s.readFlash sel addr (sel.readCount e rest)
  | .fastRead, some (addr, rest) => s.readFlash sel addr (sel.readCount e rest)
  | .program, some (addr, data) => s.selectProgram sel addr data
  | .eraseSector, some (addr, rest) =>
    s.selectErase sel .eraseSector .eraseSector addr ⟨sectorOf addr, Config.sectorSize⟩ (s.inAnchor addr)
      (sel.endsAfterAddress rest)
  | .eraseBlock, some (addr, rest) =>
    s.selectErase sel .eraseBlock .eraseBlock addr ⟨blockOf addr, Config.blockSize⟩
      (decide (blockOf addr = s.pins.fsize.anchorBlock)) (sel.endsAfterAddress rest)
  | .read, none => s.cutShort sel
  | .fastRead, none => s.cutShort sel
  | .program, none => s.cutShort sel
  | .eraseSector, none => s.cutShort sel
  | .eraseBlock, none => s.cutShort sel
  | .eraseChip, _ =>
    if s.fpx.guard then s.guardCancel sel .eraseChip noRef
    else (s.forward sel).judgeErase .eraseChip s.wholeFlash sel.counted
  | .writeStatus, _ => (s.forward sel).judgeStatusWrite (sel.whole && !sel.tail.isEmpty)
  | .readStatus, _ => sel.response.foldl State.statusResponse (s.forward sel)
  | cls, _ => if sel.counted then (s.forward sel).countedEffect cls else s.forward sel

/-- A counted RESET_ARM arms; every other selection ends disarmed (R148). -/
def State.settleArm (s : State) (counted : Bool) (cls : Option InstrClass) : State :=
  if counted && cls = some .resetArm then s else s.disarm

/-- A SoC selection while ATTACHED and owned by the SoC (R141). -/
def State.selectAttached (s : State) (sel : Selection) : State :=
  match s.fpx.classTable.entryOf sel.code with
  | none => (s.forward sel).disarm
  | some e => (s.selectClass sel e).settleArm sel.counted (some e.cls)

/-- A SoC selection while DETACHED: forwarded, and only the reset pair is decoded (R150). -/
def State.selectDetached (s : State) (sel : Selection) : State :=
  let s1 := s.forward sel
  match sel.counted, s.fpx.classTable.classOf sel.code with
  | true, some .resetArm => { s1 with fpx := { s1.fpx with resetArm := true } }
  | true, some .reset => s1.doReset.disarm
  | _, _ => s1.disarm

/-- A SoC selection (R141, R150, R154). -/
def State.select (s : State) (sel : Selection) : State :=
  match s.fpx.owner with
  | .k240 => s.dropSelection sel
  | .soc => if s.fpx.attached then s.selectAttached sel else s.selectDetached sel

/-- A selection with nothing after its code. -/
def codeOnly (code : Byte) (counted : Bool) : Selection := ⟨code, none, [], counted, 0, []⟩

/-- The selection of a window command: a PROGRAM, with the class table's first such code, of `sent` at `offset` of the
command page (R152, R183). -/
def State.commandSelection (s : State) (e : ClassEntry) (offset : Byte) (sent : List Byte) : Selection :=
  ⟨e.code, some (BitVec.ofNat 24 (s.rst.inForce.layout.window + offset.toNat)), sent, true, 0, []⟩

/-- The SoC's program into the command page: dropped, forwarded, or absorbed and then taken by `act` (R150, R152, R154).
With no PROGRAM code in the class table it cannot be sent (log 2). -/
def State.commandProgram (s : State) (offset : Byte) (sent : List Byte) (act : State → State) : State :=
  match s.fpx.classTable.firstOf .program with
  | none => s
  | some e =>
    let sel := s.commandSelection e offset sent
    match s.fpx.owner with
    | .k240 => s.dropSelection sel
    | .soc => if s.fpx.attached then (act (s.cut e.code)).disarm else (s.forward sel).disarm

/-- A row that names a window command (9.4). -/
def State.windowCommand (s : State) (c : Command) : State :=
  s.commandProgram 0 (encodeCommand c) fun s => s.runCommand c

end Sys2Proof.Machine
end

