-- ==== Sys2Proof/Machine/Scan.lean ====
section
/-! DEFINITION. The scan engine (8.10): the status reads and the READ of a sector, the hand-over of its data, the busy wait,
and the deadlines of writes and lends. -/

namespace Sys2Proof.Machine

/-! ### Status reads -/

/-- The busy bit of a response, at the position in force, is clear (R145). -/
def State.isReady (s : State) (b : Byte) : Bool := !b.getLsbD s.fpx.classTable.busyBit

/-- The scan engine sends one READ_STATUS, with the first code of its class; the first one of an ownership starts the 400 s
(R157). -/
def State.pollFlash (s : State) : State :=
  let s1 := match s.fpx.classTable.ownOf .readStatus with
    | some e => s.flashPort (.own e.code none e.dummy 1)
    | none => s
  match s1.fpx.firstPoll with
  | some _ => s1
  | none => { s1 with fpx := { s1.fpx with firstPoll := some s1.clk.crystal } }

/-- The READ of a sector: the first READ code, the base address, the dummy clocks and the width (R157). -/
def State.beginRead (s : State) (x : Nat) (p : Purpose) : State :=
  let s1 := match s.fpx.classTable.ownOf .read with
    | some e => s.flashPort (.own e.code (some x) e.dummy e.width)
    | none => s
  { s1 with fpx := { s1.fpx with scan := .reading x p } }

/-- The status reads before a sector, with the responses the flash gives, until the busy bit is clear; once the 400 s have
passed, whether or not a sector waited then, a single one is made (R157). After the responses given, the sector waits for the
next. -/
def State.pollFor (s : State) (x : Nat) (p : Purpose) : List Byte → State
  | [] => { s with fpx := { s.fpx with scan := .waiting x p } }
  | b :: rest =>
    let s1 := s.pollFlash.statusResponse b
    if s.isReady b || s.fpx.gaveUp || s.busyOver then s1.beginRead x p else s1.pollFor x p rest

/-- Before its first read the scan engine wakes a sleeping flash (R156). -/
def State.wakeForRead (s : State) : State :=
  match s.fpx.asleep, s.releaseCode with
  | true, some code =>
    let s1 := s.ownCode code
    { s1 with fpx := { s1.fpx with asleep := false } }
  | _, _ => s

/-- The scan engine may begin a sector: the K240 owns the path, is awake, and neither a hand-back nor the end of a lend
waits (R156, R177). -/
def State.scanOpen (s : State) : Bool :=
  s.fpx.owner = .k240 && s.pwc.power ≠ .dormant && !s.pwc.handBack
    && (match s.fpx.lend with | some l => !l.expired | none => true)

/-- A sector is begun, or the status reads before it go on (R156, R157); without a status read nothing is begun (log 2). -/
def State.startSector (s : State) (responses : List Byte) : State :=
  if s.scanOpen && !responses.isEmpty then
    match s.fpx.scan with
    | .idle =>
      match s.nextWork with
      | some (x, p) => s.wakeForRead.pollFor x p responses
      | none => s
    | .waiting x p => s.pollFor x p responses
    | .reading _ _ => s
  else s

/-- The 400 s have passed: the sector is read all the same (R157). -/
def State.busyTimeout (s : State) : State :=
  match s.busyDue, s.fpx.scan with
  | true, .waiting x p => State.beginRead { s with fpx := { s.fpx with gaveUp := true } } x p
  | _, _ => s

/-! ### The end of a read -/

/-- A sector has been read: the engine is idle, and the sector counts for the lend and for start-up (R155, R174). -/
def State.countSector (s : State) : State :=
  { s with
    fpx := { s.fpx with
      scan := .idle
      lend := s.fpx.lend.map fun l => { l with read := l.read + 1 } }
    pwc := { s.pwc with startupReads := s.pwc.startupReads + (if s.pwc.power = .startUp then 1 else 0) } }

/-- A read that was made for `p` is handed over by `act`; then the work is examined afresh (R156, R157). DESIGN CHOICE (log 49):
what a sector is read for is fixed when it is begun. -/
def State.finishSector (s : State) (p : Purpose) (act : Nat → State → State) : State :=
  match s.fpx.scan with
  | .reading x q => if p = q then (act x s.countSector).afterWork.dormantTest else s
  | _ => s

/-- The 4096 bytes of a sector. -/
def sectorData (data : List Byte) : List Byte := data.take Config.sectorSize

/-! ### Deadlines -/

/-- The in-flight write's deadline has passed: its target's sectors join the verify set (R146). -/
def State.expireWrite (s : State) : State :=
  match s.writeDue, s.fpx.inFlight with
  | true, some w =>
    (State.joinSectors { s with fpx := { s.fpx with inFlight := none } } (s.sectorsMeeting w.range)).dormantTest
  | _, _ => s

/-- The lend's length has run out: it ends after the read in progress, or at once, a waiting sector abandoned (R155,
R157). -/
def State.expireLend (s : State) : State :=
  match s.lendDue, s.fpx.lend, s.fpx.scan with
  | true, some l, .reading _ _ => { s with fpx := { s.fpx with lend := some { l with expired := true } } }
  | true, some _, _ => State.endLend { s with fpx := { s.fpx with scan := .idle } } .expired
  | _, _, _ => s

/-- Status reads until a response clears the write in flight (R175). -/
def State.pollWrite (s : State) : List Byte → State
  | [] => s
  | b :: rest =>
    let s1 := s.pollFlash.statusResponse b
    if s1.fpx.inFlight.isNone then s1 else s1.pollWrite rest

/-- The status reads of STANDBY, with a write in flight and no workable sector (R175). DESIGN CHOICE (log 58): a sleeping flash
is not woken for them. -/
def State.standbyPoll (s : State) (responses : List Byte) : State :=
  if s.pwc.power = .standby ∧ s.fpx.scan = .idle ∧ s.fpx.inFlight.isSome ∧ s.nextWork.isNone then
    (s.pollWrite responses).dormantTest
  else s

end Sys2Proof.Machine
end

