-- ==== Sys2Proof/Machine/Board.lean ====
section
/-! DEFINITION. The rows of the board, the supplies and the clock: COLD_RESET, WARM_RESET, VDD_FALL, PWRGOOD_RISE,
PWRGOOD_FALL and COUNTER_ADVANCE; and the frame every row's meaning stands in. -/

namespace Sys2Proof.Machine

/-- What a row answers. -/
abbrev Answer := Host.Outcome State Fault Refusal

/-- A row acts while VDD is present, on a port record that starts empty (log 3, 18). -/
def State.powered (s : State) (act : State → State) : State :=
  if s.pins.vdd then act s.clearPorts else s.clearPorts

/-- Every block but CLK and PWC at its reset value (R25, R43, R62, R89, R126, R140, R158, R172). -/
def State.resetBlocks (s : State) : State :=
  { s with
    pins := { s.pins with vdd := true }
    fpx := Fpx.afterReset
    rst := Rst.afterReset s.pins.fsize
    gmx := Gmx.afterReset
    ser := Ser.afterReset
    pln := Pln.afterReset
    run := RunEngine.afterReset
    tun := Tun.afterReset
    rep := Rep.afterReset }

/-- What the flash is sent at the start of a start-up: the noted RELEASE code, then the WRITE_DISABLE (R173). -/
def startupOps (note : Option Byte) : List FlashOp :=
  match note with
  | some code => [.own code none 0 1, startupWriteDisable]
  | none => [startupWriteDisable]

/-- VDD and VBAT are applied from nothing (R106, R107, R173, R180). -/
def State.coldReset (s : State) : State :=
  { s.resetBlocks with
    clk := Clk.afterCold s.clk.crystal
    pwc := Pwc.afterReset true
    ports := ⟨[], startupOps none⟩ }

/-- RST is asserted, or VDD returns with VBAT kept (R106, R107, R173, R180). -/
def State.warmReset (s : State) : State :=
  { s.resetBlocks with
    clk := Clk.afterWarm s.clk
    pwc := Pwc.afterReset false
    ports := ⟨[], startupOps s.pwc.sleepNote⟩ }

/-- COLD_RESET (R106). -/
def execColdReset (s : State) : Answer := .next s.coldReset

/-- WARM_RESET (R173). -/
def execWarmReset (s : State) : Answer := .next s.warmReset

/-- VDD_FALL (R105): the compare channels are disabled, the clock goes on. -/
def execVddFall (s : State) : Answer :=
  .next (s.powered fun s => { s with pins := { s.pins with vdd := false }, clk := s.clk.disableAll })

/-- PWRGOOD_RISE (R177); without VDD only the line's level changes (log 3). -/
def execPwrgoodRise (s : State) : Answer :=
  .next (if s.pins.vdd then s.clearPorts.pwrgoodUp.dormantTest
    else { s.clearPorts with pins := { s.pins with pwrgood := true } })

/-- PWRGOOD_FALL (R175); without VDD only the line's level changes (log 3). -/
def execPwrgoodFall (s : State) : Answer :=
  .next (if s.pins.vdd then s.clearPorts.pwrgoodDown
    else { s.clearPorts with pins := { s.pins with pwrgood := false } })

/-- COUNTER_ADVANCE (R90). -/
def execCounterAdvance (s : State) : Answer := .next s.clearPorts.advanceCounter

end Sys2Proof.Machine
end

