-- ==== Sys2Proof/Machine/Selections.lean ====
section
/-! DEFINITION. The rows of the SoC's selections (chapter 8): each is decoded by the class table in force (R141). -/

namespace Sys2Proof.Machine

/-- READ (R151). -/
def execRead (code : Byte) (addr : FlashAddr) (count : Nat) (s : State) : Answer :=
  .next (s.powered fun s => s.select ⟨code, some addr, [], true, count, []⟩)

/-- A byte served from the window by itself, while the window is answered (R151, R159; log 32). -/
def State.serveAlone (s : State) (off : Nat) : State :=
  if s.fpx.owner = .soc ∧ s.fpx.attached then
    let r := s.serve off 1
    (r.2.socPort r.1).disarm
  else s

/-- CLOCK_LATCH_READ (R160). -/
def execClockLatchRead (s : State) : Answer :=
  .next (s.powered fun s => s.serveAlone clockOffset)

/-- REPLAN_TOGGLE_READ (R161). -/
def execReplanToggleRead (s : State) : Answer :=
  .next (s.powered fun s => s.serveAlone toggleOffset)

/-- PROGRAM (R144). -/
def execProgram (code : Byte) (addr : FlashAddr) (data : List Byte) (whole : Bool) (s : State) : Answer :=
  .next (s.powered fun s => s.select ⟨code, some addr, data, whole, 0, []⟩)

/-- ERASE_SECTOR (R3, R144). -/
def execEraseSector (code : Byte) (addr : FlashAddr) (whole : Bool) (s : State) : Answer :=
  .next (s.powered fun s => s.select ⟨code, some addr, [], whole, 0, []⟩)

/-- ERASE_BLOCK (R3, R144). -/
def execEraseBlock (code : Byte) (addr : FlashAddr) (whole : Bool) (s : State) : Answer :=
  .next (s.powered fun s => s.select ⟨code, some addr, [], whole, 0, []⟩)

/-- ERASE_CHIP (R3, R144). -/
def execEraseChip (code : Byte) (counted : Bool) (s : State) : Answer :=
  .next (s.powered fun s => s.select (codeOnly code counted))

/-- WRITE_STATUS (R144). -/
def execWriteStatus (code : Byte) (data : List Byte) (whole : Bool) (s : State) : Answer :=
  .next (s.powered fun s => s.select ⟨code, none, data, whole, 0, []⟩)

/-- READ_STATUS (R145). -/
def execReadStatus (code : Byte) (response : List Byte) (s : State) : Answer :=
  .next (s.powered fun s => s.select ⟨code, none, [], false, 0, response⟩)

/-- WRITE_ENABLE (R142). -/
def execWriteEnable (code : Byte) (counted : Bool) (s : State) : Answer :=
  .next (s.powered fun s => s.select (codeOnly code counted))

/-- WRITE_DISABLE (R142). -/
def execWriteDisable (code : Byte) (counted : Bool) (s : State) : Answer :=
  .next (s.powered fun s => s.select (codeOnly code counted))

/-- SUSPEND (R147). -/
def execSuspend (code : Byte) (counted : Bool) (s : State) : Answer :=
  .next (s.powered fun s => s.select (codeOnly code counted))

/-- RESUME (R147). -/
def execResume (code : Byte) (counted : Bool) (s : State) : Answer :=
  .next (s.powered fun s => s.select (codeOnly code counted))

/-- RESET_ARM (R148). -/
def execResetArm (code : Byte) (counted : Bool) (s : State) : Answer :=
  .next (s.powered fun s => s.select (codeOnly code counted))

/-- FLASH_RESET (R148). -/
def execFlashReset (code : Byte) (counted : Bool) (s : State) : Answer :=
  .next (s.powered fun s => s.select (codeOnly code counted))

/-- POWER_DOWN (R149). -/
def execPowerDown (code : Byte) (counted : Bool) (s : State) : Answer :=
  .next (s.powered fun s => s.select (codeOnly code counted))

/-- RELEASE (R149). -/
def execRelease (code : Byte) (counted : Bool) (s : State) : Answer :=
  .next (s.powered fun s => s.select (codeOnly code counted))

/-- DETACHING (R150). -/
def execDetaching (code : Byte) (counted : Bool) (s : State) : Answer :=
  .next (s.powered fun s => s.select (codeOnly code counted))

/-- OTHER_INSTRUCTION (R141): any selection, by its raw bytes. -/
def execOtherInstruction (code : Byte) (sent : List Byte) (whole : Bool) (s : State) : Answer :=
  .next (s.powered fun s => s.select ⟨code, none, sent, whole, 0, []⟩)

end Sys2Proof.Machine
end

