-- ==== Sys2Proof/Machine/WindowCommands.lean ====
section
/-! DEFINITION. The rows of the window commands (9.4). -/

namespace Sys2Proof.Machine

/-- ACK_NOTICES (R164). -/
def execAckNotices (n : Byte) (s : State) : Answer := .next (s.powered fun s => s.windowCommand (.ackNotices n))

/-- CLEAR_FLAGS (R170). -/
def execClearFlags (mask : BitVec 16) (s : State) : Answer := .next (s.powered fun s => s.windowCommand (.clearFlags mask))

/-- SET_ATTN_MASK (R166). -/
def execSetAttnMask (mask : BitVec 16) (s : State) : Answer := .next (s.powered fun s => s.windowCommand (.setAttnMask mask))

/-- SET_TIME (R94). -/
def execSetTime (time : BitVec 32) (s : State) : Answer := .next (s.powered fun s => s.windowCommand (.setTime time))

/-- CONFIRM_START (R115). -/
def execConfirmStart (ref : BitVec 32) (s : State) : Answer := .next (s.powered fun s => s.windowCommand (.confirmStart ref))

/-- REPORT_FAILURE (R117). -/
def execReportFailure (ref : BitVec 32) (s : State) : Answer := .next (s.powered fun s => s.windowCommand (.reportFailure ref))

/-- VIEW (R131). -/
def execView (service : BitVec 16) (s : State) : Answer := .next (s.powered fun s => s.windowCommand (.view service))

/-- VIEW_END (R133). -/
def execViewEnd (s : State) : Answer := .next (s.powered fun s => s.windowCommand .viewEnd)

/-- KEEP_VIEWING (R122). -/
def execKeepViewing (ref : BitVec 32) (s : State) : Answer := .next (s.powered fun s => s.windowCommand (.keepViewing ref))

/-- LEND (R155). -/
def execLend (ms : BitVec 16) (s : State) : Answer := .next (s.powered fun s => s.windowCommand (.lend ms))

/-- STANDBY (R171). -/
def execStandby (s : State) : Answer := .next (s.powered fun s => s.windowCommand .standby)

/-- REPLAN (R88). -/
def execReplan (s : State) : Answer := .next (s.powered fun s => s.windowCommand .replan)

/-- GUARD_ANCHOR (R153). -/
def execGuardAnchor (s : State) : Answer := .next (s.powered fun s => s.windowCommand .guardAnchor)

/-- RESCAN (R171). -/
def execRescan (s : State) : Answer := .next (s.powered fun s => s.windowCommand .rescan)

/-- INVALID_COMMAND (R167): a program into the command page, judged by its offset and bytes. -/
def execInvalidCommand (offset : Byte) (sent : List Byte) (s : State) : Answer :=
  .next (s.powered fun s => s.commandProgram offset sent fun s => s.takeCommand offset sent)

end Sys2Proof.Machine
end

