-- ==== Sys2Proof/Machine/Events.lean ====
section
/-! DEFINITION. The rows of the compare events, the planner, the scan engine and the deadlines. Each ends with PWC's test for
DORMANT (R176). -/

namespace Sys2Proof.Machine

/-- START_EVENT (R112). -/
def execStartEvent (tuner : Tuner) (s : State) : Answer :=
  .next (s.powered fun s =>
    (s.takeEvent (.start tuner) fun e s => s.startDue State.trigger tuner e.time).dormantTest)

/-- STOP_EVENT (R113, R116). -/
def execStopEvent (tuner : Tuner) (s : State) : Answer :=
  .next (s.powered fun s =>
    (s.takeEvent (.stop tuner) fun e s => s.stopDue State.trigger tuner e.time).dormantTest)

/-- CONFIRM_EVENT (R115). -/
def execConfirmEvent (s : State) : Answer :=
  .next (s.powered fun s => (s.takeEvent .confirm fun e s => s.confirmDue State.trigger e.time).dormantTest)

/-- WARN_EVENT (R135). -/
def execWarnEvent (s : State) : Answer :=
  .next (s.powered fun s => (s.takeEvent .warn fun e s => s.warnDue e.time).dormantTest)

/-- WAKE_EVENT (R179). -/
def execWakeEvent (s : State) : Answer :=
  .next (s.powered fun s => (s.takeEvent .wake State.wakeFired).dormantTest)

/-- REPLAN_PUBLISH (R86). -/
def execReplanPublish (s : State) : Answer := .next (s.powered fun s => s.publish.dormantTest)

/-- SECTOR_READ_START (R157). -/
def execSectorReadStart (responses : List Byte) (s : State) : Answer :=
  .next (s.powered fun s => s.startSector responses)

/-- BUSY_WAIT_TIMEOUT (R157). -/
def execBusyWaitTimeout (s : State) : Answer := .next (s.powered State.busyTimeout)

/-- MIRROR_SECTOR_VERIFY (R18). -/
def execMirrorSectorVerify (data : List Byte) (s : State) : Answer :=
  .next (s.powered fun s =>
    s.finishSector .mirror fun x s => s.mirrorVerify State.trigger x (sectorData data))

/-- GUIDE_SECTOR_VERIFY (R39). -/
def execGuideSectorVerify (data : List Byte) (s : State) : Answer :=
  .next (s.powered fun s =>
    s.finishSector .guideVerify fun x s => s.guideVerify State.trigger x (sectorData data))

/-- GUIDE_SECTOR_SCAN (R41). -/
def execGuideSectorScan (data : List Byte) (s : State) : Answer :=
  .next (s.powered fun s =>
    s.finishSector .guideScan fun x s => s.guideScan State.trigger x (sectorData data))

/-- WRITE_DEADLINE_EXPIRY (R146). -/
def execWriteDeadlineExpiry (s : State) : Answer := .next (s.powered State.expireWrite)

/-- LEND_EXPIRY (R155). -/
def execLendExpiry (s : State) : Answer := .next (s.powered State.expireLend)

/-- WAKE_DEADLINE_EXPIRY (R179). -/
def execWakeDeadlineExpiry (s : State) : Answer := .next (s.powered fun s => s.wakeExpired.dormantTest)

/-- STANDBY_STATUS_POLL (R175). -/
def execStandbyStatusPoll (response : List Byte) (s : State) : Answer :=
  .next (s.powered fun s => s.standbyPoll response)

end Sys2Proof.Machine
end

