-- ==== Sys2Proof/Machine/Dispatch.lean ====
section
/-! DEFINITION. The meaning of each row of the table: one arm per constructor of `Instr`. -/

namespace Sys2Proof.Machine

def exec (i : Instr) (s : State) : Host.Outcome State Fault Refusal :=
  match i with
  | .coldReset => Sys2Proof.Machine.execColdReset s
  | .warmReset => Sys2Proof.Machine.execWarmReset s
  | .vddFall => Sys2Proof.Machine.execVddFall s
  | .pwrgoodRise => Sys2Proof.Machine.execPwrgoodRise s
  | .pwrgoodFall => Sys2Proof.Machine.execPwrgoodFall s
  | .counterAdvance => Sys2Proof.Machine.execCounterAdvance s
  | .read code addr count => Sys2Proof.Machine.execRead code addr count s
  | .clockLatchRead => Sys2Proof.Machine.execClockLatchRead s
  | .replanToggleRead => Sys2Proof.Machine.execReplanToggleRead s
  | .program code addr data whole => Sys2Proof.Machine.execProgram code addr data whole s
  | .eraseSector code addr whole => Sys2Proof.Machine.execEraseSector code addr whole s
  | .eraseBlock code addr whole => Sys2Proof.Machine.execEraseBlock code addr whole s
  | .eraseChip code counted => Sys2Proof.Machine.execEraseChip code counted s
  | .writeStatus code data whole => Sys2Proof.Machine.execWriteStatus code data whole s
  | .readStatus code response => Sys2Proof.Machine.execReadStatus code response s
  | .writeEnable code counted => Sys2Proof.Machine.execWriteEnable code counted s
  | .writeDisable code counted => Sys2Proof.Machine.execWriteDisable code counted s
  | .suspend code counted => Sys2Proof.Machine.execSuspend code counted s
  | .resume code counted => Sys2Proof.Machine.execResume code counted s
  | .resetArm code counted => Sys2Proof.Machine.execResetArm code counted s
  | .flashReset code counted => Sys2Proof.Machine.execFlashReset code counted s
  | .powerDown code counted => Sys2Proof.Machine.execPowerDown code counted s
  | .release code counted => Sys2Proof.Machine.execRelease code counted s
  | .detaching code counted => Sys2Proof.Machine.execDetaching code counted s
  | .otherInstruction code sent whole => Sys2Proof.Machine.execOtherInstruction code sent whole s
  | .writeDeadlineExpiry => Sys2Proof.Machine.execWriteDeadlineExpiry s
  | .ackNotices n => Sys2Proof.Machine.execAckNotices n s
  | .clearFlags mask => Sys2Proof.Machine.execClearFlags mask s
  | .setAttnMask mask => Sys2Proof.Machine.execSetAttnMask mask s
  | .setTime time => Sys2Proof.Machine.execSetTime time s
  | .confirmStart ref => Sys2Proof.Machine.execConfirmStart ref s
  | .reportFailure ref => Sys2Proof.Machine.execReportFailure ref s
  | .view service => Sys2Proof.Machine.execView service s
  | .viewEnd => Sys2Proof.Machine.execViewEnd s
  | .keepViewing ref => Sys2Proof.Machine.execKeepViewing ref s
  | .lend ms => Sys2Proof.Machine.execLend ms s
  | .standby => Sys2Proof.Machine.execStandby s
  | .replan => Sys2Proof.Machine.execReplan s
  | .guardAnchor => Sys2Proof.Machine.execGuardAnchor s
  | .rescan => Sys2Proof.Machine.execRescan s
  | .invalidCommand offset sent => Sys2Proof.Machine.execInvalidCommand offset sent s
  | .startEvent tuner => Sys2Proof.Machine.execStartEvent tuner s
  | .stopEvent tuner => Sys2Proof.Machine.execStopEvent tuner s
  | .confirmEvent => Sys2Proof.Machine.execConfirmEvent s
  | .warnEvent => Sys2Proof.Machine.execWarnEvent s
  | .wakeEvent => Sys2Proof.Machine.execWakeEvent s
  | .replanPublish => Sys2Proof.Machine.execReplanPublish s
  | .sectorReadStart responses => Sys2Proof.Machine.execSectorReadStart responses s
  | .busyWaitTimeout => Sys2Proof.Machine.execBusyWaitTimeout s
  | .mirrorSectorVerify data => Sys2Proof.Machine.execMirrorSectorVerify data s
  | .guideSectorVerify data => Sys2Proof.Machine.execGuideSectorVerify data s
  | .guideSectorScan data => Sys2Proof.Machine.execGuideSectorScan data s
  | .lendExpiry => Sys2Proof.Machine.execLendExpiry s
  | .wakeDeadlineExpiry => Sys2Proof.Machine.execWakeDeadlineExpiry s
  | .standbyStatusPoll response => Sys2Proof.Machine.execStandbyStatusPoll response s

end Sys2Proof.Machine
end

