-- ==== Sys2Proof/Safety.lean ====
section
/-! DEFINITION. The terms in which the statements speak: when the SoC is heard, what a completed command leaves, the state a
reset leaves, and the laws of the part (00_scope.md, "Laws of the part") as predicates of a state. -/

namespace Sys2Proof.Machine

/-! ### When the SoC is heard -/

/-- The supply is present, the SoC owns the path and the part is ATTACHED: selections are decoded and the window is
answered (R141, R150, R154). -/
def State.Listening (s : State) : Prop :=
  s.pins.vdd = true ∧ s.fpx.owner = .soc ∧ s.fpx.attached = true

/-- The class the table in force gives a code (R141). -/
def State.classIs (s : State) (code : Byte) (c : InstrClass) : Prop := s.fpx.classTable.classOf code = some c

/-- The SoC selection a row of the selections stands for. -/
def selectionOf : Instr → Option Selection
  | .read code addr count => some ⟨code, some addr, [], true, count, []⟩
  | .program code addr data whole => some ⟨code, some addr, data, whole, 0, []⟩
  | .eraseSector code addr whole => some ⟨code, some addr, [], whole, 0, []⟩
  | .eraseBlock code addr whole => some ⟨code, some addr, [], whole, 0, []⟩
  | .eraseChip code counted => some ⟨code, none, [], counted, 0, []⟩
  | .writeStatus code data whole => some ⟨code, none, data, whole, 0, []⟩
  | .readStatus code response => some ⟨code, none, [], false, 0, response⟩
  | .writeEnable code counted => some ⟨code, none, [], counted, 0, []⟩
  | .writeDisable code counted => some ⟨code, none, [], counted, 0, []⟩
  | .suspend code counted => some ⟨code, none, [], counted, 0, []⟩
  | .resume code counted => some ⟨code, none, [], counted, 0, []⟩
  | .resetArm code counted => some ⟨code, none, [], counted, 0, []⟩
  | .flashReset code counted => some ⟨code, none, [], counted, 0, []⟩
  | .powerDown code counted => some ⟨code, none, [], counted, 0, []⟩
  | .release code counted => some ⟨code, none, [], counted, 0, []⟩
  | .detaching code counted => some ⟨code, none, [], counted, 0, []⟩
  | .otherInstruction code sent whole => some ⟨code, none, sent, whole, 0, []⟩
  | _ => none

/-- How many bytes the SoC reads in a row's selection. -/
def Selection.reads (sel : Selection) : Nat := sel.response.length + sel.count

/-! ### What a command leaves -/

/-- A selection that reached the flash and changed nothing else: the port record shows it, the reset arm is disarmed
(R148). -/
def State.passed (s : State) (code : Byte) (soc : List (Option Byte)) : State :=
  { s with ports := ⟨soc, [.forward code]⟩, fpx := { s.fpx with resetArm := false } }

/-- What serving the `n` window bytes from offset `off` on has changed: past the counter's low byte the latch holds the counter's
upper bytes (R160); past the toggle it is inverted, while a replan is RUNNING (R161). -/
def State.passedOver (s : State) (off n : Nat) : State :=
  { s with
    rep := { s.rep with
      latch := if off ≤ 0x10A ∧ 0x10A < off + n then BitVec.ofNat 24 (s.clk.counter / 256) else s.rep.latch }
    pln := { s.pln with
      toggle := if off ≤ 0x111 ∧ 0x111 < off + n ∧ s.pln.snapshot.isSome = true then !s.pln.toggle else s.pln.toggle } }

/-- A window command's completion (R168) over the state its block's work left: the last-command result under the next counter
value, COMMAND_DONE, and CMD_REJECTED for a result other than OK. The program itself was absorbed (R152) and disarmed the
reset arm (R148). -/
def State.answered (s : State) (program : Byte) (code : Byte) (r : CmdResult) : State :=
  { s with
    ports := ⟨[], [.cut program]⟩
    fpx := { s.fpx with resetArm := false }
    rep := { s.rep with
      lastCode := code
      lastResult := resultCode r
      lastCounter := s.rep.counter + 1
      counter := s.rep.counter + 1
      sticky := s.rep.sticky ||| (if r = .ok then 0x0008 else 0x0018) } }

/-- What one piece of work of the run engine or the arbiter leaves alone up to its replan trigger: the board, the flash path, the
record store, the matcher, the planner, the power controller and the scan request; of the clock all but the channels and the
compare events; of the report unit all but the notices and NOTICE_LOST. -/
structure State.RunWork (s u : State) : Prop where
  pins : u.pins = s.pins
  fpx : u.fpx = s.fpx
  rst : u.rst = s.rst
  gmx : u.gmx = s.gmx
  pln : u.pln = s.pln
  pwc : u.pwc = s.pwc
  scanRequest : u.ser.scanRequest = s.ser.scanRequest
  clk : u.clk = { s.clk with channels := u.clk.channels, events := u.clk.events }
  rep : u.rep = { s.rep with notices := u.rep.notices, sticky := u.rep.sticky }
  lost : u.rep.sticky = s.rep.sticky ∨ u.rep.sticky = s.rep.sticky ||| 0x0002

/-- A compare channel as its owner's reload leaves it (R99, R100): with a value, enabled while time is VALID unless the value has
already come; disabled when there is none. -/
def State.LoadedWith (s : State) (c : Channel) : Option Nat → Prop
  | some v => s.clk.channels.get c = ⟨v, s.clk.valid && decide (s.clk.counter < v)⟩
  | none => (s.clk.channels.get c).enabled = false

/-- What a window command leaves of the flash path and the mirrors when its block is the run engine, the arbiter, the clock or
the planner: only the reset arm of the path changes (R148, R152), and the command page shows the result (R168). -/
structure State.CommandFrame (s t : State) (program code : Byte) (r : CmdResult) : Prop where
  ports : t.ports = ⟨[], [.cut program]⟩
  fpx : t.fpx = { s.fpx with resetArm := false }
  pins : t.pins = s.pins
  pwc : t.pwc = s.pwc
  anchor : t.rst.anchor = s.rst.anchor
  schedule : t.rst.schedule = s.rst.schedule
  tables : t.rst.tables = s.rst.tables
  verify : t.rst.verify = s.rst.verify
  plan : t.pln.plan = s.pln.plan
  mask : t.rep.mask = s.rep.mask
  code : t.rep.lastCode = code
  result : t.rep.lastResult = resultCode r
  count : t.rep.counter = s.rep.counter + 1
  done : t.rep.sticky.getLsbD 3 = true

/-! ### Resets -/

/-- The state a cold reset leaves, value by value, with the straps' flash size, the PWRGOOD level, and the model's own crystal
count, free-value count and queue, which no reset touches. -/
def State.coldStart (fsize : FlashSize) (pwrgood : Bool) (crystal freeCount : Nat) (pending : List Instr) : State :=
  { pins := ⟨fsize, pwrgood, true⟩
    fpx :=
      { classTable := builtinTable, wel := false, resetArm := false, inFlight := none, suspended := none, asleep := false,
        attached := true, owner := .k240, guard := false, scan := .idle, firstPoll := none, gaveUp := false, lend := none }
    rst :=
      { anchor := [], schedule := [], reported := [], rejected := [], verify := [fsize.bytes - 0x1000],
        tables := ⟨[], [], [], []⟩, leftOut := ⟨[], [], [], []⟩, effConfig := none, effOpcodes := none, adopted := false,
        inForce := ⟨⟨none, none, 0, fsize.bytes - 0x20000⟩, ⟨.twin, 2, 3⟩, ⟨2, 5, 180, 30, 60, 14, 2⟩⟩, deferred := none }
    gmx := ⟨[]⟩
    ser := ⟨[], none⟩
    pln := { snapshot := none, stale := false, plan := ⟨[], [], 0, 0, false⟩, generation := 0, toggle := false, published := false }
    clk :=
      { counter := 0, prescaler := 0, secondLen := 32768, crystal := crystal, trim := 0, lastSet := none, valid := false,
        channels := ⟨⟨0, false⟩, ⟨0, false⟩, ⟨0, false⟩, ⟨0, false⟩, ⟨0, false⟩, ⟨0, false⟩, ⟨0, false⟩⟩, events := [] }
    run := ⟨[], [], [], [], []⟩
    tun := ⟨⟨none, none, 0, none⟩, ⟨none, none, 0, none⟩, []⟩
    rep :=
      { notices := [], sticky := 0, mask := 0xFFFF, lastCode := 0xFF, lastResult := 0xFF, lastCounter := 0, counter := 0,
        latch := 0 }
    pwc :=
      { power := .startUp, waking := none, wokenFor := none, wakeTarget := none, sleepNote := none, socrst := true,
        wakeLine := false, handBack := false, startupReads := 0, cold := true }
    ports := ⟨[], [.own 0x04 none 0 1]⟩
    freeCount := freeCount
    pending := pending }

/-! ### Laws of the part -/

/-- Every table, list and queue is within the capacity the manual gives it: notices (law 7), matched events (R31), pending
marks (R57), history (R123), end states (R125), the record tables (R19), the clash list and its opponents (R79, R81). -/
structure State.TablesFit (s : State) : Prop where
  notices : s.rep.notices.length ≤ 32
  matched : s.gmx.entries.length ≤ 384
  pendingMarks : s.ser.pendingMarks.length ≤ 32
  history : s.run.history.length ≤ 64
  endStates : s.run.endStates.length ≤ 128
  services : s.rst.tables.services.length ≤ 256
  bookings : s.rst.tables.bookings.length ≤ 128
  links : s.rst.tables.links.length ≤ 48
  marks : s.rst.tables.marks.length ≤ 512
  clashes : s.pln.plan.clashes.length ≤ 128
  opponents : ∀ c ∈ s.pln.plan.clashes, c.opponents.length ≤ 4

/-- The run table (R108), the planner's pinned runs (R70), the plan table (R71, R80), the waiting list (R110) and the warned
list (R135) are within their capacities, and the total caps that bound the runs are in their range (R12). -/
structure State.ListsFit (s : State) : Prop where
  runs : s.run.runs.length ≤ 6
  pinned : ∀ sn, s.pln.snapshot = some sn → sn.pinned.length ≤ 6
  plan : s.pln.plan.entries.length ≤ 256
  waiting : s.run.waiting.length ≤ 256
  warned : s.tun.warned.length ≤ 256
  warnedOnce : s.tun.warned.Nodup
  inForce : s.rst.inForce.tuner.total ≤ 6
  deferred : ∀ g, s.rst.deferred = some g → g.total ≤ 6
  record : ∀ r, s.rst.effConfig = some r → r.cfg.tuner.total ≤ 6

/-- The layout in force is the unconfigured one or one that R13 lets stand, and a sector that the scan engine has begun for the
guide's verification lies in the guide partition. -/
structure State.LayoutLaw (s : State) : Prop where
  layout : s.rst.inForce.layout = unconfiguredLayout s.pins.fsize
    ∨ ∃ schedule guide blocks window, s.rst.inForce.layout = ⟨some schedule, some guide, blocks, window⟩
        ∧ layoutOk s.pins.fsize schedule guide blocks window = true
  scan : ∀ x, s.fpx.scan = .waiting x .guideVerify ∨ s.fpx.scan = .reading x .guideVerify →
    x ∈ s.rst.inForce.layout.guideSectors

/-- Each table holds the effective records of its kind at the lowest slot addresses up to its capacity, and the rest are left
out (R19). -/
structure State.TablesLaw (s : State) : Prop where
  services : s.rst.tables.services = s.effectiveRecords.services.take 256
  bookings : s.rst.tables.bookings = s.effectiveRecords.bookings.take 128
  links : s.rst.tables.links = s.effectiveRecords.links.take 48
  marks : s.rst.tables.marks = s.effectiveRecords.marks.take 512
  leftOut : s.rst.leftOut = ⟨s.effectiveRecords.services.drop 256, s.effectiveRecords.bookings.drop 128,
    s.effectiveRecords.links.drop 48, s.effectiveRecords.marks.drop 512⟩

/-- FPX holds the class table that the effective OPCODES record gives (R14, R24). -/
def State.ClassTableLaw (s : State) : Prop := s.fpx.classTable = classTableOf s.rst.effOpcodes

/-- No bit is raised in the flag set but those of the eight sticky flags: numbers 1, 2, 3, 4, 7, 8, 10 and 11 (R165). -/
def State.StickyLaw (s : State) : Prop := s.rep.sticky &&& ~~~0x0D9E = 0

/-- The effective flags of the matched-event table are those that R31 gives its entries as they stand. -/
def State.EventsLaw (s : State) : Prop := s.gmx.entries = recomputeEffective s.gmx.entries

/-- The counter is a schedule time and the trim stays in its range (R90, law 8). -/
structure State.ClockInRange (s : State) : Prop where
  counter : s.clk.counter ≤ 0xFFFFFFFF
  low : -255 ≤ s.clk.trim
  high : s.clk.trim ≤ 255

/-- Both mirrors are in the memory's one canonical form. -/
structure State.MirrorsCanonical (s : State) : Prop where
  anchor : s.rst.anchor.wf = true
  schedule : s.rst.schedule.wf = true

/-- Who owns the path and what the power state holds (R154, R155, R173 to R179). -/
structure State.PathLaw (s : State) : Prop where
  owner : s.fpx.owner = .soc ↔ s.pwc.power = .run ∧ s.fpx.lend = none
  lend : s.fpx.lend ≠ none → s.pwc.power = .run
  handBack : s.pwc.handBack = true → s.pwc.power = .standby ∧ ∃ x p, s.fpx.scan = .reading x p
  socrst : s.pwc.socrst = true ↔ s.pwc.power = .startUp ∨ s.pwc.handBack = true
  wakeLine : s.pwc.wakeLine = true ↔ s.pwc.waking ≠ none
  waking : s.pwc.waking ≠ none → s.pwc.power = .standby
  note : s.pwc.sleepNote ≠ none → s.pwc.power = .dormant
  quiet : s.pwc.power = .dormant →
    s.fpx.scan = .idle ∧ s.fpx.inFlight = none ∧ s.pln.snapshot = none ∧ s.clk.events = []

/-- The active runs against the tuner records: one run of a ref, none of a ref that still waits, each tuner's stream count
the number of its runs (law 2), and every run on its tuner's multiplex (law 1). -/
structure State.RunLaw (s : State) : Prop where
  refs : (s.run.runs.map ActiveRun.ref).Nodup
  apart : ∀ e ∈ s.run.waiting, ∀ r ∈ s.run.runs, e.ref ≠ r.ref
  streams : ∀ T, (s.tun.get T).streams = (s.run.runs.filter fun r => r.tuner = T).length
  multiplex : ∀ r ∈ s.run.runs, (s.tun.get r.tuner).multiplex = some r.multiplex

/-- Until the anchor is first verified the part is in START-UP, owns the path, and plans, records and shows nothing (R21,
R93, R173). -/
def State.StartUpLaw (s : State) : Prop :=
  s.rst.adopted = false →
    s.pwc.power = .startUp ∧ s.fpx.owner = .k240 ∧ s.fpx.attached = true ∧ s.fpx.asleep = false
      ∧ s.fpx.inFlight = none ∧ s.fpx.suspended = none ∧ s.fpx.lend = none ∧ s.rst.verify.contains s.pins.fsize.anchor = true
      ∧ (∀ x p, s.fpx.scan = .waiting x p ∨ s.fpx.scan = .reading x p → x = s.pins.fsize.anchor ∧ p = .mirror)
      ∧ s.clk.valid = false ∧ s.pln.snapshot = none ∧ s.run.runs = [] ∧ s.run.waiting = []
      ∧ s.tun.a = ⟨none, none, 0, none⟩ ∧ s.tun.b = ⟨none, none, 0, none⟩

/-- The tuner records against the configuration in force: the stream caps (laws 1 and 2), one viewer, tuner B idle in SINGLE
mode (R137), equal feed groups in TWIN_LOOPED mode (law 3), and nothing on an idle tuner (R127). -/
structure State.TunerLaw (s : State) : Prop where
  perTuner : ∀ T, (s.tun.get T).streams ≤ s.rst.inForce.tuner.perTuner
  total : s.tun.a.streams + s.tun.b.streams ≤ s.rst.inForce.tuner.cap
  viewer : s.tun.a.viewer = none ∨ s.tun.b.viewer = none
  single : s.rst.inForce.tuner.mode = .single → s.tun.b.state = .idle
  looped : s.rst.inForce.tuner.mode = .twinLooped → s.tun.a.state ≠ .idle → s.tun.b.state ≠ .idle → s.tun.a.feed = s.tun.b.feed
  idle : ∀ T, (s.tun.get T).state = .idle → (s.tun.get T).multiplex = none ∧ (s.tun.get T).feed = none

/-! ### The plan -/

/-- The entries of the plan under construction present on a tuner at an instant never exceed what the tuners can do (R73):
one multiplex and at most the per-tuner cap on each tuner, at most the total cap on both, and equal feed groups in
TWIN_LOOPED mode. -/
def withinTuners (g : TunerGroup) (ps : List Placed) (t : Nat) : Prop :=
  (∀ T, (profile ps T t).length ≤ g.perTuner)
    ∧ (∀ T, ∀ p ∈ profile ps T t, ∀ q ∈ profile ps T t, p.multiplex = q.multiplex)
    ∧ (profile ps .A t).length + (profile ps .B t).length ≤ g.cap
    ∧ (g.mode = .twinLooped → ∀ p ∈ profile ps .A t, ∀ q ∈ profile ps .B t, p.feed = q.feed)

end Sys2Proof.Machine
end

