-- ==== Sys2Proof/Certificates/Slice0/Obligations.lean ====
section
/-! DEFINITION. The statements for the provers, each over the numbered rules its docstring names. Every statement about a
command gives the state it answers, or what that state holds and what it leaves alone. The port record that a state shows is
the model's choice of log 18, and moments on the crystal count are its choice of log 4. -/

open Sys2Proof Sys2Proof.Machine

/-! ### The queue -/

/-- A step runs the command at the front of the queue on the state with the queue's rest. With no command waiting it is the
model's idle step (log 4): the crystal counts one period, and the rows whose moment has then come are queued, in that log's
order; without VDD only the end of the second is (R105). -/
def Obligations.StepRunsFrontCommand : Prop :=
  (∀ (c : Instr) (rest : List Instr) (s : State), step { s with pending := c :: rest } = exec c { s with pending := rest })
  ∧ (∀ s : State, s.pending = [] →
    let now := s.clk.crystal + 1
    let second := if s.clk.secondLen ≤ s.clk.prescaler + 1 then [Instr.counterAdvance] else []
    let write := match s.fpx.inFlight with
      | some w => if w.deadline ≤ now then [Instr.writeDeadlineExpiry] else []
      | none => []
    let lend := match s.fpx.lend with
      | some l => if l.expired = false ∧ l.ms * 32768 ≤ (now - l.start) * 1000 then [Instr.lendExpiry] else []
      | none => []
    let busy := match s.fpx.scan, s.fpx.firstPoll with
      | .waiting _ _, some f => if f + 400 * 32768 ≤ now then [Instr.busyWaitTimeout] else []
      | _, _ => []
    let wake := match s.pwc.waking with
      | some w => if w.deadline ≤ now then [Instr.wakeDeadlineExpiry] else []
      | none => []
    step s = .next
      { s with
        ports := ⟨[], []⟩
        clk := { s.clk with crystal := now, prescaler := s.clk.prescaler + 1 }
        pending := second ++ if s.pins.vdd then write ++ lend ++ busy ++ wake else [] })

/-- Every command answers a next state and leaves the queue alone: nothing stops the part. -/
def Obligations.EveryCommandAnswersNextState : Prop :=
  ∀ (c : Instr) (s : State), ∃ t, exec c s = .next t ∧ t.pending = s.pending

/-! ### Resets and the board -/

/-- COLD_RESET leaves every block at its reset value, the WRITE_DISABLE sent (R25, R43, R62, R89, R106, R107, R126, R140, R158,
R172, R173, R180). WARM_RESET differs from it in what it keeps of the clock, in the cold mark, and in the RELEASE code it sends
when the flash-sleep note holds one. The model's own crystal count, free-value count and queue stay (log 4, 6). -/
def Obligations.ResetsLeaveTheirValues : Prop :=
  (∀ s : State, exec .coldReset s =
     .next (State.coldStart s.pins.fsize s.pins.pwrgood s.clk.crystal s.freeCount s.pending))
  ∧ (∀ s : State, exec .warmReset s =
     let c := State.coldStart s.pins.fsize s.pins.pwrgood s.clk.crystal s.freeCount s.pending
     .next { c with
       clk := { c.clk with
         counter := s.clk.counter, prescaler := s.clk.prescaler, secondLen := s.clk.secondLen, trim := s.clk.trim,
         lastSet := s.clk.lastSet }
       pwc := { c.pwc with cold := false }
       ports := ⟨[], match s.pwc.sleepNote with
         | some code => [.own code none 0 1, .own 0x04 none 0 1]
         | none => [.own 0x04 none 0 1]⟩ })

/-- VDD_FALL takes the supply away and disables every compare channel, its value kept (R105); that every other block keeps its
state is the model's choice of log 3. PWRGOOD rising hands the path back (R177): at once where no sector's data is being read, a
waiting sector abandoned (R157); from DORMANT after the noted RELEASE code (R176); under SOCRST where a read is carried to its
end. A wake in progress ends (R179). In START-UP and RUN only the level changes (R173). PWRGOOD falling in RUN enters STANDBY:
the K240 has the path, a lend ends with detail STANDBY, SOCRST stays released (R155, R175), and the part may be ready for
DORMANT at once (R176); in the other states only the level changes. -/
def Obligations.VddAndPwrgoodEdges : Prop :=
  (∀ s : State, s.pins.vdd = true →
    exec .vddFall s = .next
      { s with
        ports := ⟨[], []⟩
        pins := { s.pins with vdd := false }
        clk := { s.clk with channels :=
          { startA := ⟨s.clk.channels.startA.value, false⟩, startB := ⟨s.clk.channels.startB.value, false⟩,
            stopA := ⟨s.clk.channels.stopA.value, false⟩, stopB := ⟨s.clk.channels.stopB.value, false⟩,
            confirm := ⟨s.clk.channels.confirm.value, false⟩, warn := ⟨s.clk.channels.warn.value, false⟩,
            wake := ⟨s.clk.channels.wake.value, false⟩ } } })
  ∧ (∀ s : State, s.pins.vdd = true → s.pins.pwrgood = false →
     let up : State := { s with ports := ⟨[], []⟩, pins := { s.pins with pwrgood := true } }
     let run : State := { up with
       fpx := { s.fpx with owner := .soc, scan := .idle }
       pwc := { s.pwc with power := .run, socrst := false, handBack := false, waking := none, wakeLine := false } }
     (s.pwc.power = .startUp ∨ s.pwc.power = .run → exec .pwrgoodRise s = .next up)
     ∧ (s.pwc.power = .standby → (∀ x p, s.fpx.scan ≠ .reading x p) → exec .pwrgoodRise s = .next run)
     ∧ (s.pwc.power = .standby → (∃ x p, s.fpx.scan = .reading x p) → exec .pwrgoodRise s = .next
         { up with pwc := { s.pwc with socrst := true, handBack := true, waking := none, wakeLine := false } })
     ∧ (s.pwc.power = .dormant → s.fpx.scan = .idle → s.pwc.sleepNote = none → exec .pwrgoodRise s = .next run)
     ∧ (∀ code, s.pwc.power = .dormant → s.fpx.scan = .idle → s.pwc.sleepNote = some code → exec .pwrgoodRise s = .next
         { run with
           ports := ⟨[], [.own code none 0 1]⟩
           fpx := { run.fpx with asleep := false }
           pwc := { run.pwc with sleepNote := none } }))
  ∧ (∀ s : State, s.pins.vdd = true → s.pins.pwrgood = true →
     (s.pwc.power ≠ .run →
       exec .pwrgoodFall s = .next { s with ports := ⟨[], []⟩, pins := { s.pins with pwrgood := false } })
     ∧ (s.pwc.power = .run →
       ∃ t, exec .pwrgoodFall s = .next t
         ∧ (t.pwc.power = .standby ∨ t.pwc.power = .dormant)
         ∧ t.pins = { s.pins with pwrgood := false }
         ∧ (s.fpx.lend = none → t.fpx.owner = .k240 ∧ t.rep.notices = s.rep.notices)
         ∧ (∀ l, s.fpx.lend = some l → t.fpx.owner = s.fpx.owner
             ∧ t.rep.notices = (s.post ⟨.lendDone, none, 3, s.clk.counter, s.sectorsLeft, (l.read : Nat)⟩).rep.notices)
         ∧ t.fpx.lend = none ∧ t.pwc.socrst = s.pwc.socrst ∧ t.run = s.run ∧ t.tun = s.tun ∧ t.rst = s.rst ∧ t.gmx = s.gmx
         ∧ t.clk.counter = s.clk.counter ∧ t.clk.trim = s.clk.trim ∧ t.pln = s.pln))

/-! ### The clock -/

/-- COUNTER_ADVANCE, with VDD or without: from n to n + 1, a new second whose length the trim gives, nothing else of the count
changed (R90, R91, R92; law 9), and no byte of a mirror. A wrap: the counter becomes 0, every channel is disabled without an
event, time is UNSET, CLOCK_WRAPPED is posted with the counter before the wrap and the trim, and the trim and the last set are
kept (R97). No hourly trigger is given. A wrap with VDD absent does the same to the clock; its notice, which the warm reset
would lose, is not posted (R105; other blocks kept, log 3). -/
def Obligations.CounterAdvancesOrWraps : Prop :=
  (∀ s : State, s.clk.counter < 0xFFFFFFFF →
    ∃ t, exec .counterAdvance s = .next t
      ∧ t.clk.counter = s.clk.counter + 1 ∧ t.clk.prescaler = 0
      ∧ t.clk.secondLen = secondLength (s.clk.counter + 1) s.clk.trim
      ∧ t.clk.trim = s.clk.trim ∧ t.clk.lastSet = s.clk.lastSet ∧ t.clk.valid = s.clk.valid
      ∧ t.pins = s.pins ∧ t.rst.anchor = s.rst.anchor ∧ t.rst.schedule = s.rst.schedule ∧ t.rst.tables = s.rst.tables
      ∧ t.pln.plan = s.pln.plan ∧ t.pln.generation = s.pln.generation ∧ t.fpx.owner = s.fpx.owner)
  ∧ (∀ s : State, s.clk.counter = 0xFFFFFFFF →
    let wrapped : State :=
      { s with
        ports := ⟨[], []⟩
        clk := { s.clk with
          counter := 0, prescaler := 0, secondLen := secondLength 0 s.clk.trim, valid := false
          crystal := s.clk.crystal + (s.clk.secondLen - s.clk.prescaler)
          channels :=
            { startA := ⟨s.clk.channels.startA.value, false⟩, startB := ⟨s.clk.channels.startB.value, false⟩,
              stopA := ⟨s.clk.channels.stopA.value, false⟩, stopB := ⟨s.clk.channels.stopB.value, false⟩,
              confirm := ⟨s.clk.channels.confirm.value, false⟩, warn := ⟨s.clk.channels.warn.value, false⟩,
              wake := ⟨s.clk.channels.wake.value, false⟩ } } }
    (s.pins.vdd = true → exec .counterAdvance s = .next
      (wrapped.post ⟨.clockWrapped, none, 0, 0, 0xFFFFFFFF, s.clk.trim⟩))
    ∧ (s.pins.vdd = false → exec .counterAdvance s = .next wrapped))

/-- An advance fires exactly the enabled channels at or below the new counter: each is disabled, and one event of it with the
firing time joins the waiting ones; any other channel keeps its record and adds no event (R100, R101). The advance to a multiple
of 3600 is left out, since the replan it starts may load a channel afresh. -/
def Obligations.AdvanceFiresDueChannels : Prop :=
  ∀ (s : State) (c : Channel), s.pins.vdd = true → s.clk.counter < 0xFFFFFFFF → (s.clk.counter + 1) % 3600 ≠ 0 →
    let waiting := fun (u : State) => u.clk.events.filter fun e => e.channel = c
    ∃ t, exec .counterAdvance s = .next t
      ∧ ((s.clk.channels.get c).enabled = true → (s.clk.channels.get c).value ≤ s.clk.counter + 1 →
          t.clk.channels.get c = ⟨(s.clk.channels.get c).value, false⟩
          ∧ ∃ e, waiting t = waiting s ++ [e] ∧ e.time = s.clk.counter + 1)
      ∧ ((s.clk.channels.get c).enabled = false ∨ s.clk.counter + 1 < (s.clk.channels.get c).value →
          t.clk.channels.get c = s.clk.channels.get c ∧ waiting t = waiting s)

/-- A replan trigger, by the planner's state (R83): the stale flag while RUNNING; nothing while UNSET; else a replan, whose
snapshot holds the counter, the configuration in force, the services, the candidates, the pinned runs and the viewer's tuner
(R65), taken after the purges: events that ended a day ago, history entries of a day ago, and untagged pending keys that nothing
holds (R42, R58, R84, R123), the guide's purge before the history's (log 55). The advance to a multiple of 3600 is a trigger
(R98). -/
def Obligations.TriggersStartOrMarkTheReplan : Prop :=
  (∀ s : State,
     let t := s.trigger
     (s.pln.snapshot.isSome = true → t = { s with pln := { s.pln with stale := true } })
     ∧ (s.pln.snapshot = none → s.clk.valid = false → t = s)
     ∧ (s.pln.snapshot = none → s.clk.valid = true →
       ∃ sn, t.pln = { s.pln with snapshot := some sn, stale := t.pln.stale }
         ∧ sn.now = s.clk.counter ∧ sn.services = s.rst.tables.services ∧ sn.tuner = t.rst.inForce.tuner
         ∧ sn.prePad = s.rst.inForce.schedule.prePad ∧ sn.postPad = s.rst.inForce.schedule.postPad
         ∧ sn.horizon = s.rst.inForce.schedule.horizon ∧ sn.viewer = t.tun.viewerTuner
         ∧ sn.candidates = t.manualCandidates ++ t.seriesCandidates ∧ sn.pinned.map PinnedRun.run = t.run.runs
         ∧ (∀ e ∈ t.gmx.entries, s.clk.counter - 86400 < e.event.stop)
         ∧ (∀ e ∈ s.gmx.entries, e.matched = true → s.clk.counter - 86400 < e.event.stop →
             ∃ e' ∈ t.gmx.entries, e'.slot = e.slot ∧ e'.event = e.event)
         ∧ (∀ h ∈ t.run.history, s.clk.counter < min (h.windowEnd + 86400) 0xFFFFFFFF)
         ∧ (∀ p ∈ t.ser.pendingMarks, ∀ ev part, p.key = .untagged ev part →
             (t.effectiveEvent ev).isSome = true ∨ ∃ h ∈ t.run.history, h.ref = p.ref)
         ∧ t.run.changed = [] ∧ t.rst.tables = s.rst.tables ∧ t.fpx = s.fpx ∧ t.pwc = s.pwc ∧ t.pins = s.pins))
  ∧ (∀ s : State, s.pins.vdd = true → s.clk.counter < 0xFFFFFFFF → (s.clk.counter + 1) % 3600 = 0 →
     ∃ t, exec .counterAdvance s = .next t
       ∧ (s.clk.valid = true → s.pln.snapshot = none → ∃ sn, t.pln.snapshot = some sn ∧ sn.now = s.clk.counter + 1)
       ∧ (∀ sn, s.pln.snapshot = some sn → t.pln.snapshot = some sn ∧ t.pln.stale = true)
       ∧ (s.clk.valid = false → s.pln.snapshot = none → t.pln = s.pln))

/-- The lengths of seconds (R91): each is fixed when the second begins, from its counter value and the trim; each is as the
table gives; and any 256 consecutive ones hold exactly |k| adjusted seconds and 256 * 32768 + k periods. -/
def Obligations.SecondLengthsFollowTheTrim : Prop :=
  (∀ s : State, ∃ t, exec .counterAdvance s = .next t ∧ t.clk.prescaler = 0
     ∧ t.clk.secondLen = secondLength t.clk.counter t.clk.trim)
  ∧ ∀ (n : Nat) (k : Int), -255 ≤ k → k ≤ 255 →
    (n % 256 < k.natAbs → 0 < k → secondLength n k = 32769)
    ∧ (n % 256 < k.natAbs → k < 0 → secondLength n k = 32767)
    ∧ (k.natAbs ≤ n % 256 → secondLength n k = 32768)
    ∧ ((List.range 256).filter fun i => secondLength (n + i) k ≠ 32768).length = k.natAbs
    ∧ ((((List.range 256).map fun i => secondLength (n + i) k).sum : Nat) : Int) = 256 * 32768 + k

/-- SET_TIME loads the counter, starts a second there, records the last set and makes time VALID (R94). A small correction at
least an hour after the last set adds the drift estimate to the trim, within -255 to 255; any other set keeps the trim (R95,
R96). The estimate is -c * 8388608 / E to the nearest whole number, an exact half away from zero (R96). The planner is triggered
(R94, R83); with a replan RUNNING a small correction posts nothing and a step posts TIME_STEPPED (R95). -/
def Obligations.SetTimeLoadsTheClock : Prop :=
  (∀ (c : Int) (e : Nat), 0 < e →
    2 * (driftDelta c e * e + c * 8388608).natAbs ≤ e
    ∧ (2 * (driftDelta c e * e + c * 8388608).natAbs = e → (c * 8388608).natAbs ≤ (driftDelta c e).natAbs * e))
  ∧ ∀ (s : State) (e : ClassEntry) (tn : BitVec 32), s.Listening → s.fpx.classTable.firstOf .program = some e →
    let c : Int := (tn.toNat : Int) - s.clk.counter
    let small : Prop := c.natAbs ≤ s.rst.inForce.schedule.stepLimit
    ∃ t, exec (.setTime tn) s = .next t
      ∧ t.clk.counter = tn.toNat ∧ t.clk.prescaler = 0 ∧ t.clk.lastSet = some tn.toNat ∧ t.clk.valid = true
      ∧ t.clk.secondLen = secondLength tn.toNat t.clk.trim
      ∧ (∀ l, small → s.clk.lastSet = some l → l + 3600 ≤ s.clk.counter →
          t.clk.trim = max (-255) (min 255 (s.clk.trim + driftDelta c (s.clk.counter - l))))
      ∧ ((¬ small ∨ s.clk.lastSet = none ∨ ∃ l, s.clk.lastSet = some l ∧ s.clk.counter < l + 3600) →
          t.clk.trim = s.clk.trim)
      ∧ t.pln.snapshot.isSome = true
      ∧ (s.pln.snapshot.isSome = true → t.pln.stale = true ∧ t.rep.notices = if small then s.rep.notices else
          (s.post ⟨.timeStepped, none, max (-32767) (min 32767 c), tn.toNat, s.clk.counter, s.clk.trim⟩).rep.notices)
      ∧ s.CommandFrame t e.code 0x04 .ok

/-! ### The flash path -/

/-- While the K240 owns the path, every SoC selection is dropped: FFh for each byte read, nothing to the flash, and
LEND_VIOLATION in START-UP and RUN (R154). A window command and INVALID_COMMAND are such selections where the class table gives
a PROGRAM code, with no byte read; without one they cannot be sent. The rows of one served byte, which the window does not
answer then, change nothing (log 2, 32). -/
def Obligations.SelectionsDroppedWhileOwned : Prop :=
  ∀ s : State, s.pins.vdd = true → s.fpx.owner = .k240 →
    let idle : State := { s with ports := ⟨[], []⟩ }
    let dropped := fun (n : Nat) => ({ s with
        ports := ⟨List.replicate n (some 0xFF), []⟩
        rep := { s.rep with sticky :=
          if s.pwc.power = .startUp ∨ s.pwc.power = .run then s.rep.sticky ||| 0x0080 else s.rep.sticky } } : State)
    (∀ i sel, selectionOf i = some sel → exec i s = .next (dropped sel.reads))
    ∧ (∀ e, s.fpx.classTable.firstOf .program = some e →
      (∀ c : Command, exec c.row s = .next (dropped 0))
      ∧ (∀ offset sent, exec (.invalidCommand offset sent) s = .next (dropped 0)))
    ∧ (s.fpx.classTable.firstOf .program = none →
      (∀ c : Command, exec c.row s = .next idle) ∧ (∀ offset sent, exec (.invalidCommand offset sent) s = .next idle))
    ∧ exec .clockLatchRead s = .next idle ∧ exec .replanToggleRead s = .next idle

/-- While the K240 owns the path and VDD is present, no command of the part puts a SoC instruction on the flash port, forwarded
or cut (law 10; R154). -/
def Obligations.OwnedPathCarriesNoSocInstruction : Prop :=
  ∀ (i : Instr) (s t : State), s.fpx.owner = .k240 → s.pins.vdd = true → exec i s = .next t →
    ∀ op ∈ t.ports.flash, ∀ code, op ≠ .forward code ∧ op ≠ .cut code

/-- What FPX does not decode is forwarded with no effect but the disarming of the reset arm: while DETACHED, every selection
that is not a counted RESET_ARM or RESET (R150); while ATTACHED, a code the class table does not list, OTHER (R141). -/
def Obligations.UndecodedSelectionsPassThrough : Prop :=
  (∀ (s : State) (i : Instr) (sel : Selection), s.pins.vdd = true → s.fpx.owner = .soc → s.fpx.attached = false →
     selectionOf i = some sel →
     (sel.counted = false ∨ (¬ s.classIs sel.code .resetArm ∧ ¬ s.classIs sel.code .reset)) →
     exec i s = .next (s.passed sel.code (sel.response.map some ++ List.replicate sel.count none)))
  ∧ (∀ (s : State) (i : Instr) (sel : Selection), s.Listening → selectionOf i = some sel →
     s.fpx.classTable.classOf sel.code = none →
     exec i s = .next (s.passed sel.code (sel.response.map some ++ List.replicate sel.count none)))

/-- The counted instructions of one code: WRITE_ENABLE and WRITE_DISABLE (R142), RESET_ARM (R148), POWER_DOWN and RELEASE
(R149), DETACHING (R150). An instruction without phases whose selection does not end directly after its code is forwarded and
not counted (R141). A counted SUSPEND keeps the in-flight write with the time its deadline had to run; a counted RESUME brings
it back with that time from now; each has no effect where its places are not free (R147). While DETACHED a counted RESET_ARM
still arms, for the RESET that re-attaches (R148, R150). -/
def Obligations.CountedCodesActOnTheReplicas : Prop :=
  (∀ (s : State) (code : Byte), s.Listening →
     let p := s.passed code []
     (s.classIs code .writeEnable → exec (.writeEnable code true) s = .next { p with fpx := { p.fpx with wel := true } })
     ∧ (s.classIs code .writeDisable → exec (.writeDisable code true) s = .next { p with fpx := { p.fpx with wel := false } })
     ∧ (s.classIs code .resetArm → exec (.resetArm code true) s = .next { p with fpx := { p.fpx with resetArm := true } })
     ∧ (s.classIs code .powerDown → exec (.powerDown code true) s = .next { p with fpx := { p.fpx with asleep := true } })
     ∧ (s.classIs code .release → exec (.release code true) s = .next { p with fpx := { p.fpx with asleep := false } })
     ∧ (s.classIs code .detaching → exec (.detaching code true) s = .next
         { p with fpx := { p.fpx with attached := false, wel := false, inFlight := none, suspended := none } }))
  ∧ (∀ (s : State) (code : Byte) (c : InstrClass), s.Listening → s.classIs code c →
     c ∈ [InstrClass.writeEnable, .writeDisable, .suspend, .resume, .resetArm, .reset, .powerDown, .release, .detaching] →
     ∀ i ∈ [Instr.writeEnable code false, .writeDisable code false, .suspend code false, .resume code false,
         .resetArm code false, .flashReset code false, .powerDown code false, .release code false, .detaching code false],
       exec i s = .next (s.passed code []))
  ∧ (∀ (s : State) (code : Byte), s.Listening →
    let p := s.passed code []
    (s.classIs code .suspend →
      (∀ w, s.fpx.inFlight = some w → s.fpx.suspended = none → exec (.suspend code true) s = .next
        { p with fpx := { p.fpx with
          inFlight := none, suspended := some ⟨w.kind, w.range, w.deadline - s.clk.crystal⟩ } })
      ∧ (s.fpx.inFlight = none ∨ s.fpx.suspended ≠ none → exec (.suspend code true) s = .next p))
    ∧ (s.classIs code .resume →
      (∀ w, s.fpx.inFlight = none → s.fpx.suspended = some w → exec (.resume code true) s = .next
        { p with fpx := { p.fpx with
          inFlight := some ⟨w.kind, w.range, s.clk.crystal + w.remaining⟩, suspended := none } })
      ∧ (s.fpx.inFlight ≠ none ∨ s.fpx.suspended = none → exec (.resume code true) s = .next p)))
  ∧ (∀ (s : State) (code : Byte), s.pins.vdd = true → s.fpx.owner = .soc → s.fpx.attached = false → s.classIs code .resetArm →
    let p := s.passed code []
    exec (.resetArm code true) s = .next { p with fpx := { p.fpx with resetArm := true } })

/-- A counted RESET is taken only when armed (R148): the replicas are cleared, the tracked writes leave the tracker and their
sectors join the verify set, the flash is awake and the part ATTACHED, and on a re-attachment every watched sector joins (R150).
The guard and the owner stay. -/
def Obligations.FlashResetTakenWhenArmed : Prop :=
  ∀ (s : State) (code : Byte), s.pins.vdd = true → s.fpx.owner = .soc → s.classIs code .reset →
    (s.fpx.resetArm = false → exec (.flashReset code true) s = .next (s.passed code []))
    ∧ (s.fpx.resetArm = true → ∃ t, exec (.flashReset code true) s = .next t
        ∧ t.ports = ⟨[], [.forward code]⟩ ∧ t.fpx.wel = false ∧ t.fpx.resetArm = false ∧ t.fpx.inFlight = none
        ∧ t.fpx.suspended = none ∧ t.fpx.asleep = false ∧ t.fpx.attached = true ∧ t.fpx.guard = s.fpx.guard
        ∧ t.fpx.owner = .soc ∧ t.rst.anchor = s.rst.anchor ∧ t.rst.schedule = s.rst.schedule
        ∧ (∀ x, x ∈ t.rst.verify ↔ x ∈ s.rst.verify
            ∨ (∃ w, s.fpx.inFlight = some w ∧ x ∈ s.sectorsMeeting w.range)
            ∨ (∃ w, s.fpx.suspended = some w ∧ x ∈ s.sectorsMeeting w.range)
            ∨ (s.fpx.attached = false ∧ x ∈ s.watchedSectors)))

/-- A PROGRAM accepted outside the watched partitions, and an accepted WRITE_STATUS: the write is in flight with its deadline
two seconds on, and the WEL replica is clear (R142, R144, R145). -/
def Obligations.AcceptedWriteEntersTheTracker : Prop :=
  ∀ (s : State) (code : Byte), s.Listening →
    let p := s.passed code []
    (∀ (addr : FlashAddr) (data : List Byte), s.classIs code .program → s.inWindow addr.toNat = false →
        (s.fpx.guard = false ∨ s.inAnchor addr.toNat = false) →
        let r : FlashRange := ⟨pageOf addr.toNat, 256⟩
        data ≠ [] → s.fpx.accepts .program r true = true → s.meetsMirror r = false → s.meetsGuide r = false →
        exec (.program code addr data true) s = .next
          { p with fpx := { p.fpx with wel := false, inFlight := some ⟨.program, r, s.clk.crystal + 65536⟩ } })
    ∧ (∀ data : List Byte, s.classIs code .writeStatus → data ≠ [] → s.fpx.accepts .writeStatus ⟨0, 0⟩ true = true →
        exec (.writeStatus code data true) s = .next
          { p with fpx := { p.fpx with wel := false, inFlight := some ⟨.writeStatus, ⟨0, 0⟩, s.clk.crystal + 65536⟩ } })

/-- A PROGRAM accepted into the schedule partition or the anchor ANDs each applied byte into its mirror byte and changes no
other byte of either mirror (R1, R2; law 12): the address of a stored byte is the page's mirror offset plus its offset in the
page, and of more than 256 bytes the last 256 are applied. -/
def Obligations.AcceptedProgramAndsIntoTheMirror : Prop :=
  ∀ (s : State) (code : Byte) (addr : FlashAddr) (data : List Byte), s.Listening → s.MirrorsCanonical →
    s.classIs code .program → s.inWindow addr.toNat = false →
    (s.fpx.guard = false ∨ s.inAnchor addr.toNat = false) → data ≠ [] →
    let page := pageOf addr.toNat
    let stored := fun (base a : Nat) => ((appliedBytes addr.toNat data).filter fun p => page - base + p.1 = a).map Prod.snd
    s.fpx.accepts .program ⟨page, 256⟩ true = true →
    ∃ t, exec (.program code addr data true) s = .next t
      ∧ t.fpx.wel = false ∧ t.fpx.resetArm = false
      ∧ t.fpx.inFlight = some ⟨.program, ⟨page, 256⟩, s.clk.crystal + 65536⟩
      ∧ t.ports = ⟨[], [.forward code]⟩ ∧ t.pins = s.pins ∧ t.pwc = s.pwc ∧ t.clk.counter = s.clk.counter
      ∧ (sectorOf page = s.anchorBase → t.rst.schedule = s.rst.schedule
          ∧ ∀ a, t.rst.anchor.read a = (stored s.anchorBase a).foldl (· &&& ·) (s.rst.anchor.read a))
      ∧ (∀ base, s.scheduleBase = some base → base ≤ page → page < base + 65536 → sectorOf page ≠ s.anchorBase →
          t.rst.anchor = s.rst.anchor
          ∧ ∀ a, t.rst.schedule.read a = (stored base a).foldl (· &&& ·) (s.rst.schedule.read a))
      ∧ (s.meetsMirror ⟨page, 256⟩ = false → t.rst.anchor = s.rst.anchor ∧ t.rst.schedule = s.rst.schedule)

/-- An erase accepted sets every mirror byte of its range to FFh and no other (R3), removes the matched entries of its range
(R36), and is in flight for its kind's time (R145): ERASE_SECTOR 2 s, ERASE_BLOCK 8 s, ERASE_CHIP 400 s. -/
def Obligations.AcceptedEraseBlanksItsRange : Prop :=
  ∀ (s : State) (code : Byte) (addr : FlashAddr), s.Listening →
    ∀ (i : Instr) (cls : InstrClass) (kind : WriteKind) (r : FlashRange) (seconds : Nat),
      ((i = .eraseSector code addr true ∧ cls = .eraseSector ∧ kind = .eraseSector ∧ r = ⟨sectorOf addr.toNat, 4096⟩
          ∧ seconds = 2 ∧ s.inWindow addr.toNat = false ∧ (s.fpx.guard = false ∨ s.inAnchor addr.toNat = false))
        ∨ (i = .eraseBlock code addr true ∧ cls = .eraseBlock ∧ kind = .eraseBlock ∧ r = ⟨blockOf addr.toNat, 65536⟩
          ∧ seconds = 8 ∧ s.inWindow addr.toNat = false
          ∧ (s.fpx.guard = false ∨ blockOf addr.toNat ≠ s.pins.fsize.anchorBlock))
        ∨ (i = .eraseChip code true ∧ cls = .eraseChip ∧ kind = .eraseChip ∧ r = ⟨0, s.pins.fsize.bytes⟩
          ∧ seconds = 400 ∧ s.fpx.guard = false)) →
      s.classIs code cls → s.fpx.accepts kind r true = true →
      ∃ t, exec i s = .next t
        ∧ t.fpx.wel = false ∧ t.fpx.resetArm = false
        ∧ t.fpx.inFlight = some ⟨kind, r, s.clk.crystal + seconds * 32768⟩
        ∧ t.ports = ⟨[], [.forward code]⟩ ∧ t.pins = s.pins ∧ t.pwc = s.pwc ∧ t.clk.counter = s.clk.counter
        ∧ (∀ a, a < 4096 → t.rst.anchor.read a =
            if r.lo ≤ s.anchorBase + a ∧ s.anchorBase + a < r.lo + r.len then 0xFF else s.rst.anchor.read a)
        ∧ (∀ base, s.scheduleBase = some base → ∀ a, a < 65536 → t.rst.schedule.read a =
            if r.lo ≤ base + a ∧ base + a < r.lo + r.len then 0xFF else s.rst.schedule.read a)
        ∧ (s.meetsGuide r = true → ∀ e ∈ t.gmx.entries, ¬ (r.lo ≤ e.slot ∧ e.slot < r.lo + r.len))

/-- A write that is not accepted is forwarded all the same, handed to no block, and leaves the tracker and the replica as they
were (R143, R144); among them an erase whose selection runs on past its third address byte, as a READ row with an erase code and
data to read does (R141; log 30). A status response with the busy bit clear takes the in-flight write off the tracker; nothing
else follows (R145). -/
def Obligations.UnacceptedWritesAndStatusReads : Prop :=
  (∀ (s : State) (code : Byte) (addr : FlashAddr) (data : List Byte) (whole : Bool), s.Listening →
    let p := s.passed code []
    (s.classIs code .program → s.inWindow addr.toNat = false → (s.fpx.guard = false ∨ s.inAnchor addr.toNat = false) →
      s.fpx.accepts .program ⟨pageOf addr.toNat, 256⟩ (whole && !data.isEmpty) = false →
      exec (.program code addr data whole) s = .next p)
    ∧ (s.classIs code .eraseSector → s.inWindow addr.toNat = false →
      (s.fpx.guard = false ∨ s.inAnchor addr.toNat = false) →
      s.fpx.accepts .eraseSector ⟨sectorOf addr.toNat, 4096⟩ whole = false →
      exec (.eraseSector code addr whole) s = .next p)
    ∧ (s.classIs code .eraseBlock → s.inWindow addr.toNat = false →
      (s.fpx.guard = false ∨ blockOf addr.toNat ≠ s.pins.fsize.anchorBlock) →
      s.fpx.accepts .eraseBlock ⟨blockOf addr.toNat, 65536⟩ whole = false →
      exec (.eraseBlock code addr whole) s = .next p)
    ∧ (s.classIs code .eraseChip → s.fpx.guard = false →
      s.fpx.accepts .eraseChip ⟨0, s.pins.fsize.bytes⟩ whole = false → exec (.eraseChip code whole) s = .next p)
    ∧ (s.classIs code .writeStatus → s.fpx.accepts .writeStatus ⟨0, 0⟩ (whole && !data.isEmpty) = false →
      exec (.writeStatus code data whole) s = .next p)
    ∧ (∀ n, 0 < n → s.inWindow addr.toNat = false →
      (s.classIs code .eraseSector → (s.fpx.guard = false ∨ s.inAnchor addr.toNat = false) →
        exec (.read code addr n) s = .next (s.passed code (List.replicate n none)))
      ∧ (s.classIs code .eraseBlock → (s.fpx.guard = false ∨ blockOf addr.toNat ≠ s.pins.fsize.anchorBlock) →
        exec (.read code addr n) s = .next (s.passed code (List.replicate n none)))))
  ∧ (∀ (s : State) (code : Byte) (response : List Byte), s.Listening → s.classIs code .readStatus →
    let p := s.passed code (response.map some)
    exec (.readStatus code response) s = .next
      { p with fpx := { p.fpx with inFlight :=
        if (response.any fun b => !b.getLsbD s.fpx.classTable.busyBit) = true then none else s.fpx.inFlight } })

/-- With the anchor guard on, a write aimed at the anchor is cancelled: the flash discards it, GUARD_BLOCKED is posted with the
class and the address (FFFFFFFFh for ERASE_CHIP), and nothing else changes (R153). That this holds of a selection that would not
be accepted as well, without data, off a byte boundary or running on, is the model's reading of log 31. -/
def Obligations.GuardCancelsAnchorWrites : Prop :=
  ∀ (s : State) (code : Byte) (addr : FlashAddr) (data : List Byte) (whole : Bool), s.Listening → s.fpx.guard = true →
    let p : State := { s with ports := ⟨[], [.cut code]⟩, fpx := { s.fpx with resetArm := false } }
    let blocked := fun (cls : Int) (ref : Nat) => p.post ⟨.guardBlocked, none, cls, s.clk.counter, ref, 0⟩
    (s.classIs code .program → s.inWindow addr.toNat = false → sectorOf addr.toNat = s.anchorBase →
      exec (.program code addr data whole) s = .next (blocked 0x03 addr.toNat))
    ∧ (s.classIs code .eraseSector → s.inWindow addr.toNat = false → sectorOf addr.toNat = s.anchorBase →
      exec (.eraseSector code addr whole) s = .next (blocked 0x04 addr.toNat))
    ∧ (s.classIs code .eraseBlock → s.inWindow addr.toNat = false → blockOf addr.toNat = s.pins.fsize.anchorBlock →
      exec (.eraseBlock code addr whole) s = .next (blocked 0x05 addr.toNat))
    ∧ (s.classIs code .eraseChip → exec (.eraseChip code whole) s = .next (blocked 0x06 0xFFFFFFFF))

/-- A READ or FAST_READ in the window serves the bytes of its offsets from the state as it stands, FFh past the last offset, and
changes nothing but what it passes over (R151, R159): the latch takes the upper bytes of the counter at its low byte (R160), and
the toggle is inverted, before it is served, while a replan is RUNNING (R161). The bytes are those of 11.2, field by field in
the order of its tables: the command page, the status header, the tuner records, each place of the notice queue, the plan table
and the clash list, and FFh for every other byte (R160, R182, R183; bits 1 to 7 of a clash record's flags are 0 by log 50; the
aux of a notice is 32-bit two's complement by log 22). -/
def Obligations.WindowReadServesLiveState : Prop :=
  (∀ (s : State) (code : Byte) (addr : FlashAddr) (n : Nat), s.Listening →
    (s.classIs code .read ∨ s.classIs code .fastRead) → s.inWindow addr.toNat = true →
    let off := addr.toNat % 65536
    let u := s.passedOver off n
    exec (.read code addr n) s = .next
      { u with
        ports := ⟨(List.range n).map fun i => some (if off + i < 65536 then u.windowByte (off + i) else 0xFF), [.cut code]⟩
        fpx := { s.fpx with resetArm := false } })
  ∧ ∀ s : State,
    let bytes := fun (off n : Nat) => (List.range n).map fun i => s.windowByte (off + i)
    let blank := fun (n : Nat) => List.replicate n (0xFF : Byte)
    let flag := fun (b : Bool) => if b then (0x01 : Byte) else 0x00
    let record := fun (r : TunerRec) =>
      [r.state.byte] ++ optBytes 1 r.feed ++ optBytes 2 r.multiplex ++ leBytes 1 r.streams ++ [flag r.viewer.isSome]
        ++ optBytes 2 r.viewer ++ blank 8
    bytes 0x0000 0x100 = [s.rep.lastCode, s.rep.lastResult, s.rep.lastCounter] ++ blank 0xFD
    ∧ bytes 0x0100 0x100 =
        [0x40, 0x02, 0x01, s.pwc.power.byte, flag (!s.fpx.attached), flag (s.fpx.owner = .k240)]
          ++ leBytes 2 s.flagSet.toNat ++ leBytes 2 s.rep.mask.toNat
          ++ leBytes 1 s.clk.counter ++ leBytes 3 s.rep.latch.toNat ++ [flag s.clk.valid] ++ intBytes 2 s.clk.trim
          ++ [if s.pln.toggle then 0xFF else 0x00] ++ leBytes 4 s.pln.generation.toNat ++ leBytes 1 s.rep.notices.length
          ++ leBytes 2 s.pln.plan.deferred ++ leBytes 2 s.pln.plan.overCount ++ [flag s.pln.plan.truncated] ++ blank 0xE4
    ∧ bytes 0x0200 0x20 = record s.tun.a ++ record s.tun.b
    ∧ (∀ i, i < 32 → bytes (0x0400 + 16 * i) 16 = match s.rep.notices[i]? with
        | some n => [n.kind.byte, tunerByte n.tuner] ++ intBytes 2 n.detail ++ leBytes 4 n.time ++ leBytes 4 n.ref ++ intBytes 4 n.aux
        | none => blank 16)
    ∧ (∀ i, i < 256 → bytes (0x1000 + 32 * i) 32 = match s.pln.plan.entries[i]? with
        | some e => leBytes 4 e.ref ++ [e.status.byte, tunerByte e.tuner] ++ leBytes 2 e.service ++ leBytes 4 e.wstart
            ++ leBytes 4 e.wend ++ leBytes 4 e.cstart ++ leBytes 4 e.cend ++ optBytes 3 e.showing
            ++ [BitVec.ofNat 8 (e.part % 16 + 16 * (e.partCount % 16))] ++ leBytes 4 e.generation.toNat
        | none => blank 32)
    ∧ (∀ i, i < 128 → bytes (0x3000 + 32 * i) 32 = match s.pln.plan.clashes[i]? with
        | some c => leBytes 4 c.ref ++ leBytes 4 c.wstart ++ leBytes 3 (c.cend - c.wstart) ++ [flag c.more]
            ++ optBytes 4 c.opponents[0]? ++ optBytes 4 c.opponents[1]? ++ optBytes 4 c.opponents[2]?
            ++ optBytes 4 c.opponents[3]? ++ leBytes 4 c.generation.toNat
        | none => blank 32)
    ∧ (∀ off, (0x0220 ≤ off ∧ off < 0x0400) ∨ (0x0600 ≤ off ∧ off < 0x1000) ∨ 0x4000 ≤ off → s.windowByte off = 0xFF)

/-- A READ of four bytes from the counter's low byte returns the counter as it stands, little-endian, and leaves its upper bytes
in the latch (R104, R160); CLOCK_LATCH_READ's single byte, a reading of that row by the model (log 32), does the same for the
low byte. REPLAN_TOGGLE_READ inverts the toggle first while a replan is RUNNING, and serves it unchanged while IDLE (R85, R161).
-/
def Obligations.ClockLatchAndToggleReads : Prop :=
  (∀ (s : State) (code : Byte) (addr : FlashAddr), s.Listening →
     let latched : State := { s with
       fpx := { s.fpx with resetArm := false }
       rep := { s.rep with latch := BitVec.ofNat 24 (s.clk.counter / 256) } }
     ((s.classIs code .read ∨ s.classIs code .fastRead) → s.inWindow addr.toNat = true → addr.toNat % 65536 = 0x10A →
       exec (.read code addr 4) s = .next
         { latched with ports := ⟨(leBytes 4 s.clk.counter).map some, [.cut code]⟩ })
     ∧ exec .clockLatchRead s = .next { latched with ports := ⟨[some (byteOf s.clk.counter 0)], []⟩ })
  ∧ (∀ s : State, s.Listening →
     let b := if s.pln.snapshot.isSome then !s.pln.toggle else s.pln.toggle
     exec .replanToggleRead s = .next
       { s with
         ports := ⟨[some (if b then 0xFF else 0x00)], []⟩
         fpx := { s.fpx with resetArm := false }
         pln := { s.pln with toggle := b } })

/-- A READ that ends before the window is forwarded, and the flash drives its bytes; one that reaches the window gets the
window's bytes from offset 0 on, with what it passes over there changed as by a read of the window (R151, R160, R161). -/
def Obligations.OutsideReadPassesToTheFlash : Prop :=
  ∀ (s : State) (code : Byte) (addr : FlashAddr) (n : Nat), s.Listening →
    (s.classIs code .read ∨ s.classIs code .fastRead) → s.inWindow addr.toNat = false →
    (n ≤ s.beforeWindow addr.toNat →
      exec (.read code addr n) s = .next (s.passed code (List.replicate n none)))
    ∧ (∀ k, n = s.beforeWindow addr.toNat + k →
      let u := s.passedOver 0 k
      exec (.read code addr n) s = .next (u.passed code (List.replicate (s.beforeWindow addr.toNat) none
        ++ (List.range k).map fun i => some (u.windowByte i))))

/-- A post joins the queue's newest place; into a queue of 32 the oldest notice goes first and NOTICE_LOST is raised (R163).
ATTN is high exactly while a flag numbered 0 to 11 is set in the flag set and in the mask; the eight sticky flags read as they
were raised, the four following flags read their conditions (R165, R166), and bits 12 to 15 read 0 while no bit but the sticky
flags' is raised (log 50), which every step keeps. -/
def Obligations.PostsAndAttentionFollowTheQueue : Prop :=
  (∀ (s : State) (n : Notice),
     (s.rep.notices.length < 32 → s.post n = { s with rep := { s.rep with notices := s.rep.notices ++ [n] } })
     ∧ (32 ≤ s.rep.notices.length → s.post n = { s with rep := { s.rep with
         notices := s.rep.notices.drop 1 ++ [n], sticky := s.rep.sticky ||| 0x0002 } }))
  ∧ (∀ s : State,
     (s.attn = true ↔ ∃ i, i < 12 ∧ s.flagSet.getLsbD i = true ∧ s.rep.mask.getLsbD i = true)
     ∧ (∀ i ∈ [1, 2, 3, 4, 7, 8, 10, 11], s.flagSet.getLsbD i = s.rep.sticky.getLsbD i)
     ∧ (s.StickyLaw → ∀ i, 12 ≤ i → s.flagSet.getLsbD i = false)
     ∧ (s.rep.sticky &&& 0x0261 = 0 →
         (s.flagSet.getLsbD 0 = true ↔ s.rep.notices ≠ [])
         ∧ (s.flagSet.getLsbD 5 = true ↔ s.rst.verify ≠ [] ∨ s.ser.scanRequest ≠ none)
         ∧ (s.flagSet.getLsbD 6 = true ↔ s.clk.valid = false)
         ∧ (s.flagSet.getLsbD 9 = true ↔ s.fpx.attached = false)))

/-! ### The window commands -/

/-- Every window command's bytes at offset 0 spell exactly that command (R167, R183). -/
def Obligations.CommandBytesSpellTheCommand : Prop :=
  ∀ c : Command, parseCommand 0 (encodeCommand c) = .command c ∧ (encodeCommand c).length ≤ 5
    ∧ (encodeCommand c).head? = some (commandCode c)

/-- A program of a command's bytes at the window base is the command's row: it needs no WRITE_ENABLE, and trailing clocks are
dropped (R152, R167). A program beyond the window's first page, and an erase addressed to the window, are absorbed and ignored
(R152). A read, a program or an addressed erase that ends inside its address is withdrawn from the flash once its second address
byte has followed a first that names the window block (R151, R152), and is forwarded otherwise (part-way through a byte: log 62);
it has no other effect. -/
def Obligations.WindowProgramsAreCommandsOrIgnored : Prop :=
  (∀ (s : State) (e : ClassEntry) (c : Command) (whole : Bool), s.Listening → s.fpx.classTable.firstOf .program = some e →
     s.fpx.classTable.entryOf e.code = some e → s.rst.inForce.layout.window % 65536 = 0 →
     s.rst.inForce.layout.window < 16777216 →
     exec (.program e.code (BitVec.ofNat 24 s.rst.inForce.layout.window) (encodeCommand c) whole) s = exec c.row s)
  ∧ (∀ (s : State) (code : Byte) (addr : FlashAddr) (data : List Byte) (whole : Bool), s.Listening →
     s.inWindow addr.toNat = true →
     let p : State := { s with ports := ⟨[], [.cut code]⟩, fpx := { s.fpx with resetArm := false } }
     (s.classIs code .program → 256 ≤ addr.toNat % 65536 → exec (.program code addr data whole) s = .next p)
     ∧ (s.classIs code .eraseSector → exec (.eraseSector code addr whole) s = .next p)
     ∧ (s.classIs code .eraseBlock → exec (.eraseBlock code addr whole) s = .next p))
  ∧ (∀ (s : State) (code : Byte) (c : InstrClass) (sent : List Byte) (whole : Bool), s.Listening → s.classIs code c →
     c ∈ [InstrClass.read, .fastRead, .program, .eraseSector, .eraseBlock] →
     let p : State := { s with ports := ⟨[], [.cut code]⟩, fpx := { s.fpx with resetArm := false } }
     (∀ b b' : Byte, sent = [b, b'] →
       (b.toNat = s.rst.inForce.layout.window / 65536 → exec (.otherInstruction code sent whole) s = .next p)
       ∧ (b.toNat ≠ s.rst.inForce.layout.window / 65536 → exec (.otherInstruction code sent whole) s = .next (s.passed code [])))
     ∧ (sent.length < 2 → exec (.otherInstruction code sent whole) s = .next (s.passed code [])))

/-! ### Reads and the window pages -/

/-- The checks of R167 in their order: a wrong offset or more than 256 bytes is BAD_LENGTH under code FFh, an unlisted code
BAD_CODE, a wrong length BAD_LENGTH, and an argument out of range BAD_ARG (ACK_NOTICES of 0 or above 32, VIEW of 0 or FFFFh,
LEND of 0 or above 60000); the command is answered and has no other effect (R168). One that sent no byte is BAD_CODE; its
recorded code, which R167 leaves open, is a free value (log 6). -/
def Obligations.FailedChecksAreAnswered : Prop :=
  (∀ (s : State) (e : ClassEntry) (offset : Byte), s.Listening → s.fpx.classTable.firstOf .program = some e →
     (∀ sent, offset ≠ 0 ∨ 256 < sent.length →
       exec (.invalidCommand offset sent) s = .next (s.answered e.code 0xFF .badLength))
     ∧ (∀ code arg, (code :: arg).length ≤ 256 → (code = 0 ∨ 0x0E < code.toNat) →
       exec (.invalidCommand 0 (code :: arg)) s = .next (s.answered e.code code .badCode))
     ∧ (∀ code arg n, (code :: arg).length ≤ 256 → commandLength code = some n → (code :: arg).length ≠ n →
       exec (.invalidCommand 0 (code :: arg)) s = .next (s.answered e.code code .badLength))
     ∧ (∃ b, exec (.invalidCommand 0 []) s = .next (State.answered { s with freeCount := s.freeCount + 1 } e.code b .badCode)))
  ∧ (∀ (s : State) (e : ClassEntry), s.Listening → s.fpx.classTable.firstOf .program = some e →
     (∀ n : Byte, (n = 0 ∨ 32 < n.toNat) → exec (.ackNotices n) s = .next (s.answered e.code 0x01 .badArg))
     ∧ (∀ v : BitVec 16, (v = 0 ∨ v = 0xFFFF) → exec (.view v) s = .next (s.answered e.code 0x07 .badArg))
     ∧ (∀ ms : BitVec 16, (ms = 0 ∨ 60000 < ms.toNat) → exec (.lend ms) s = .next (s.answered e.code 0x0A .badArg)))

/-- ACK_NOTICES removes the oldest n notices and is answered OK, for n from 1 to 32; for any other n it is answered BAD_ARG and
removes nothing (R164). -/
def Obligations.AckNoticesRemovesTheOldest : Prop :=
  ∀ (s : State) (e : ClassEntry) (n : Byte), s.Listening → s.fpx.classTable.firstOf .program = some e →
    (1 ≤ n.toNat → n.toNat ≤ 32 → exec (.ackNotices n) s = .next
      (State.answered { s with rep := { s.rep with notices := s.rep.notices.drop n.toNat } } e.code 0x01 .ok))
    ∧ (n = 0 ∨ 32 < n.toNat → exec (.ackNotices n) s = .next (s.answered e.code 0x01 .badArg))

/-- CLEAR_FLAGS is answered OK, and after its completion clears the sticky flags its mask names, COMMAND_DONE among them; no
other bit changes (R170). -/
def Obligations.ClearFlagsFollowsItsCompletion : Prop :=
  ∀ (s : State) (e : ClassEntry) (mask : BitVec 16), s.Listening → s.fpx.classTable.firstOf .program = some e →
    ∃ t, exec (.clearFlags mask) s = .next t
      ∧ t = { s.answered e.code 0x02 .ok with rep := { (s.answered e.code 0x02 .ok).rep with sticky := t.rep.sticky } }
      ∧ ∀ i, t.rep.sticky.getLsbD i = ((s.rep.sticky.getLsbD i || decide (i = 3)) && !mask.getLsbD i)

/-- SET_ATTN_MASK takes every mask (R166); GUARD_ANCHOR sets the guard on (R153). RESCAN puts the anchor and every sector of the
schedule and guide partitions into the verify set, and no other (R171); the mirrors keep their bytes. -/
def Obligations.MaskGuardAndRescan : Prop :=
  (∀ (s : State) (e : ClassEntry), s.Listening → s.fpx.classTable.firstOf .program = some e →
    (∀ mask, exec (.setAttnMask mask) s = .next
      (State.answered { s with rep := { s.rep with mask := mask } } e.code 0x03 .ok))
    ∧ exec .guardAnchor s = .next (State.answered { s with fpx := { s.fpx with guard := true } } e.code 0x0D .ok))
  ∧ (∀ (s : State) (e : ClassEntry), s.Listening → s.fpx.classTable.firstOf .program = some e →
    ∃ t, exec .rescan s = .next t
      ∧ (∀ x, x ∈ t.rst.verify ↔ x ∈ s.rst.verify ∨ x ∈ s.watchedSectors)
      ∧ t.rst.anchor = s.rst.anchor ∧ t.rst.schedule = s.rst.schedule ∧ t.ports = ⟨[], [.cut e.code]⟩
      ∧ t.fpx.owner = s.fpx.owner ∧ t.pwc = s.pwc ∧ t.pins = s.pins ∧ t.clk.counter = s.clk.counter
      ∧ t.rep.lastCode = 0x0E ∧ t.rep.lastResult = 0x00 ∧ t.rep.counter = s.rep.counter + 1)

/-- REPLAN: NOT_NOW while time is UNSET; OK while it is VALID, setting the stale flag when a replan runs and starting one when
none does (R83, R88). -/
def Obligations.ReplanCommandTriggers : Prop :=
  ∀ (s : State) (e : ClassEntry), s.Listening → s.fpx.classTable.firstOf .program = some e →
    (s.clk.valid = false → exec .replan s = .next (s.answered e.code 0x0C .notNow))
    ∧ (s.clk.valid = true → s.pln.snapshot.isSome = true → exec .replan s = .next
        (State.answered { s with pln := { s.pln with stale := true } } e.code 0x0C .ok))
    ∧ (s.clk.valid = true → s.pln.snapshot = none → ∃ t sn, exec .replan s = .next t
        ∧ t.pln.snapshot = some sn ∧ sn.now = s.clk.counter ∧ sn.horizon = s.rst.inForce.schedule.horizon
        ∧ sn.services = s.rst.tables.services ∧ s.CommandFrame t e.code 0x0C .ok)

/-- CONFIRM_START: an active run becomes RECORDING and its deadline is dropped; a ref in the history is answered TOO_LATE, a
waiting one NOT_NOW, any other UNKNOWN_REF, with no other effect (R115). That a ref both in the history and waiting is answered
TOO_LATE is the model's reading of log 35. -/
def Obligations.ConfirmStartAnswersByRef : Prop :=
  ∀ (s : State) (e : ClassEntry) (ref : BitVec 32), s.Listening → s.fpx.classTable.firstOf .program = some e →
    (∀ r, s.runOf ref.toNat = some r → ∃ t, exec (.confirmStart ref) s = .next t
      ∧ (∃ r', t.runOf ref.toNat = some r' ∧ r' = { r with state := .recording, deadline := none })
      ∧ (∀ k, k ≠ ref.toNat → t.runOf k = s.runOf k) ∧ t.run.waiting = s.run.waiting ∧ t.run.history = s.run.history
      ∧ t.tun = s.tun ∧ t.rep.notices = s.rep.notices ∧ t.pln = s.pln ∧ s.CommandFrame t e.code 0x05 .ok)
    ∧ (s.runOf ref.toNat = none →
      let r : CmdResult := if (s.historyOf ref.toNat).isSome then .tooLate
        else if (s.waitingOf ref.toNat).isSome then .notNow else .unknownRef
      exec (.confirmStart ref) s = .next (s.answered e.code 0x05 r))

/-- REPORT_FAILURE: an active run ends FAILED at the counter, with its stream released, its history entry with the actual stop,
for a manual run its end state, its STOP notice and the blocked marks cleared; last come the replan trigger, whatever the
planner's state, and the completion (R103, R117, R118). Where it was the last run and a tuner change is deferred, that change
takes effect (R23; log 42). For a ref that is not active the answers are CONFIRM_START's, with no other effect (R117); that a
ref both in the history and waiting is answered TOO_LATE is the model's reading of log 35. -/
def Obligations.ReportFailureEndsTheRun : Prop :=
  ∀ (s : State) (e : ClassEntry) (ref : BitVec 32), s.Listening → s.fpx.classTable.firstOf .program = some e →
    (∀ r, s.runOf ref.toNat = some r → (s.rst.deferred = none ∨ ∃ x ∈ s.run.runs, x.ref ≠ r.ref) →
      ∃ u, exec (.reportFailure ref) s = .next ((u.trigger.complete 0x06 .ok).disarm)
        ∧ u.ports = ⟨[], [.cut e.code]⟩ ∧ s.RunWork u
        ∧ u.run.runs = s.run.runs.filter (fun x => x.ref ≠ r.ref)
        ∧ u.run.history = enterHistory s.run.history ⟨r.ref, .failed, some s.clk.counter, r.windowEnd⟩
        ∧ (∀ v, r.kind = .manual v → u.run.endStates = enterEndState s.run.endStates ⟨r.ref, v, .failed⟩)
        ∧ (∀ v o, r.kind = .series v o → u.run.endStates = s.run.endStates)
        ∧ u.run.waiting = s.run.waiting.map (fun w => { w with blocked := none })
        ∧ u.tun = s.tun.set r.tuner (s.tun.get r.tuner).releaseStream ∧ u.ser = s.ser
        ∧ u.rep.notices = (s.post ⟨.stop, some r.tuner, 4, s.clk.counter, r.ref, (r.actualStart : Nat)⟩).rep.notices)
    ∧ (∀ r g, s.runOf ref.toNat = some r → s.rst.deferred = some g → (∀ x ∈ s.run.runs, x.ref = r.ref) →
      ∃ t, exec (.reportFailure ref) s = .next t
        ∧ t.run.runs = [] ∧ t.rst.deferred = none ∧ t.rst.inForce = { s.rst.inForce with tuner := g }
        ∧ t.pln.snapshot.isSome = (s.clk.valid || s.pln.snapshot.isSome) ∧ s.CommandFrame t e.code 0x06 .ok)
    ∧ (s.runOf ref.toNat = none →
      let r : CmdResult := if (s.historyOf ref.toNat).isSome then .tooLate
        else if (s.waitingOf ref.toNat).isSome then .notNow else .unknownRef
      exec (.reportFailure ref) s = .next (s.answered e.code 0x06 r))

/-- KEEP_VIEWING: a waiting entry is DECLINED into the history, without an end time (log 51), a manual one with the end state
DECLINED, without a notice; the planner is triggered, whatever its state. A ref in the history as DECLINED is answered OK, and
the channels are reloaded as after every event (R111; log 34). A run, or an end other than DECLINED, is answered TOO_LATE, an
unknown ref UNKNOWN_REF (R122). That an entry is looked for among the waiting first, then among the runs, is the model's reading
of log 35. -/
def Obligations.KeepViewingDeclinesTheEntry : Prop :=
  ∀ (s : State) (e : ClassEntry) (ref : BitVec 32), s.Listening → s.fpx.classTable.firstOf .program = some e →
    (∀ w, s.waitingOf ref.toNat = some w →
      ∃ u, exec (.keepViewing ref) s = .next ((u.trigger.complete 0x09 .ok).disarm)
        ∧ u.ports = ⟨[], [.cut e.code]⟩ ∧ s.RunWork u
        ∧ u.run.waiting = s.run.waiting.filter (fun x => x.ref ≠ w.ref)
        ∧ u.run.history = enterHistory s.run.history ⟨w.ref, .declined, none, w.wend⟩
        ∧ (w.origin ≠ none → u.run.endStates = s.run.endStates)
        ∧ (∀ b, w.origin = none → s.booking w.ref = some b →
            u.run.endStates = enterEndState s.run.endStates ⟨w.ref, b.revision, .declined⟩)
        ∧ u.run.runs = s.run.runs ∧ u.tun = s.tun ∧ u.ser = s.ser ∧ u.rep = s.rep)
    ∧ (s.waitingOf ref.toNat = none → (s.runOf ref.toNat).isSome = true →
      exec (.keepViewing ref) s = .next (s.answered e.code 0x09 .tooLate))
    ∧ (∀ h, s.waitingOf ref.toNat = none → s.runOf ref.toNat = none → s.historyOf ref.toNat = some h →
      (h.outcome = .declined → exec (.keepViewing ref) s = .next (s.reloadRunChannels.answered e.code 0x09 .ok))
      ∧ (h.outcome ≠ .declined → exec (.keepViewing ref) s = .next (s.answered e.code 0x09 .tooLate)))
    ∧ (s.waitingOf ref.toNat = none → s.runOf ref.toNat = none → s.historyOf ref.toNat = none →
      exec (.keepViewing ref) s = .next (s.answered e.code 0x09 .unknownRef))

/-- VIEW of a service: refused with NO_SERVICE when the table has none, with NO_TUNER when no tuner can show it, the hold kept;
else granted, so that exactly the chosen tuner shows it, on the service's multiplex and, taken from IDLE or from another
multiplex, its feed group, with VIEW_GRANTED; a new hold ends in a replan trigger, whatever the planner's state (R131, R132).
The tuner is the first that meets R131's two conditions in their order, judged with the viewer's hold released (R131; a waiting
entry whose service is unknown does not count, log 25). VIEW_END: without a hold nothing changes; with one, the hold is
released, the warned list emptied, the blocked marks cleared and the planner triggered, without a notice (R133). -/
def Obligations.ViewerHoldIsGrantedAndReleased : Prop :=
  (∀ (s : State) (e : ClassEntry) (v : BitVec 16), s.Listening → s.fpx.classTable.firstOf .program = some e →
     v ≠ 0 → v ≠ 0xFFFF →
     (s.service v.toNat = none → exec (.view v) s = .next
       ((s.post ⟨.viewRefused, none, 1, s.clk.counter, v.toNat, 0⟩).answered e.code 0x07 .ok))
     ∧ (∀ sv, s.service v.toNat = some sv → s.chooseView sv.multiplex sv.feed = none → exec (.view v) s = .next
       ((s.post ⟨.viewRefused, none, 2, s.clk.counter, v.toNat, 0⟩).answered e.code 0x07 .ok))
     ∧ (∀ sv T joined, s.service v.toNat = some sv → s.chooseView sv.multiplex sv.feed = some (T, joined) →
       let old := s.tun.get T
       let fresh := s.tun.viewerTuner ≠ some T
       ∃ u, exec (.view v) s = .next (((if fresh then u.trigger else u).complete 0x07 .ok).disarm)
         ∧ u.ports = ⟨[], [.cut e.code]⟩ ∧ s.RunWork u
         ∧ (u.tun.get T).viewer = some v.toNat ∧ (u.tun.get T).streams = old.streams
         ∧ (u.tun.get T).multiplex = some sv.multiplex
         ∧ (u.tun.get T).feed = (if old.streams = 0 ∧ old.multiplex ≠ some sv.multiplex then some sv.feed else old.feed)
         ∧ u.tun.get (otherTuner T) = (if s.tun.viewerTuner = some (otherTuner T)
             then (s.tun.get (otherTuner T)).releaseViewer else s.tun.get (otherTuner T))
         ∧ u.rep.notices = (s.post ⟨.viewGranted, some T, if joined then 1 else 2, s.clk.counter, v.toNat,
             (sv.multiplex : Nat)⟩).rep.notices
         ∧ u.ser = s.ser
         ∧ (fresh ∨ old.multiplex ≠ some sv.multiplex → u.tun.warned = []
             ∧ u.run = { s.run with waiting := s.run.waiting.map fun w => { w with blocked := none } })
         ∧ (¬ fresh → old.multiplex = some sv.multiplex → u.tun.warned = s.tun.warned ∧ u.run = s.run ∧ u.clk = s.clk)))
  ∧ (∀ (s : State) (m f : Nat),
     let g := s.rst.inForce.tuner
     let judged := fun (T : Tuner) => (s.tun.get T).releaseViewer
     let present := fun (T : Tuner) => g.mode = .single → T = .A
     let loopOk := fun (T : Tuner) => g.mode ≠ .twinLooped ∨ (judged (otherTuner T)).state = .idle
       ∨ (judged (otherTuner T)).feed = some f
     let joins := fun (T : Tuner) => present T ∧ (judged T).state ≠ .idle ∧ (judged T).multiplex = some m ∧ loopOk T
     let takes := fun (T : Tuner) => present T ∧ (judged T).state = .idle ∧ loopOk T
       ∧ ∀ w ∈ s.run.waiting, w.tuner = T → w.wstart ≤ min (s.clk.counter + s.rst.inForce.schedule.warningLead) 0xFFFFFFFF →
           ∀ sv, s.service w.service = some sv → sv.multiplex = m
     let first : Tuner := if s.tun.viewerTuner = some .B ∧ g.mode ≠ .single then .B else .A
     let second := otherTuner first
     let nowhere := fun (p : Tuner → Prop) => ∀ T, ¬ p T
     (joins first → s.chooseView m f = some (first, true))
     ∧ (¬ joins first → joins second → s.chooseView m f = some (second, true))
     ∧ (nowhere joins → takes first → s.chooseView m f = some (first, false))
     ∧ (nowhere joins → ¬ takes first → takes second → s.chooseView m f = some (second, false))
     ∧ (nowhere joins → nowhere takes → s.chooseView m f = none))
  ∧ (∀ (s : State) (e : ClassEntry), s.Listening → s.fpx.classTable.firstOf .program = some e →
     (s.tun.viewerTuner = none → exec .viewEnd s = .next (s.answered e.code 0x08 .ok))
     ∧ (∀ T, s.tun.viewerTuner = some T →
       ∃ u, exec .viewEnd s = .next ((u.trigger.complete 0x08 .ok).disarm)
         ∧ u.ports = ⟨[], [.cut e.code]⟩ ∧ s.RunWork u
         ∧ u.tun = { s.tun.set T (s.tun.get T).releaseViewer with warned := [] } ∧ (u.tun.get T).viewer = none
         ∧ u.run = { s.run with waiting := s.run.waiting.map fun w => { w with blocked := none } } ∧ u.ser = s.ser
         ∧ u.rep = s.rep))

/-- LEND of 1 to 60000 ms gives the K240 the path, with the lend timed from now; where the scan engine finds no workable sector
it ends DONE at once and the SoC keeps the path (R155). STANDBY is completed first; then the part is in STANDBY, or already in
DORMANT, and the K240 has the path (R171, R175, R176). -/
def Obligations.LendAndStandbyGiveThePath : Prop :=
  (∀ (s : State) (e : ClassEntry) (ms : BitVec 16), s.Listening → s.fpx.classTable.firstOf .program = some e →
     1 ≤ ms.toNat → ms.toNat ≤ 60000 → s.pwc.power = .run →
     let a := s.answered e.code 0x0A .ok
     (s.nextWork ≠ none → exec (.lend ms) s = .next
       { a with fpx := { a.fpx with
         owner := .k240, firstPoll := none, gaveUp := false, lend := some ⟨s.clk.crystal, ms.toNat, 0, false⟩ } })
     ∧ (s.nextWork = none → exec (.lend ms) s = .next
       (State.post { a with fpx := { a.fpx with owner := .soc, firstPoll := none, gaveUp := false, lend := none } }
         ⟨.lendDone, none, 1, s.clk.counter, s.sectorsLeft, 0⟩)))
  ∧ (∀ (s : State) (e : ClassEntry), s.Listening → s.fpx.classTable.firstOf .program = some e → s.fpx.lend = none →
     ∃ t, exec .standby s = .next t
       ∧ (t.pwc.power = .standby ∨ t.pwc.power = .dormant) ∧ t.fpx.owner = .k240 ∧ t.pwc.socrst = s.pwc.socrst
       ∧ t.rep = (s.answered e.code 0x0B .ok).rep ∧ t.run = s.run ∧ t.tun = s.tun ∧ t.rst = s.rst ∧ t.gmx = s.gmx
       ∧ t.pins = s.pins ∧ t.clk.counter = s.clk.counter ∧ t.pln = s.pln)

/-! ### Runs -/

/-- A start request's judgment (R129, R130): a grant under the five conditions, which evicts a viewer of another multiplex; a
refusal for the viewer only where the other tuner's lone viewer is what fails condition 5. -/
def Obligations.StreamGrantTakesFiveConditions : Prop :=
  ∀ (g : TunerGroup) (t : Tun) (T : Tuner) (m f : Nat),
    let r := t.get T
    let o := t.get (otherTuner T)
    let four : Prop := (g.mode = .single → T = .A) ∧ (r.streams = 0 ∨ r.multiplex = some m) ∧ r.streams < g.perTuner
      ∧ t.a.streams + t.b.streams < min g.total (g.perTuner * (if g.mode = .single then 1 else 2))
    let feedOk : Prop := g.mode ≠ .twinLooped ∨ o.state = .idle ∨ o.feed = some f
    (judgeRequest g t T m f = .granted ↔ four ∧ feedOk ∧ (r.viewer = none ∨ r.multiplex = some m))
    ∧ (judgeRequest g t T m f = .evicts ↔ four ∧ feedOk ∧ r.viewer ≠ none ∧ r.multiplex ≠ some m)
    ∧ (judgeRequest g t T m f = .refused .viewer ↔ four ∧ ¬ feedOk ∧ o.state = .view)
    ∧ (judgeRequest g t T m f = .refused .tuner ↔ ¬ four ∨ (¬ feedOk ∧ o.state ≠ .view))

/-- START_EVENT with one due entry (R112, R113): granted, the entry becomes a STARTING run on its tuner with the values of R112,
and START is posted; where the grant evicts the viewer, VIEW_LOST comes first, the tuner carries the run alone and the warned
list is emptied (R130); refused, or with its service gone from the table, it stays, blocked with the cause; past its window end,
it ends MISSED(LATE), a manual one with that end state (R118, R125). Each ends in the replan trigger, whatever the planner's
state, the reload of the channels (R111) and the test for DORMANT (R176). An entry past its window end on tuner B that SINGLE
mode has overtaken does not end (R111; for an event that had fired before, log 41). -/
def Obligations.StartEventTakesTheDueEntry : Prop :=
  ∀ (s : State) (T : Tuner) (ev : CompareEvent) (rest : List CompareEvent) (w : WaitingEntry), s.pins.vdd = true →
    takeFirst (.start T) s.clk.events = some (ev, rest) → s.run.dueStarts T ev.time = [w] → s.waitingOf w.ref = some w →
    let old := s.tun.get T
    let done := fun (u : State) => exec (.startEvent T) s = .next (u.trigger.reloadRunChannels.dormantTest)
      ∧ u.ports = ⟨[], []⟩ ∧ s.RunWork u
    let started := fun (u : State) (r : ActiveRun) (sv : ServiceRec) =>
      u.run = { s.run with runs := s.run.runs ++ [r], waiting := s.run.waiting.filter fun x => x.ref ≠ w.ref }
        ∧ r.ref = w.ref ∧ r.tuner = T ∧ r.service = w.service ∧ r.multiplex = sv.multiplex ∧ r.feed = sv.feed
        ∧ r.state = .starting ∧ r.actualStart = ev.time
        ∧ r.deadline = some (min (ev.time + s.rst.inForce.schedule.confirmTimeout) 0xFFFFFFFF)
        ∧ r.late = decide (r.recStart < ev.time) ∧ r.windowEnd = (s.windowEndOf r).getD w.wend
        ∧ (∀ b, w.origin = none → s.booking w.ref = some b →
            r.kind = .manual b.revision ∧ r.recStart = b.start ∧ r.recService = b.service)
        ∧ (∀ o v, w.origin = some o → s.effectiveEvent (w.ref - 0x80000000) = some v →
            r.kind = .series (w.ref - 0x80000000) o ∧ r.recStart = v.start ∧ r.recService = v.service)
        ∧ u.tun.get (otherTuner T) = s.tun.get (otherTuner T) ∧ u.ser = s.ser
    let start := fun (r : ActiveRun) =>
      (⟨.start, some T, if r.late then 1 else 0, ev.time, w.ref, (r.windowEnd : Nat)⟩ : Notice)
    (∀ sv, ev.time < w.wend → s.service w.service = some sv →
      judgeRequest s.rst.inForce.tuner s.tun T sv.multiplex sv.feed = .granted →
      ∃ u r, done u ∧ started u r sv ∧ u.tun.warned = s.tun.warned
        ∧ u.tun.get T = (if old.state = .idle then ⟨some sv.multiplex, some sv.feed, old.streams + 1, none⟩
            else { old with streams := old.streams + 1 })
        ∧ u.rep.notices = (s.post (start r)).rep.notices)
    ∧ (∀ sv v, ev.time < w.wend → s.service w.service = some sv → old.viewer = some v →
      judgeRequest s.rst.inForce.tuner s.tun T sv.multiplex sv.feed = .evicts →
      ∃ u r, done u ∧ started u r sv ∧ u.tun.warned = []
        ∧ u.tun.get T = ⟨some sv.multiplex, some sv.feed, old.streams + 1, none⟩
        ∧ u.rep.notices = ((s.post ⟨.viewLost, some T, 1, ev.time, w.ref, (v : Nat)⟩).post (start r)).rep.notices)
    ∧ (∀ cause, ev.time < w.wend →
      ((s.service w.service = none ∧ cause = .tuner)
        ∨ ∃ sv, s.service w.service = some sv
            ∧ judgeRequest s.rst.inForce.tuner s.tun T sv.multiplex sv.feed = .refused cause) →
      ∃ u, done u ∧ u.tun = s.tun ∧ u.ser = s.ser ∧ u.rep = s.rep
        ∧ u.run = { s.run with
            waiting := s.run.waiting.map (fun x => if x.ref = w.ref then { x with blocked := some cause } else x) })
    ∧ (w.wend ≤ ev.time → (s.rst.inForce.tuner.mode = .single → T = .A) →
      ∃ u, done u ∧ u.tun = s.tun ∧ u.ser = s.ser
        ∧ u.run.runs = s.run.runs ∧ u.run.waiting = s.run.waiting.filter (fun x => x.ref ≠ w.ref)
        ∧ u.run.history = enterHistory s.run.history ⟨w.ref, .missed .late, some ev.time, w.wend⟩
        ∧ (w.origin ≠ none → u.run.endStates = s.run.endStates)
        ∧ (∀ b, w.origin = none → s.booking w.ref = some b →
            u.run.endStates = enterEndState s.run.endStates ⟨w.ref, b.revision, .missed .late⟩)
        ∧ u.rep.notices = (s.post ⟨.missed, some T, 1, ev.time, w.ref, (w.wstart : Nat)⟩).rep.notices)
    ∧ (w.wend ≤ ev.time → s.rst.inForce.tuner.mode = .single → T = .B →
      exec (.startEvent T) s = .next (State.reloadRunChannels
        { s with ports := ⟨[], []⟩, clk := { s.clk with events := rest } }).dormantTest)

/-- STOP_EVENT, with a replan RUNNING and no blocked entry due, ends every run on its tuner whose window end has come, and no
other run (R116). Of one due run, whatever the planner's state: the outcome by its state and actual start, the history with the
actual stop, the STOP notice, the released stream, the cleared blocked marks, for a series run that ended COMPLETE or PARTIAL
its pending mark, for a manual run its end state, then the replan trigger (R55, R103, R118). Where it was the last run and a
tuner change is deferred, that change takes effect, with CONFIG_APPLIED and, in SINGLE mode, the release of a hold on B (R23,
R137; the order of the two notices is log 24, the moment log 42). With no due run and one blocked entry whose window end has
come, it ends that entry MISSED, for want of a tuner or for the viewer, as its last refusal says (R113; the entries taken are
those blocked when the event is taken, the model's choice of log 13); on tuner B that SINGLE mode has overtaken the entry stays
(R111; log 41). -/
def Obligations.StopEventEndsRunsAndBlockedEntries : Prop :=
  (∀ (s : State) (T : Tuner) (ev : CompareEvent) (rest : List CompareEvent), s.pins.vdd = true →
     takeFirst (.stop T) s.clk.events = some (ev, rest) → s.RunLaw → s.run.dueBlocked T ev.time = [] →
     (s.pln.snapshot.isSome = true → ∃ t, exec (.stopEvent T) s = .next t
       ∧ t.run.runs = s.run.runs.filter (fun x => !(x.tuner = T && x.windowEnd ≤ ev.time))
       ∧ t.rst.anchor = s.rst.anchor ∧ t.rst.schedule = s.rst.schedule ∧ t.fpx = s.fpx ∧ t.pwc = s.pwc ∧ t.pins = s.pins)
     ∧ ∀ r, s.run.dueStops T ev.time = [r] →
       let o : RunOutcome := if r.state = .starting then .missed .noConfirm
         else if r.actualStart ≤ r.recStart then .complete else .partly
       let stop : Notice := ⟨.stop, some T, o.detail, ev.time, r.ref, (r.actualStart : Nat)⟩
       ((s.rst.deferred = none ∨ ∃ x ∈ s.run.runs, x.ref ≠ r.ref) →
         ∃ u, exec (.stopEvent T) s = .next (u.trigger.reloadRunChannels.dormantTest)
           ∧ u.ports = ⟨[], []⟩ ∧ s.RunWork u
           ∧ u.run.runs = s.run.runs.filter (fun x => x.ref ≠ r.ref)
           ∧ u.run.history = enterHistory s.run.history ⟨r.ref, o, some ev.time, r.windowEnd⟩
           ∧ u.run.waiting = s.run.waiting.map (fun w => { w with blocked := none })
           ∧ u.tun = s.tun.set T (s.tun.get T).releaseStream ∧ u.rep.notices = (s.post stop).rep.notices
           ∧ (∀ v origin, r.kind = .series v origin → u.run.endStates = s.run.endStates
               ∧ u.ser.pendingMarks = if r.state = .recording
                   then enterPending s.rst.tables.marks s.ser.pendingMarks ⟨origin.key, r.ref⟩ else s.ser.pendingMarks)
           ∧ (∀ v, r.kind = .manual v → u.run.endStates = enterEndState s.run.endStates ⟨r.ref, v, o⟩
               ∧ u.ser.pendingMarks = s.ser.pendingMarks))
       ∧ (∀ g, s.rst.deferred = some g → s.run.runs = [r] → s.pln.snapshot.isSome = true →
         ∃ t, exec (.stopEvent T) s = .next t
           ∧ t.run.runs = [] ∧ t.rst.deferred = none ∧ t.rst.inForce = { s.rst.inForce with tuner := g } ∧ t.pln.stale = true
           ∧ (let applied := (s.post stop).post ⟨.configApplied, none, 2, s.clk.counter, s.configRef.1, (s.configRef.2 : Nat)⟩
              (g.mode ≠ .single ∨ s.tun.b.viewer = none → t.rep.notices = applied.rep.notices)
              ∧ (∀ v, g.mode = .single → s.tun.b.viewer = some v → t.tun.b.viewer = none ∧ t.tun.warned = []
                  ∧ t.rep.notices = (applied.post ⟨.viewLost, some .B, 2, s.clk.counter, 0xFFFFFFFF, (v : Nat)⟩).rep.notices))))
  ∧ (∀ (s : State) (T : Tuner) (ev : CompareEvent) (rest : List CompareEvent) (w : WaitingEntry) (cause : Cause),
     s.pins.vdd = true → takeFirst (.stop T) s.clk.events = some (ev, rest) → s.run.dueStops T ev.time = [] →
     (s.run.waiting.filter fun x => x.tuner = T && x.wend ≤ ev.time) = [w] →
     s.waitingOf w.ref = some w → w.blocked = some cause →
     let reason : MissReason := match cause with | .tuner => .noTuner | .viewer => .viewer
     ((s.rst.inForce.tuner.mode = .single → T = .A) →
       ∃ u, exec (.stopEvent T) s = .next (u.trigger.reloadRunChannels.dormantTest)
         ∧ u.ports = ⟨[], []⟩ ∧ s.RunWork u ∧ u.tun = s.tun ∧ u.ser = s.ser
         ∧ u.run.waiting = s.run.waiting.filter (fun x => x.ref ≠ w.ref) ∧ u.run.runs = s.run.runs
         ∧ u.run.history = enterHistory s.run.history ⟨w.ref, .missed reason, some ev.time, w.wend⟩
         ∧ (w.origin ≠ none → u.run.endStates = s.run.endStates)
         ∧ (∀ b, w.origin = none → s.booking w.ref = some b →
             u.run.endStates = enterEndState s.run.endStates ⟨w.ref, b.revision, .missed reason⟩)
         ∧ u.rep.notices = (s.post ⟨.missed, some T, reason.code, ev.time, w.ref, (w.wstart : Nat)⟩).rep.notices)
     ∧ (s.rst.inForce.tuner.mode = .single → T = .B →
       exec (.stopEvent T) s = .next (State.reloadRunChannels
         { s with ports := ⟨[], []⟩, clk := { s.clk with events := rest } }).dormantTest))

/-- CONFIRM_EVENT, with a replan RUNNING, ends every STARTING run whose confirm deadline has come MISSED(NO_CONFIRM), and no
other run (R115). Of one such run, whatever the planner's state: the history with the firing time as its actual stop, the
released stream, the STOP notice, for a manual run its end state, no pending mark, then the replan trigger (R103, R118). -/
def Obligations.ConfirmEventMissesUnconfirmedRuns : Prop :=
  ∀ (s : State) (ev : CompareEvent) (rest : List CompareEvent), s.pins.vdd = true →
    takeFirst .confirm s.clk.events = some (ev, rest) → s.RunLaw →
    (s.pln.snapshot.isSome = true → ∃ t, exec .confirmEvent s = .next t
      ∧ t.run.runs = s.run.runs.filter (fun x => !(x.state = .starting && x.deadline.any fun d => d ≤ ev.time))
      ∧ t.rst.anchor = s.rst.anchor ∧ t.rst.schedule = s.rst.schedule ∧ t.fpx = s.fpx ∧ t.pwc = s.pwc ∧ t.pins = s.pins)
    ∧ ∀ r, s.run.dueConfirms ev.time = [r] → (s.rst.deferred = none ∨ ∃ x ∈ s.run.runs, x.ref ≠ r.ref) →
      ∃ u, exec .confirmEvent s = .next (u.trigger.reloadRunChannels.dormantTest)
        ∧ u.ports = ⟨[], []⟩ ∧ s.RunWork u ∧ u.ser = s.ser
        ∧ u.run.runs = s.run.runs.filter (fun x => x.ref ≠ r.ref)
        ∧ u.run.history = enterHistory s.run.history ⟨r.ref, .missed .noConfirm, some ev.time, r.windowEnd⟩
        ∧ (∀ v, r.kind = .manual v → u.run.endStates = enterEndState s.run.endStates ⟨r.ref, v, .missed .noConfirm⟩)
        ∧ (∀ v o, r.kind = .series v o → u.run.endStates = s.run.endStates)
        ∧ u.run.waiting = s.run.waiting.map (fun w => { w with blocked := none })
        ∧ u.tun = s.tun.set r.tuner (s.tun.get r.tuner).releaseStream
        ∧ u.rep.notices = (s.post ⟨.stop, some r.tuner, 3 + 256 * 2, ev.time, r.ref, (r.actualStart : Nat)⟩).rep.notices

/-- WARN_EVENT: every threatened entry whose warning time has come is in the warned list afterwards; of one due entry,
HANDOVER_WARNING is posted with the viewer's tuner and the threat (R134, R135). WAKE_EVENT records the woken-for start; in
STANDBY with no wake under way it drives WAKE, times the 600 s deadline from the firing and posts WAKE_ISSUED; otherwise the
line and the notices stay (R179). The woken-for start is the one WAKE was loaded for, the model's choice of log 19. -/
def Obligations.WarnAndWakeEventsAreTaken : Prop :=
  (∀ (s : State) (ev : CompareEvent) (rest : List CompareEvent), s.pins.vdd = true →
     takeFirst .warn s.clk.events = some (ev, rest) →
     ∃ t, exec .warnEvent s = .next t
       ∧ (∀ w ∈ s.threatened, s.warningTime w ≤ ev.time → w.ref ∈ t.tun.warned)
       ∧ (∀ w th, (s.threatened.filter fun w => s.warningTime w ≤ ev.time) = [w] → s.threat w = some th →
           t.rep.notices = (s.post ⟨.handoverWarning, s.tun.viewerTuner, if th = .evict then 1 else 2, ev.time, w.ref,
             (w.wstart : Nat)⟩).rep.notices)
       ∧ t.tun.a = s.tun.a ∧ t.tun.b = s.tun.b ∧ t.run = s.run ∧ t.rst = s.rst ∧ t.pln = s.pln ∧ t.pins = s.pins)
  ∧ (∀ (s : State) (ev : CompareEvent) (rest : List CompareEvent) (tg : WakeTarget), s.pins.vdd = true →
     takeFirst .wake s.clk.events = some (ev, rest) → ev.target = some tg →
     ∃ t, exec .wakeEvent s = .next t
       ∧ t.pwc.wokenFor = some tg.wstart
       ∧ (s.pwc.power = .standby → s.pwc.waking = none →
           t.pwc.waking = some ⟨ev.crystal + 600 * 32768, tg.ref, ev.time⟩ ∧ t.pwc.wakeLine = true ∧ t.pwc.power = .standby
           ∧ t.rep.notices = (s.post ⟨.wakeIssued, some tg.tuner, 0, ev.time, tg.ref, (tg.wstart : Nat)⟩).rep.notices)
       ∧ (s.pwc.power ≠ .standby ∨ s.pwc.waking ≠ none →
           t.pwc.waking = s.pwc.waking ∧ t.pwc.wakeLine = s.pwc.wakeLine ∧ t.pwc.power = s.pwc.power
           ∧ t.rep.notices = s.rep.notices)
       ∧ t.run = s.run ∧ t.tun = s.tun ∧ t.rst = s.rst ∧ t.pln = s.pln ∧ t.pins = s.pins)

/-! ### The planner and the matcher -/

/-- REPLAN_PUBLISH: the plan is replaced as a whole by the one its snapshot gives, every entry and clash record under the next
generation, and PLAN_NEW is raised (R86; law 11); the stale flag then starts another replan or not (R87). Where no active run's
recomputed window end has come and the stale flag is clear: PLAN_PUBLISHED is posted exactly when the plan differs or is the
first since a reset (R86); the waiting list is rebuilt from the plan's PLACED, TRIMMED and MOVED entries, less those R110 leaves
out and those changed since the snapshot (R121; log 52), a blocked mark kept; and WARN and WAKE are reloaded (R134, R178). -/
def Obligations.PublishReplacesThePlan : Prop :=
  ∀ (s : State) (sn : Snapshot), s.pins.vdd = true → s.pln.snapshot = some sn →
    ∃ t, exec .replanPublish s = .next t
      ∧ t.pln.generation = s.pln.generation + 1
      ∧ t.pln.plan = { sn.plan with
          entries := sn.plan.entries.map fun e => { e with generation := s.pln.generation + 1 }
          clashes := sn.plan.clashes.map fun c => { c with generation := s.pln.generation + 1 } }
      ∧ t.rep.sticky.getLsbD 2 = true ∧ t.pln.toggle = s.pln.toggle
      ∧ (s.pln.stale = true → s.clk.valid = true → t.pln.snapshot ≠ none)
      ∧ (s.clk.valid = false → t.pln.snapshot = none ∧ t.pln.stale = false)
      ∧ t.rst.anchor = s.rst.anchor ∧ t.rst.schedule = s.rst.schedule ∧ t.rst.tables = s.rst.tables
      ∧ t.clk.counter = s.clk.counter ∧ t.pins = s.pins ∧ t.fpx.owner = s.fpx.owner
      ∧ (s.pln.stale = false → (∀ r ∈ s.run.runs, ∀ x, s.windowEndOf r = some x → s.clk.counter < x) →
          let old := s.pln.plan
          let view := fun (e : PlanEntry) => (e.ref, e.status, e.tuner, e.wstart, e.wend, e.showing)
          let differs : Prop := s.pln.published = false ∨ old.entries.map view ≠ sn.plan.entries.map view
            ∨ (∃ c ∈ sn.plan.clashes, ∃ o ∈ old.clashes, o.ref = c.ref ∧ (o.opponents ≠ c.opponents ∨ o.more ≠ c.more))
            ∨ old.deferred ≠ sn.plan.deferred ∨ old.overCount ≠ sn.plan.overCount ∨ old.truncated ≠ sn.plan.truncated
          let clashing := sn.plan.entries.filter fun e => e.status = .clash
          let leftOut := fun (e : PlanEntry) =>
            (∃ r ∈ s.run.runs, r.ref = e.ref) ∨ (∃ h ∈ s.run.history, h.ref = e.ref ∧ h.outcome ≠ .cut)
            ∨ (e.origin = none ∧ ((∃ x ∈ s.run.endStates, x.booking = e.ref)
                ∨ ∀ b, s.booking e.ref = some b → b.finished = true))
            ∨ (e.origin ≠ none ∧ s.effectiveEvent (e.ref - 0x80000000) = none)
            ∨ (e.tuner = some .B ∧ s.rst.inForce.tuner.mode = .single) ∨ e.ref ∈ s.run.changed
          t.pln.snapshot = none
          ∧ (differs → t.rep.notices = (s.post ⟨.planPublished, none, (clashing.length : Nat), s.clk.counter,
              (clashing.head?.map PlanEntry.ref).getD 0xFFFFFFFF, ((s.pln.generation + 1).toNat : Nat)⟩).rep.notices)
          ∧ (¬ differs → t.rep.notices = s.rep.notices)
          ∧ (∀ w, w ∈ t.run.waiting ↔ ∃ e ∈ sn.plan.entries, (e.status = .placed ∨ e.status = .trimmed ∨ e.status = .moved)
              ∧ ¬ leftOut e ∧ e.tuner = some w.tuner
              ∧ w = ⟨e.ref, w.tuner, e.wstart, e.wend, e.service, e.showing, e.part, e.partCount, e.origin,
                  keptBlock s.run.waiting e.ref w.tuner e.wstart⟩)
          ∧ t.run.history = s.run.history ∧ t.tun = s.tun
          ∧ t.LoadedWith .warn (leastOf (t.threatened.map t.warningTime))
          ∧ t.LoadedWith .wake (t.nextWake.map fun e =>
              max (e.wstart - s.rst.inForce.schedule.wakeLead) s.clk.counter))

/-- Law 5: a PLACED or MOVED entry's window is its showing's padded interval clipped at now; a TRIMMED one's lies within that
interval and holds the effective core; a PINNED one's starts at its actual start; a CLASH has no tuner (R70, R75 to R79). -/
def Obligations.PlanWindowsFollowTheShowings : Prop :=
  ∀ (sn : Snapshot) (e : PlanEntry), e ∈ sn.plan.entries →
    (e.status = .placed → ∃ c ∈ sn.candidates, e.ref = c.ref
      ∧ e.wstart = (sn.windows c.prePad c.postPad c.showing).ws ∧ e.wend = (sn.windows c.prePad c.postPad c.showing).we)
    ∧ (e.status = .moved → ∃ c ∈ sn.candidates, ∃ sh ∈ c.alternates, e.showing = sh.event
      ∧ e.wstart = (sn.windows c.prePad c.postPad sh).ws ∧ e.wend = (sn.windows c.prePad c.postPad sh).we)
    ∧ (e.status = .trimmed → ∃ c ∈ sn.candidates, ∃ sh ∈ c.showing :: c.alternates,
      let w := sn.windows c.prePad c.postPad sh
      e.showing = sh.event ∧ w.ws ≤ e.wstart ∧ e.wstart ≤ w.cs ∧ w.ce ≤ e.wend ∧ e.wend ≤ w.we)
    ∧ (e.status = .pinned → ∃ p ∈ sn.pinned, e.ref = p.run.ref ∧ e.wstart = p.run.actualStart)
    ∧ (e.status = .clash → e.tuner = none)

/-- The plan never asks more than the tuners can do (R72 to R76): where the pinned entries are within the caps, the multiplex
and the feed rule at every instant, so is every plan built on them. -/
def Obligations.PlanNeverExceedsTheTuners : Prop :=
  ∀ sn : Snapshot, (∀ t, withinTuners sn.tuner sn.pins t) → ∀ t, withinTuners sn.tuner sn.build.placed t

/-- An episode that is marked, pending or being recorded is offered by no candidate, and every showing offered has not ended
(R47, R48, R51, R52). -/
def Obligations.RecordedEpisodesAreNotOffered : Prop :=
  ∀ (s : State) (c : Candidate), c ∈ s.seriesCandidates →
    ∃ o, c.origin = some o
      ∧ marked s.rst.tables.marks o.key = false
      ∧ (∀ p ∈ s.ser.pendingMarks, p.key ≠ o.key)
      ∧ (∀ r ∈ s.run.runs, ∀ v o', r.kind = .series v o' → o'.key ≠ o.key)
      ∧ ∀ sh ∈ c.showing :: c.alternates, s.clk.counter < min (sh.start + sh.duration) 0xFFFFFFFF

/-- The effective record of an id is the contender of highest revision, then of highest slot address, among the LIVE, valid
slots outside the verify set (R15), and a mark key stands at its lowest slot address (R16). Law 4: of each id at most one
SERVICE, one BOOKING and one LINK is effective, and no mark key stands twice; the one effective CONFIG and the one effective
OPCODES record are ranked in the same way, and there is one wherever a valid slot stands. Of the held guide slots of one event
that are not doubtful the one of highest version, then of highest slot address, is effective; a doubtful one never is; there is
an effective one wherever one is not doubtful (R31). -/
def Obligations.EffectiveRecordsAreUnique : Prop :=
  (∀ s : State, s.rst.schedule.wf = true →
    (s.effectiveRecords.services.map ServiceRec.id).Nodup ∧ (s.effectiveRecords.bookings.map BookingRec.id).Nodup
    ∧ (s.effectiveRecords.links.map LinkRec.id).Nodup
    ∧ (s.effectiveRecords.marks.map fun m => (m.link, m.tag, m.part)).Nodup)
  ∧ (∀ s : State,
    let stands := fun (x : SchedSlot) => ∃ off addr, (off, addr, x) ∈ s.schedRecords
    let beats := fun (v slot v' slot' : Nat) => v' < v ∨ (v' = v ∧ slot' < slot)
    (∀ r, r ∈ s.effectiveRecords.services ↔ stands (.service r)
      ∧ ∀ x, stands (.service x) → x.id = r.id → ¬ beats x.revision x.slot r.revision r.slot)
    ∧ (∀ r, r ∈ s.effectiveRecords.bookings ↔ stands (.booking r)
      ∧ ∀ x, stands (.booking x) → x.id = r.id → ¬ beats x.revision x.slot r.revision r.slot)
    ∧ (∀ r, r ∈ s.effectiveRecords.links ↔ stands (.link r)
      ∧ ∀ x, stands (.link x) → x.id = r.id → ¬ beats x.revision x.slot r.revision r.slot)
    ∧ (∀ r, stands (.mark r) → ∃ m ∈ s.effectiveRecords.marks, m.link = r.link ∧ m.tag = r.tag ∧ m.part = r.part)
    ∧ (s.rst.schedule.wf = true → ∀ m ∈ s.effectiveRecords.marks, stands (.mark m)
      ∧ ∀ r, stands (.mark r) → r.link = m.link → r.tag = m.tag → r.part = m.part → m.slot ≤ r.slot))
  ∧ (∀ s : State,
    let config := fun (x : ConfigRec) => ∃ off addr, (off, addr, AnchorSlot.config x) ∈ s.anchorRecords
    let opcodes := fun (x : OpcodesRec) => ∃ off addr, (off, addr, AnchorSlot.opcodes x) ∈ s.anchorRecords
    let beats := fun (v slot v' slot' : Nat) => v' < v ∨ (v' = v ∧ slot' < slot)
    (∀ r, s.resolveConfig = some r → config r ∧ ∀ x, config x → ¬ beats x.revision x.slot r.revision r.slot)
    ∧ (s.resolveConfig = none ↔ ∀ x, ¬ config x)
    ∧ (∀ r, s.resolveOpcodes = some r → opcodes r ∧ ∀ x, opcodes x → ¬ beats x.revision x.slot r.revision r.slot)
    ∧ (s.resolveOpcodes = none ↔ ∀ x, ¬ opcodes x))
  ∧ (∀ es : List MatchedEntry,
    let ranked := recomputeEffective es
    let beats := fun (x y : MatchedEntry) =>
      y.event.version < x.event.version ∨ (y.event.version = x.event.version ∧ y.slot < x.slot)
    ranked.map (fun e => { e with effective := false }) = es.map (fun e => { e with effective := false })
    ∧ (∀ x ∈ ranked, x.effective = true ↔
        x.doubtful = false ∧ ∀ y ∈ ranked, y.doubtful = false → y.event.id = x.event.id → ¬ beats y x)
    ∧ (∀ y ∈ ranked, y.doubtful = false → ∃ x ∈ ranked, x.event.id = y.event.id ∧ x.effective = true)
    ∧ (∀ x ∈ ranked, ∀ y ∈ ranked, x.effective = true → y.effective = true → x.event.id = y.event.id →
        x.event.version = y.event.version ∧ x.slot = y.slot))

/-! ### The record store -/

/-- The first verification of the anchor after a reset adopts the configuration: every group of the effective CONFIG, or the
unconfigured defaults, the class table of the effective OPCODES, and the sectors of the adopted partitions join the verify set,
with no CONFIG_APPLIED, no RESTART_NEEDED and no replan (R17, R21). Start-up ends when the last member has been read: PWRGOOD
gives the owner and the power state, SOCRST is released, and STARTUP_DONE is posted last and raised; while a member can still be
worked, it goes on (R173, R174). Neither uses up a guide scan request: a mirror sector's read in START-UP raises it where a link
appears or changes its tag or restriction, and it stays pending (R20, R40; log 44). -/
def Obligations.AdoptionAndTheEndOfStartUp : Prop :=
  (∀ (s : State) (data : List Byte), s.pins.vdd = true → s.fpx.scan = .reading s.anchorBase .mirror → data.length = 4096 →
     s.rst.adopted = false → s.StartUpLaw → s.ClassTableLaw →
     let u : State := { s with rst := { s.rst with
       anchor := s.rst.anchor.replace 0 data, verify := s.rst.verify.filter fun x => x ≠ s.anchorBase } }
     ∃ t, exec (.mirrorSectorVerify data) s = .next t
       ∧ t.rst.adopted = true ∧ t.rst.effConfig = u.resolveConfig ∧ t.rst.effOpcodes = u.resolveOpcodes
       ∧ t.rst.inForce = (match u.resolveConfig with | some r => r.cfg | none => unconfigured s.pins.fsize)
       ∧ t.fpx.classTable = classTableOf u.resolveOpcodes
       ∧ (∀ y, y ∈ t.rst.verify ↔ y ∈ u.rst.verify ∨ y ∈ t.scheduleSectors ∨ y ∈ t.rst.inForce.layout.guideSectors)
       ∧ t.rep.sticky.getLsbD 10 = s.rep.sticky.getLsbD 10 ∧ t.pln = s.pln ∧ t.ser.scanRequest = s.ser.scanRequest
       ∧ (∀ n ∈ t.rep.notices, n ∈ s.rep.notices
           ∨ n.kind ∈ [NoticeKind.mirrorCorrected, .recordDamaged, .configRejected, .tableFull, .startupDone])
       ∧ (∀ y ∈ t.rst.verify, y ∈ t.watchedSectors → t.pwc.power = .startUp ∧ t.pwc.startupReads = s.pwc.startupReads + 1))
  ∧ (∀ (s : State) (x : Nat) (p : Purpose) (i : Instr) (data : List Byte), s.pins.vdd = true → s.pwc.power = .startUp →
     s.rst.adopted = true → s.fpx.scan = .reading x p → data.length = 4096 →
     ((p = .mirror ∧ i = .mirrorSectorVerify data) ∨ (p = .guideVerify ∧ i = .guideSectorVerify data)) →
     let asks := fun (t : State) => p = .mirror ∧ s.rst.inForce.layout.guide ≠ none
       ∧ ∃ l ∈ t.rst.tables.links, ∀ o, s.link l.id = some o → o.tag ≠ l.tag ∨ o.service ≠ l.service
     let request := fun (t : State) => (asks t → t.ser.scanRequest = some 0) ∧ (¬ asks t → t.ser.scanRequest = s.ser.scanRequest)
     ((∀ y ∈ s.rst.verify, y = x) → ∃ t, exec i s = .next t
       ∧ t.fpx.owner = (if s.pins.pwrgood then .soc else s.fpx.owner)
       ∧ (s.pins.pwrgood = true → t.pwc.power = .run)
       ∧ (s.pins.pwrgood = false → t.pwc.power = .standby ∨ t.pwc.power = .dormant)
       ∧ t.pwc.socrst = false ∧ t.rst.verify = [] ∧ t.rep.sticky.getLsbD 11 = true
       ∧ t.rep.notices.getLast? = some ⟨.startupDone, none, if s.pwc.cold then 1 else 2, s.clk.counter,
           s.pwc.startupReads + 1, if s.rst.inForce.layout.schedule.isSome then 1 else 0⟩
       ∧ request t)
     ∧ (∀ y ∈ s.rst.verify, y ≠ x → y ∈ s.watchedSectors → s.fpx.attached = true → s.fpx.asleep = false →
       s.fpx.suspended = none → ∃ t, exec i s = .next t
         ∧ t.pwc.power = .startUp ∧ t.pwc.socrst = s.pwc.socrst ∧ t.pwc.startupReads = s.pwc.startupReads + 1
         ∧ t.rep.sticky.getLsbD 11 = s.rep.sticky.getLsbD 11 ∧ request t))

/-- A change of the effective CONFIG at run time, while no replan can start, acts group by group: the layout in force stays and
RESTART_NEEDED is raised; the schedule group takes effect at once with CONFIG_APPLIED; the tuner group takes effect at once with
no run active, and is deferred with CONFIG_DEFERRED else, a further change replacing the deferred values without a second notice
(R22, R23). The class table follows the effective OPCODES record (R24). So for a later verification of the anchor (R18), for an
accepted PROGRAM into the anchor, and for an accepted erase of its sector or block that leaves the schedule mirror as it was;
while the anchor is a member of the verify set a write changes nothing of either (R4). After an accepted ERASE_CHIP, which may
end runs as well, the records, the class table, the layout, the schedule group and RESTART_NEEDED are stated. -/
def Obligations.ConfigurationChangesGroupByGroup : Prop :=
  ∀ s : State, s.pins.vdd = true → s.rst.adopted = true → s.LayoutLaw → s.TablesLaw → s.ClassTableLaw →
    (s.pln.snapshot.isSome = true ∨ s.clk.valid = false) →
    let old := s.rst.inForce
    let record := fun (u : State) => match u.resolveConfig with | some r => r.cfg | none => unconfigured s.pins.fsize
    let idle : Prop := s.run.runs = []
    let flag := fun (t : State) => t.rep.sticky.getLsbD 10
    let resolved := fun (u t : State) =>
      t.rst.effConfig = u.resolveConfig ∧ t.rst.effOpcodes = u.resolveOpcodes
      ∧ t.fpx.classTable = classTableOf u.resolveOpcodes ∧ t.rst.inForce.layout = old.layout
      ∧ (u.resolveConfig = s.rst.effConfig → t.rst.inForce.schedule = old.schedule ∧ flag t = flag s)
      ∧ (u.resolveConfig ≠ s.rst.effConfig → t.rst.inForce.schedule = (record u).schedule
          ∧ ((record u).layout ≠ old.layout → flag t = true) ∧ ((record u).layout = old.layout → flag t = flag s))
    let follows := fun (u t : State) =>
      let new := record u
      let ref : Nat := match u.resolveConfig with | some r => r.revision | none => 0xFFFFFFFF
      let slot : Nat := match u.resolveConfig with | some r => r.slot | none => 0xFFFFFFFF
      let notice := fun (kind : NoticeKind) (detail : Int) => (⟨kind, none, detail, s.clk.counter, ref, slot⟩ : Notice)
      resolved u t ∧ t.rst.tables = s.rst.tables
      ∧ (u.resolveConfig = s.rst.effConfig → t.rst.inForce = old ∧ t.rst.deferred = s.rst.deferred)
      ∧ (u.resolveConfig ≠ s.rst.effConfig →
          (idle → t.rst.inForce.tuner = new.tuner ∧ t.rst.deferred = none)
          ∧ (¬ idle → t.rst.inForce.tuner = old.tuner
              ∧ t.rst.deferred = if new.tuner = old.tuner then none else some new.tuner)
          ∧ (new.schedule ≠ old.schedule → (new.tuner = old.tuner ∨ ¬ idle) → notice .configApplied 1 ∈ t.rep.notices)
          ∧ (new.schedule = old.schedule → new.tuner ≠ old.tuner → idle → notice .configApplied 2 ∈ t.rep.notices)
          ∧ (new.schedule ≠ old.schedule → new.tuner ≠ old.tuner → idle → notice .configApplied 3 ∈ t.rep.notices)
          ∧ (new.tuner ≠ old.tuner → ¬ idle → s.rst.deferred = none → notice .configDeferred 2 ∈ t.rep.notices)
          ∧ (∀ n ∈ t.rep.notices, n.kind = .configDeferred → n ∉ s.rep.notices →
              new.tuner ≠ old.tuner ∧ ¬ idle ∧ s.rst.deferred = none))
    let unchanged := fun (t : State) => t.rst.effConfig = s.rst.effConfig ∧ t.rst.effOpcodes = s.rst.effOpcodes
      ∧ t.fpx.classTable = s.fpx.classTable ∧ t.rst.inForce = old ∧ t.rst.deferred = s.rst.deferred ∧ flag t = flag s
    let writes := fun (i : Instr) (u : State) =>
      (s.doubtfulAt s.anchorBase = false → ∃ t, exec i s = .next t ∧ follows u t)
      ∧ (s.doubtfulAt s.anchorBase = true → ∃ t, exec i s = .next t ∧ unchanged t)
    (∀ data : List Byte, s.fpx.scan = .reading s.anchorBase .mirror → data.length = 4096 →
      ∃ t, exec (.mirrorSectorVerify data) s = .next t
        ∧ follows { s with rst := { s.rst with
            anchor := s.rst.anchor.replace 0 data, verify := s.rst.verify.filter fun x => x ≠ s.anchorBase } } t)
    ∧ (∀ (code : Byte) (addr : FlashAddr), s.Listening → s.fpx.guard = false → s.inWindow addr.toNat = false →
      let sector : FlashRange := ⟨s.anchorBase, 4096⟩
      let block : FlashRange := ⟨s.pins.fsize.anchorBlock, 65536⟩
      let erased := fun (r : FlashRange) => s.mirrorErase r.lo r.len
      (∀ data : List Byte, s.classIs code .program → data ≠ [] → s.inAnchor addr.toNat = true →
        s.fpx.accepts .program ⟨pageOf addr.toNat, 256⟩ true = true →
        writes (.program code addr data true) { s with rst := { s.rst with
          anchor := s.rst.anchor.program (pageOf addr.toNat - s.anchorBase) (appliedBytes addr.toNat data) } })
      ∧ (s.classIs code .eraseSector → s.inAnchor addr.toNat = true → s.fpx.accepts .eraseSector sector true = true →
        (erased sector).rst.schedule = s.rst.schedule → writes (.eraseSector code addr true) (erased sector))
      ∧ (s.classIs code .eraseBlock → blockOf addr.toNat = s.pins.fsize.anchorBlock →
        s.fpx.accepts .eraseBlock block true = true → (erased block).rst.schedule = s.rst.schedule →
        writes (.eraseBlock code addr true) (erased block))
      ∧ (s.classIs code .eraseChip → s.fpx.accepts .eraseChip s.wholeFlash true = true → s.doubtfulAt s.anchorBase = false →
        ∃ t, exec (.eraseChip code true) s = .next t ∧ resolved (erased s.wholeFlash) t))

/-- The record changes handed to the run engine (R20, R38) and what they do, a replan RUNNING and no tuner change deferred. The
booking table's changes carry their causes (R20; withheld or withdrawn by the mirror's present bytes, log 54). A manual run ends
CANCELLED when its booking is withdrawn and goes on when it is withheld (R119); a series run goes on in both cases (R120). A
revised or new record that keeps service and start gives the run its window end afresh; one that moves either ends it CUT, with
no end state (R118 to R120), the older end states of a revised booking removed (R125); a run that a new window end ends keeps
the old one in the history (log 28). A waiting entry leaves the list, whatever the cause, without history or notice, and no plan
whose snapshot was taken before brings it back (R121; log 52). -/
def Obligations.RecordChangesReachTheRuns : Prop :=
  (∀ (s : State) (before : List BookingRec) (id : Nat) (c : Change) (b : Option BookingRec),
     let was := before.find? fun x => x.id = id
     let now := s.booking id
     (id, c, b) ∈ s.bookingChanges before ↔
       b = now ∧ ((was = none ∧ now ≠ none ∧ c = .new) ∨ (was ≠ none ∧ now ≠ none ∧ was ≠ now ∧ c = .revised)
         ∨ (was ≠ none ∧ now = none ∧ c = s.bookingGone id)))
  ∧ (∀ (s : State) (r : ActiveRun), s.pln.snapshot.isSome = true → s.rst.deferred = none → s.RunLaw → s.runOf r.ref = some r →
     let others := s.run.runs.filter fun x => x.ref ≠ r.ref
     let ended := fun (t : State) (o : RunOutcome) (states : List EndState) => t.run.runs = others ∧ t.run.endStates = states
       ∧ t.run.history = enterHistory s.run.history ⟨r.ref, o, some s.clk.counter, r.windowEnd⟩
       ∧ t.tun = s.tun.set r.tuner (s.tun.get r.tuner).releaseStream ∧ t.pln.stale = true
       ∧ t.rep.notices = (s.post ⟨.stop, some r.tuner, o.detail, s.clk.counter, r.ref, (r.actualStart : Nat)⟩).rep.notices
     let goesOn := fun (t : State) (r' : ActiveRun) (states : List EndState) => t.run.endStates = states
       ∧ t.run.runs = s.run.runs.map (fun x => if x.ref = r.ref then r' else x)
       ∧ t.run.history = s.run.history ∧ t.tun = s.tun ∧ t.rep = s.rep ∧ t.pln = s.pln
     let follows := fun (t : State) (service start : Nat) (r' : ActiveRun) (states natural : List EndState) =>
       (service ≠ r.recService ∨ start ≠ r.recStart → ended t .cut states)
       ∧ (service = r.recService → start = r.recStart →
          (∀ e, s.windowEndOf r = some e → e ≤ s.clk.counter → ended t r.naturalOutcome natural)
          ∧ (∀ e, s.windowEndOf r = some e → s.clk.counter < e → goesOn t { r' with windowEnd := e } states)
          ∧ (s.windowEndOf r = none → goesOn t r' states))
     (∀ v b, r.kind = .manual v →
       let states := s.run.endStates.filter fun x => !(x.booking = b.id && x.revision < b.revision)
       ended (s.bookingChange State.trigger r.ref .withdrawn none) .cancelled (enterEndState s.run.endStates ⟨r.ref, v, .cancelled⟩)
       ∧ goesOn (s.bookingChange State.trigger r.ref .withheld none) r s.run.endStates
       ∧ (b.id = r.ref → ∀ c ∈ [Change.new, .revised], follows (s.bookingChange State.trigger r.ref c (some b)) b.service b.start
           { r with kind := .manual b.revision } states (enterEndState states ⟨r.ref, b.revision, r.naturalOutcome⟩)))
     ∧ (∀ ev o v, r.kind = .series ev o → r.ref = seriesRef ev →
       goesOn (s.eventChange State.trigger ev .withdrawn none) r s.run.endStates
       ∧ goesOn (s.eventChange State.trigger ev .withheld none) r s.run.endStates
       ∧ ∀ c ∈ [Change.new, .revised], follows (s.eventChange State.trigger ev c (some v)) v.service v.start r
           s.run.endStates s.run.endStates))
  ∧ (∀ (s : State) (w : WaitingEntry) (c : Change), s.waitingOf w.ref = some w → s.runOf w.ref = none →
     let gone := fun (t : State) => t.run.waiting = s.run.waiting.filter (fun x => x.ref ≠ w.ref) ∧ w.ref ∈ t.run.changed
       ∧ t.run.runs = s.run.runs ∧ t.run.history = s.run.history ∧ t.tun = s.tun ∧ t.rep = s.rep ∧ t.pln = s.pln
     (∀ b, gone (s.bookingChange State.trigger w.ref c b)) ∧ (∀ ev e, w.ref = seriesRef ev → gone (s.eventChange State.trigger ev c e)))
  ∧ (∀ (s t : State) (ref : Nat), ref ∈ s.run.changed → (∀ w ∈ s.run.waiting, w.ref ≠ ref) →
     exec .replanPublish s = .next t → ∀ w ∈ t.run.waiting, w.ref ≠ ref)

/-! ### The guide matcher -/

/-- A guide program and the slots it touches (R27 to R35). An accepted one is worked slot by slot, and one into a sector of the
verify set is disregarded, which is judged once, at the hand-over (log 11). A slot that is not held takes part only when all its
64 bytes are written: a valid event that matches enters, one that does not enters as displacing when it outranks every matched
entry of its id, a damaged one is reported; a full table refuses, and a refused displacing slot removes the entries it outranks.
A held slot ignores bytes of FFh, leaves the table when its state byte goes to RETIRED, and else puts its sector in doubt. -/
def Obligations.GuideProgramsActOnTheirSlots : Prop :=
  (∀ (s : State) (code : Byte) (addr : FlashAddr) (data : List Byte), s.Listening → s.classIs code .program →
     s.inWindow addr.toNat = false → (s.fpx.guard = false ∨ s.inAnchor addr.toNat = false) → data ≠ [] →
     let page := pageOf addr.toNat
     s.fpx.accepts .program ⟨page, 256⟩ true = true → s.meetsMirror ⟨page, 256⟩ = false →
     s.rst.inForce.layout.inGuide page = true →
     (s.doubtfulAt page = true → ∃ t, exec (.program code addr data true) s = .next t
       ∧ t.gmx = s.gmx ∧ t.rst = s.rst ∧ t.rep = s.rep)
     ∧ (s.doubtfulAt page = false → s.pln.snapshot.isSome = true → ∃ t, exec (.program code addr data true) s = .next t
       ∧ (let w := [0, 64, 128, 192].foldl (fun u off => u.programSlot page (appliedBytes addr.toNat data) off) s
          t.gmx = w.gmx ∧ t.rst.verify = w.rst.verify) ∧ t.rst.tables = s.rst.tables ∧ t.rst.schedule = s.rst.schedule))
  ∧ ∀ (s : State) (page off : Nat) (applied : List (Nat × Byte)),
     let slot := page + off
     let written := slotBytes applied off
     let t := s.programSlot page applied off
     let cleared := written.filter fun p => p.2 ≠ 0xFF
     let others := s.gmx.entries.filter fun x => x.slot ≠ slot
     (s.held slot = false → written.length < 64 → t = s)
     ∧ (s.held slot = false → written.length = 64 →
       (∀ e, guideSlot (contentOf written) = .event e →
         let entry := fun (displacing : Bool) =>
           (⟨slot, e, s.isLinked e, s.isNamed e, displacing, s.doubtfulAt slot, false⟩ : MatchedEntry)
         let refused := State.post { s with rep := { s.rep with sticky := s.rep.sticky ||| 0x0100 } }
           ⟨.tableFull, none, 0x20, s.clk.counter, e.id, (slot : Nat)⟩
         let same := fun (x : MatchedEntry) => x.event.id = e.id ∧ x.matched = true
         let wins : Prop := (∃ x ∈ s.gmx.entries, same x) ∧ ∀ x ∈ s.gmx.entries, same x →
           x.event.version < e.version ∨ (x.event.version = e.version ∧ x.slot < slot)
         let room : Prop := s.gmx.entries.length < 384
         (s.isMatched e = true → room → t = s.setEntries (insertEntry (entry false) s.gmx.entries))
         ∧ (s.isMatched e = true → ¬ room → t = refused)
         ∧ (s.isMatched e = false → ¬ wins → t = s)
         ∧ (s.isMatched e = false → wins → room → t = s.setEntries (insertEntry (entry true) s.gmx.entries))
         ∧ (s.isMatched e = false → wins → ¬ room → t.rep = refused.rep ∧ t.rst = s.rst
             ∧ (∀ x ∈ t.gmx.entries, x.event.id = e.id → x.matched = false ∧ x.displacing = false)
             ∧ ∀ x ∈ s.gmx.entries, x.event.id ≠ e.id → ∃ y ∈ t.gmx.entries, y.slot = x.slot ∧ y.event = x.event))
       ∧ (guideSlot (contentOf written) = .damaged →
           t = s.post ⟨.recordDamaged, none, ((contentOf written 1).toNat : Nat), s.clk.counter, slot, 0⟩)
       ∧ (guideSlot (contentOf written) = .nothing → t = s))
     ∧ (s.held slot = true → cleared = [] → t = s)
     ∧ (∀ v, s.held slot = true → cleared = [(0, v)] → (0x3F : Byte) &&& v = 0x3F → t = s)
     ∧ (∀ v, s.held slot = true → cleared = [(0, v)] → (0x3F : Byte) &&& v = 0x1F → t = s.setEntries (pruneDisplacing others))
     ∧ (s.held slot = true → cleared ≠ [] →
       (∀ v, cleared = [(0, v)] → (0x3F : Byte) &&& v ≠ 0x3F ∧ (0x3F : Byte) &&& v ≠ 0x1F) →
       t.rep = s.rep ∧ (∀ y, y ∈ t.rst.verify ↔ y ∈ s.rst.verify ∨ y = sectorOf slot)
       ∧ (∀ y ∈ t.gmx.entries, sectorOf y.slot = sectorOf slot → y.doubtful = true ∧ y.effective = false)
       ∧ ∀ x ∈ s.gmx.entries, ∃ y ∈ t.gmx.entries, y.slot = x.slot ∧ y.event = x.event)

/-- What a guide sector's read takes into a table with room, a replan RUNNING: every valid event of the sector that a link or a
booking wants is held afterwards, with its test results, and trusted when it was verified; what is held of a verified sector is
what was read (R39); a scan takes only slots that were not held and removes nothing (R41); the matched entries of other sectors
stay. With no run and outside START-UP, MIRROR_CORRECTED is posted exactly when the verified sector's entries differ (R39; log
12). -/
def Obligations.GuideSectorsAreTakenIn : Prop :=
  ∀ (s : State) (x : Nat) (data : List Byte), s.pins.vdd = true → data.length = 4096 → x % 4096 = 0 →
    s.pln.snapshot.isSome = true → s.gmx.entries.length + 64 ≤ 384 →
    let read := fun (slot : Nat) (e : Event) => ∃ k, k < 64 ∧ slot = x + 64 * k ∧ guideSlot (dataSlot data k) = .event e
    let holds := fun (t : State) (slot : Nat) (e : Event) (doubtful : Bool) => ∃ m ∈ t.gmx.entries, m.slot = slot ∧ m.event = e
      ∧ m.linked = s.isLinked e ∧ m.named = s.isNamed e ∧ m.displacing = false ∧ m.doubtful = doubtful
    (s.fpx.scan = .reading x .guideVerify → ∃ t, exec (.guideSectorVerify data) s = .next t
      ∧ (∀ slot e, read slot e → s.isMatched e = true → holds t slot e false)
      ∧ (∀ m ∈ t.gmx.entries, sectorOf m.slot = x → read m.slot m.event ∧ m.doubtful = false)
      ∧ (∀ m ∈ s.gmx.entries, sectorOf m.slot ≠ x → m.matched = true →
          ∃ m' ∈ t.gmx.entries, m'.slot = m.slot ∧ m'.event = m.event ∧ m'.doubtful = m.doubtful)
      ∧ (s.run.runs = [] → s.pwc.power ≠ .startUp → s.fpx.lend = none →
          t.rep.notices = if sectorView s.gmx.entries x = sectorView t.gmx.entries x then s.rep.notices
            else (s.post ⟨.mirrorCorrected, none, 3, s.clk.counter, x, 0⟩).rep.notices))
    ∧ (s.fpx.scan = .reading x .guideScan → ∃ t, exec (.guideSectorScan data) s = .next t
      ∧ (∀ slot e, read slot e → s.held slot = false → s.isMatched e = true → holds t slot e (s.doubtfulAt slot))
      ∧ (∀ m ∈ t.gmx.entries, s.held m.slot = true ∨ read m.slot m.event)
      ∧ (∀ m ∈ s.gmx.entries,
          ∃ m' ∈ t.gmx.entries, m'.slot = m.slot ∧ m'.event = m.event ∧ m'.doubtful = m.doubtful))

/-! ### The scan engine and the deadlines -/

/-- SECTOR_READ_START on an idle scan engine, or while a sector waits: with a status response that shows the flash ready, or
once 400 s have passed since the ownership's first status read (R157; on the crystal count, log 4), the READ of the sector is
sent; with one that does not, the sector waits; before the first read a sleeping flash is woken (R155 to R157). Where the scan
engine may not begin, where there is no work, and without a status read, nothing changes (log 2). BUSY_WAIT_TIMEOUT: when 400 s
on the crystal count (log 4) have passed since the ownership's first status read, the waiting sector is read all the same
(R157); before, nothing changes (log 2). -/
def Obligations.ScanEngineReadsTheNextSector : Prop :=
  (∀ s : State, s.pins.vdd = true → exec (.sectorReadStart []) s = .next { s with ports := ⟨[], []⟩ })
  ∧ (∀ (s : State) (b : Byte) (es er : ClassEntry), s.pins.vdd = true →
     s.fpx.classTable.ownOf .readStatus = some es → s.fpx.classTable.ownOf .read = some er →
     let first := match s.fpx.firstPoll with | some t => some t | none => some s.clk.crystal
     let ready := !b.getLsbD s.fpx.classTable.busyBit
     let late := s.fpx.gaveUp = true ∨ ∃ f, s.fpx.firstPoll = some f ∧ f + 400 * 32768 ≤ s.clk.crystal
     let status : FlashOp := .own es.code none es.dummy 1
     let read := fun (x : Nat) => FlashOp.own er.code (some x) er.dummy er.width
     let reads := fun (x : Nat) (p : Purpose) (woken : List FlashOp) => State.mk s.pins
       { s.fpx with
         scan := .reading x p, firstPoll := first, asleep := s.fpx.asleep && woken.isEmpty
         inFlight := if ready then none else s.fpx.inFlight }
       s.rst s.gmx s.ser s.pln s.clk s.run s.tun s.rep s.pwc ⟨[], woken ++ [status, read x]⟩ s.freeCount s.pending
     let waits := fun (x : Nat) (p : Purpose) (woken : List FlashOp) => State.mk s.pins
       { s.fpx with scan := .waiting x p, firstPoll := first, asleep := s.fpx.asleep && woken.isEmpty }
       s.rst s.gmx s.ser s.pln s.clk s.run s.tun s.rep s.pwc ⟨[], woken ++ [status]⟩ s.freeCount s.pending
     (s.scanOpen = false → exec (.sectorReadStart [b]) s = .next { s with ports := ⟨[], []⟩ })
     ∧ (s.scanOpen = true → s.fpx.scan = .idle → s.nextWork = none →
       exec (.sectorReadStart [b]) s = .next { s with ports := ⟨[], []⟩ })
     ∧ (∀ x p, s.scanOpen = true → s.fpx.scan = .idle → s.nextWork = some (x, p) → s.fpx.asleep = false →
       (ready = true ∨ late → exec (.sectorReadStart [b]) s = .next (reads x p []))
       ∧ (ready = false → ¬ late → exec (.sectorReadStart [b]) s = .next (waits x p [])))
     ∧ (∀ x p code, s.scanOpen = true → s.fpx.scan = .idle → s.nextWork = some (x, p) → s.fpx.asleep = true →
       s.releaseCode = some code →
       (ready = true ∨ late → exec (.sectorReadStart [b]) s = .next (reads x p [.own code none 0 1]))
       ∧ (ready = false → ¬ late → exec (.sectorReadStart [b]) s = .next (waits x p [.own code none 0 1])))
     ∧ (∀ x p, s.scanOpen = true → s.fpx.scan = .waiting x p →
       (ready = true ∨ late → exec (.sectorReadStart [b]) s = .next (reads x p []))
       ∧ (ready = false → ¬ late → exec (.sectorReadStart [b]) s = .next (waits x p []))))
  ∧ (∀ (s : State) (er : ClassEntry) (x f : Nat) (p : Purpose), s.pins.vdd = true →
     s.fpx.classTable.ownOf .read = some er → s.fpx.scan = .waiting x p → s.fpx.firstPoll = some f →
     (f + 400 * 32768 ≤ s.clk.crystal → exec .busyWaitTimeout s = .next
       { s with
         ports := ⟨[], [.own er.code (some x) er.dummy er.width]⟩
         fpx := { s.fpx with gaveUp := true, scan := .reading x p } })
     ∧ (s.clk.crystal < f + 400 * 32768 → exec .busyWaitTimeout s = .next { s with ports := ⟨[], []⟩ }))

/-- MIRROR_SECTOR_VERIFY: the sector's mirror bytes become the 4096 bytes read, no other mirror byte changes, and the sector
leaves the verify set (R18). GUIDE_SECTOR_VERIFY: the sector leaves the verify set and none of its entries is doubtful any more
(R39). GUIDE_SECTOR_SCAN: the cursor goes on to the next sector, or the scan request ends after the last (R40, R41), also where
it has been restarted since the sector was begun (log 53). The guide's reads change no mirror. -/
def Obligations.SectorReadsReachTheirOwners : Prop :=
  (∀ (s : State) (x : Nat) (data : List Byte), s.pins.vdd = true → s.fpx.scan = .reading x .mirror →
     data.length = 4096 → s.rst.adopted = true →
     ∃ t, exec (.mirrorSectorVerify data) s = .next t
       ∧ t.fpx.scan = .idle ∧ t.pins = s.pins ∧ t.clk.counter = s.clk.counter
       ∧ (∀ y, y ∈ t.rst.verify ↔ y ∈ s.rst.verify ∧ y ≠ x)
       ∧ (x = s.anchorBase → t.rst.schedule = s.rst.schedule ∧ ∀ a, t.rst.anchor.read a =
           if a < 4096 then (data[a]?).getD 0xFF else s.rst.anchor.read a)
       ∧ (∀ base, x ≠ s.anchorBase → s.scheduleBase = some base → t.rst.anchor = s.rst.anchor
           ∧ ∀ a, t.rst.schedule.read a =
             if x - base ≤ a ∧ a < x - base + 4096 then (data[a - (x - base)]?).getD 0xFF else s.rst.schedule.read a))
  ∧ (∀ (s : State) (x : Nat) (data : List Byte), s.pins.vdd = true → data.length = 4096 →
     (s.fpx.scan = .reading x .guideVerify → x % 4096 = 0 →
       ∃ t, exec (.guideSectorVerify data) s = .next t
         ∧ t.fpx.scan = .idle ∧ (∀ y, y ∈ t.rst.verify ↔ y ∈ s.rst.verify ∧ y ≠ x)
         ∧ (∀ e ∈ t.gmx.entries, sectorOf e.slot = x → e.doubtful = false)
         ∧ t.rst.anchor = s.rst.anchor ∧ t.rst.schedule = s.rst.schedule ∧ t.pins = s.pins)
     ∧ (s.fpx.scan = .reading x .guideScan → ∀ c, s.ser.scanRequest = some c →
       ∃ t, exec (.guideSectorScan data) s = .next t
         ∧ t.fpx.scan = .idle ∧ t.rst.verify = s.rst.verify
         ∧ t.ser.scanRequest = (if c + 1 < s.rst.inForce.layout.guideSectors.length then some (c + 1) else none)
         ∧ t.rst.anchor = s.rst.anchor ∧ t.rst.schedule = s.rst.schedule ∧ t.pins = s.pins))

/-- The deadlines on the crystal count (log 4): a write's (R146), a lend's (R155, R157) and a wake's (R179); before its moment
each row changes nothing (log 2). STANDBY_STATUS_POLL: in STANDBY with a write in flight and no workable sector, a response with
the busy bit clear takes the write off the tracker, one with it set leaves it (R145, R175). -/
def Obligations.DeadlinesAndPollsActWhenDue : Prop :=
  (∀ s : State, s.pins.vdd = true →
     let q : State := { s with ports := ⟨[], []⟩ }
     (∀ w, s.fpx.inFlight = some w → w.deadline ≤ s.clk.crystal → ∃ t, exec .writeDeadlineExpiry s = .next t
       ∧ t.fpx.inFlight = none ∧ (∀ y, y ∈ t.rst.verify ↔ y ∈ s.rst.verify ∨ y ∈ s.sectorsMeeting w.range)
       ∧ t.rst.anchor = s.rst.anchor ∧ t.rst.schedule = s.rst.schedule)
     ∧ (∀ w, s.fpx.inFlight = some w → s.clk.crystal < w.deadline → exec .writeDeadlineExpiry s = .next q)
     ∧ (∀ l x p, s.fpx.lend = some l → l.expired = false → l.ms * 32768 ≤ (s.clk.crystal - l.start) * 1000 →
       s.fpx.scan = .reading x p → exec .lendExpiry s = .next
         { q with fpx := { q.fpx with lend := some { l with expired := true } } })
     ∧ (∀ l, s.fpx.lend = some l → l.expired = false → l.ms * 32768 ≤ (s.clk.crystal - l.start) * 1000 →
       (∀ x p, s.fpx.scan ≠ .reading x p) → exec .lendExpiry s = .next
         (State.post { q with fpx := { q.fpx with scan := .idle, lend := none, owner := .soc } }
           ⟨.lendDone, none, 2, s.clk.counter, s.sectorsLeft, (l.read : Nat)⟩))
     ∧ (∀ l, s.fpx.lend = some l → (s.clk.crystal - l.start) * 1000 < l.ms * 32768 → exec .lendExpiry s = .next q)
     ∧ (∀ w, s.pwc.waking = some w → w.deadline ≤ s.clk.crystal → ∃ t, exec .wakeDeadlineExpiry s = .next t
       ∧ t.pwc.waking = none ∧ t.pwc.wakeLine = false
       ∧ t.rep.notices = (s.post ⟨.wakeFailed, none, 0, s.clk.counter, w.ref, (w.fired : Nat)⟩).rep.notices)
     ∧ (∀ w, s.pwc.waking = some w → s.clk.crystal < w.deadline → exec .wakeDeadlineExpiry s = .next q))
  ∧ (∀ (s : State) (b : Byte), s.pins.vdd = true → s.pwc.power = .standby → s.fpx.scan = .idle → s.fpx.inFlight ≠ none →
     s.nextWork = none →
     ∃ t, exec (.standbyStatusPoll [b]) s = .next t
       ∧ t.fpx.inFlight = (if b.getLsbD s.fpx.classTable.busyBit then s.fpx.inFlight else none)
       ∧ (b.getLsbD s.fpx.classTable.busyBit = true → t.pwc = s.pwc)
       ∧ t.rst = s.rst ∧ t.run = s.run ∧ t.tun = s.tun ∧ t.rep = s.rep ∧ t.pins = s.pins ∧ t.clk = s.clk)

/-! ### Laws every step keeps -/

/-- Law 7 and the capacities of the tables and lists are kept by every step (R19, R31, R57, R79, R81, R123, R125, R163); and,
with the laws that bound the runs by the caps in force, those of the run table, the plan table, the waiting list and the warned
list, which holds each ref once (R71, R80, R108, R110, R135). -/
def Obligations.EveryStepKeepsTheCapacities : Prop :=
  (∀ s t : State, s.TablesFit → step s = .next t → t.TablesFit)
  ∧ (∀ s t : State, s.RunLaw → s.StartUpLaw → s.TunerLaw → s.ListsFit → step s = .next t → t.ListsFit)

/-- The counter stays a schedule time and the trim within its range at every step (R90, R92; law 8); every step keeps both
mirrors in the memory's canonical form, so that equal mirrors are equal data; FPX always holds the class table that the
effective OPCODES record gives (R14, R21, R24); and only the sticky flags are ever raised (R165). -/
def Obligations.EveryStepKeepsClockMirrorsAndClassTable : Prop :=
  (∀ s t : State, s.ClockInRange → step s = .next t → t.ClockInRange)
  ∧ (∀ s t : State, s.MirrorsCanonical → step s = .next t → t.MirrorsCanonical)
  ∧ (∀ s t : State, s.ClassTableLaw → step s = .next t → t.ClassTableLaw)
  ∧ (∀ s t : State, s.StickyLaw → step s = .next t → t.StickyLaw)

/-- After every step each record table holds the effective records of the slots as they stand, the lowest slot addresses up to
its capacity, and the rest are left out (R4, R15, R16, R18, R19); the layout in force stays one that R13 lets stand (R21, R22);
and the effective flags of the matched-event table are those its entries give as they stand (R31). -/
def Obligations.EveryStepKeepsTheTables : Prop :=
  (∀ s t : State, s.LayoutLaw → s.TablesLaw → step s = .next t → t.LayoutLaw ∧ t.TablesLaw)
  ∧ (∀ s t : State, s.EventsLaw → step s = .next t → t.EventsLaw)

/-- Every step keeps the law of the path: the SoC owns it exactly in RUN without a lend, SOCRST is driven exactly in START-UP
and during a hand-back, WAKE is driven exactly while a wake is under way, and DORMANT is quiet (R154, R155, R173 to R179). -/
def Obligations.EveryStepKeepsThePathLaw : Prop :=
  ∀ s t : State, s.PathLaw → step s = .next t → t.PathLaw

/-- Laws 1 and 2: every step keeps each tuner's stream count equal to the number of its active runs, all on its multiplex (R108,
R112, R118, R128). -/
def Obligations.EveryStepKeepsRunsOnTheirTuners : Prop :=
  ∀ s t : State, s.RunLaw → step s = .next t → t.RunLaw

/-- Laws 1 to 3: every step keeps the stream counts within the caps in force, at most one viewer, tuner B idle in SINGLE mode,
and in TWIN_LOOPED mode equal feed groups on two busy tuners (R23, R127, R129 to R132, R137). -/
def Obligations.EveryStepKeepsTheTunerLaw : Prop :=
  ∀ s t : State, s.RunLaw ∧ s.StartUpLaw ∧ s.TunerLaw → step s = .next t → t.RunLaw ∧ t.StartUpLaw ∧ t.TunerLaw

/-- The machine right after reset keeps every law that the steps keep. -/
def Obligations.ResetStateKeepsTheLaws : Prop :=
  State.reset.TablesFit ∧ State.reset.ListsFit ∧ State.reset.ClockInRange ∧ State.reset.MirrorsCanonical
    ∧ State.reset.ClassTableLaw ∧ State.reset.LayoutLaw ∧ State.reset.TablesLaw ∧ State.reset.PathLaw
    ∧ State.reset.RunLaw ∧ State.reset.StartUpLaw ∧ State.reset.TunerLaw ∧ State.reset.StickyLaw ∧ State.reset.EventsLaw
end

