-- ==== Sys2Proof/Laws/State.lean ====
section
/-! SUPPORT. One lemma per field per update of State: what each plain update leaves alone, so that no later proof unfolds a
record update. -/

namespace Sys2Proof.Machine

@[simp] theorem State.clearPorts_pins (s : State) : s.clearPorts.pins = s.pins := rfl
@[simp] theorem State.clearPorts_fpx (s : State) : s.clearPorts.fpx = s.fpx := rfl
@[simp] theorem State.clearPorts_rst (s : State) : s.clearPorts.rst = s.rst := rfl
@[simp] theorem State.clearPorts_gmx (s : State) : s.clearPorts.gmx = s.gmx := rfl
@[simp] theorem State.clearPorts_ser (s : State) : s.clearPorts.ser = s.ser := rfl
@[simp] theorem State.clearPorts_pln (s : State) : s.clearPorts.pln = s.pln := rfl
@[simp] theorem State.clearPorts_clk (s : State) : s.clearPorts.clk = s.clk := rfl
@[simp] theorem State.clearPorts_run (s : State) : s.clearPorts.run = s.run := rfl
@[simp] theorem State.clearPorts_tun (s : State) : s.clearPorts.tun = s.tun := rfl
@[simp] theorem State.clearPorts_rep (s : State) : s.clearPorts.rep = s.rep := rfl
@[simp] theorem State.clearPorts_pwc (s : State) : s.clearPorts.pwc = s.pwc := rfl
@[simp] theorem State.clearPorts_freeCount (s : State) : s.clearPorts.freeCount = s.freeCount := rfl
@[simp] theorem State.clearPorts_pending (s : State) : s.clearPorts.pending = s.pending := rfl

@[simp] theorem State.flashPort_pins (s : State) (op : FlashOp) : (s.flashPort op).pins = s.pins := rfl
@[simp] theorem State.flashPort_fpx (s : State) (op : FlashOp) : (s.flashPort op).fpx = s.fpx := rfl
@[simp] theorem State.flashPort_rst (s : State) (op : FlashOp) : (s.flashPort op).rst = s.rst := rfl
@[simp] theorem State.flashPort_gmx (s : State) (op : FlashOp) : (s.flashPort op).gmx = s.gmx := rfl
@[simp] theorem State.flashPort_ser (s : State) (op : FlashOp) : (s.flashPort op).ser = s.ser := rfl
@[simp] theorem State.flashPort_pln (s : State) (op : FlashOp) : (s.flashPort op).pln = s.pln := rfl
@[simp] theorem State.flashPort_clk (s : State) (op : FlashOp) : (s.flashPort op).clk = s.clk := rfl
@[simp] theorem State.flashPort_run (s : State) (op : FlashOp) : (s.flashPort op).run = s.run := rfl
@[simp] theorem State.flashPort_tun (s : State) (op : FlashOp) : (s.flashPort op).tun = s.tun := rfl
@[simp] theorem State.flashPort_rep (s : State) (op : FlashOp) : (s.flashPort op).rep = s.rep := rfl
@[simp] theorem State.flashPort_pwc (s : State) (op : FlashOp) : (s.flashPort op).pwc = s.pwc := rfl
@[simp] theorem State.flashPort_freeCount (s : State) (op : FlashOp) : (s.flashPort op).freeCount = s.freeCount := rfl
@[simp] theorem State.flashPort_pending (s : State) (op : FlashOp) : (s.flashPort op).pending = s.pending := rfl

@[simp] theorem State.socPort_pins (s : State) (bytes : List (Option Byte)) : (s.socPort bytes).pins = s.pins := rfl
@[simp] theorem State.socPort_fpx (s : State) (bytes : List (Option Byte)) : (s.socPort bytes).fpx = s.fpx := rfl
@[simp] theorem State.socPort_rst (s : State) (bytes : List (Option Byte)) : (s.socPort bytes).rst = s.rst := rfl
@[simp] theorem State.socPort_gmx (s : State) (bytes : List (Option Byte)) : (s.socPort bytes).gmx = s.gmx := rfl
@[simp] theorem State.socPort_ser (s : State) (bytes : List (Option Byte)) : (s.socPort bytes).ser = s.ser := rfl
@[simp] theorem State.socPort_pln (s : State) (bytes : List (Option Byte)) : (s.socPort bytes).pln = s.pln := rfl
@[simp] theorem State.socPort_clk (s : State) (bytes : List (Option Byte)) : (s.socPort bytes).clk = s.clk := rfl
@[simp] theorem State.socPort_run (s : State) (bytes : List (Option Byte)) : (s.socPort bytes).run = s.run := rfl
@[simp] theorem State.socPort_tun (s : State) (bytes : List (Option Byte)) : (s.socPort bytes).tun = s.tun := rfl
@[simp] theorem State.socPort_rep (s : State) (bytes : List (Option Byte)) : (s.socPort bytes).rep = s.rep := rfl
@[simp] theorem State.socPort_pwc (s : State) (bytes : List (Option Byte)) : (s.socPort bytes).pwc = s.pwc := rfl
@[simp] theorem State.socPort_freeCount (s : State) (bytes : List (Option Byte)) : (s.socPort bytes).freeCount = s.freeCount := rfl
@[simp] theorem State.socPort_pending (s : State) (bytes : List (Option Byte)) : (s.socPort bytes).pending = s.pending := rfl

@[simp] theorem State.ownCode_pins (s : State) (code : Byte) : (s.ownCode code).pins = s.pins := rfl
@[simp] theorem State.ownCode_fpx (s : State) (code : Byte) : (s.ownCode code).fpx = s.fpx := rfl
@[simp] theorem State.ownCode_rst (s : State) (code : Byte) : (s.ownCode code).rst = s.rst := rfl
@[simp] theorem State.ownCode_gmx (s : State) (code : Byte) : (s.ownCode code).gmx = s.gmx := rfl
@[simp] theorem State.ownCode_ser (s : State) (code : Byte) : (s.ownCode code).ser = s.ser := rfl
@[simp] theorem State.ownCode_pln (s : State) (code : Byte) : (s.ownCode code).pln = s.pln := rfl
@[simp] theorem State.ownCode_clk (s : State) (code : Byte) : (s.ownCode code).clk = s.clk := rfl
@[simp] theorem State.ownCode_run (s : State) (code : Byte) : (s.ownCode code).run = s.run := rfl
@[simp] theorem State.ownCode_tun (s : State) (code : Byte) : (s.ownCode code).tun = s.tun := rfl
@[simp] theorem State.ownCode_rep (s : State) (code : Byte) : (s.ownCode code).rep = s.rep := rfl
@[simp] theorem State.ownCode_pwc (s : State) (code : Byte) : (s.ownCode code).pwc = s.pwc := rfl
@[simp] theorem State.ownCode_freeCount (s : State) (code : Byte) : (s.ownCode code).freeCount = s.freeCount := rfl
@[simp] theorem State.ownCode_pending (s : State) (code : Byte) : (s.ownCode code).pending = s.pending := rfl

@[simp] theorem State.forward_pins (s : State) (sel : Selection) : (s.forward sel).pins = s.pins := rfl
@[simp] theorem State.forward_fpx (s : State) (sel : Selection) : (s.forward sel).fpx = s.fpx := rfl
@[simp] theorem State.forward_rst (s : State) (sel : Selection) : (s.forward sel).rst = s.rst := rfl
@[simp] theorem State.forward_gmx (s : State) (sel : Selection) : (s.forward sel).gmx = s.gmx := rfl
@[simp] theorem State.forward_ser (s : State) (sel : Selection) : (s.forward sel).ser = s.ser := rfl
@[simp] theorem State.forward_pln (s : State) (sel : Selection) : (s.forward sel).pln = s.pln := rfl
@[simp] theorem State.forward_clk (s : State) (sel : Selection) : (s.forward sel).clk = s.clk := rfl
@[simp] theorem State.forward_run (s : State) (sel : Selection) : (s.forward sel).run = s.run := rfl
@[simp] theorem State.forward_tun (s : State) (sel : Selection) : (s.forward sel).tun = s.tun := rfl
@[simp] theorem State.forward_rep (s : State) (sel : Selection) : (s.forward sel).rep = s.rep := rfl
@[simp] theorem State.forward_pwc (s : State) (sel : Selection) : (s.forward sel).pwc = s.pwc := rfl
@[simp] theorem State.forward_freeCount (s : State) (sel : Selection) : (s.forward sel).freeCount = s.freeCount := rfl
@[simp] theorem State.forward_pending (s : State) (sel : Selection) : (s.forward sel).pending = s.pending := rfl

@[simp] theorem State.cut_pins (s : State) (code : Byte) : (s.cut code).pins = s.pins := rfl
@[simp] theorem State.cut_fpx (s : State) (code : Byte) : (s.cut code).fpx = s.fpx := rfl
@[simp] theorem State.cut_rst (s : State) (code : Byte) : (s.cut code).rst = s.rst := rfl
@[simp] theorem State.cut_gmx (s : State) (code : Byte) : (s.cut code).gmx = s.gmx := rfl
@[simp] theorem State.cut_ser (s : State) (code : Byte) : (s.cut code).ser = s.ser := rfl
@[simp] theorem State.cut_pln (s : State) (code : Byte) : (s.cut code).pln = s.pln := rfl
@[simp] theorem State.cut_clk (s : State) (code : Byte) : (s.cut code).clk = s.clk := rfl
@[simp] theorem State.cut_run (s : State) (code : Byte) : (s.cut code).run = s.run := rfl
@[simp] theorem State.cut_tun (s : State) (code : Byte) : (s.cut code).tun = s.tun := rfl
@[simp] theorem State.cut_rep (s : State) (code : Byte) : (s.cut code).rep = s.rep := rfl
@[simp] theorem State.cut_pwc (s : State) (code : Byte) : (s.cut code).pwc = s.pwc := rfl
@[simp] theorem State.cut_freeCount (s : State) (code : Byte) : (s.cut code).freeCount = s.freeCount := rfl
@[simp] theorem State.cut_pending (s : State) (code : Byte) : (s.cut code).pending = s.pending := rfl

@[simp] theorem State.disarm_pins (s : State) : s.disarm.pins = s.pins := rfl
@[simp] theorem State.disarm_rst (s : State) : s.disarm.rst = s.rst := rfl
@[simp] theorem State.disarm_gmx (s : State) : s.disarm.gmx = s.gmx := rfl
@[simp] theorem State.disarm_ser (s : State) : s.disarm.ser = s.ser := rfl
@[simp] theorem State.disarm_pln (s : State) : s.disarm.pln = s.pln := rfl
@[simp] theorem State.disarm_clk (s : State) : s.disarm.clk = s.clk := rfl
@[simp] theorem State.disarm_run (s : State) : s.disarm.run = s.run := rfl
@[simp] theorem State.disarm_tun (s : State) : s.disarm.tun = s.tun := rfl
@[simp] theorem State.disarm_rep (s : State) : s.disarm.rep = s.rep := rfl
@[simp] theorem State.disarm_pwc (s : State) : s.disarm.pwc = s.pwc := rfl
@[simp] theorem State.disarm_ports (s : State) : s.disarm.ports = s.ports := rfl
@[simp] theorem State.disarm_freeCount (s : State) : s.disarm.freeCount = s.freeCount := rfl
@[simp] theorem State.disarm_pending (s : State) : s.disarm.pending = s.pending := rfl

@[simp] theorem State.takePath_pins (s : State) : s.takePath.pins = s.pins := rfl
@[simp] theorem State.takePath_rst (s : State) : s.takePath.rst = s.rst := rfl
@[simp] theorem State.takePath_gmx (s : State) : s.takePath.gmx = s.gmx := rfl
@[simp] theorem State.takePath_ser (s : State) : s.takePath.ser = s.ser := rfl
@[simp] theorem State.takePath_pln (s : State) : s.takePath.pln = s.pln := rfl
@[simp] theorem State.takePath_clk (s : State) : s.takePath.clk = s.clk := rfl
@[simp] theorem State.takePath_run (s : State) : s.takePath.run = s.run := rfl
@[simp] theorem State.takePath_tun (s : State) : s.takePath.tun = s.tun := rfl
@[simp] theorem State.takePath_rep (s : State) : s.takePath.rep = s.rep := rfl
@[simp] theorem State.takePath_pwc (s : State) : s.takePath.pwc = s.pwc := rfl
@[simp] theorem State.takePath_ports (s : State) : s.takePath.ports = s.ports := rfl
@[simp] theorem State.takePath_freeCount (s : State) : s.takePath.freeCount = s.freeCount := rfl
@[simp] theorem State.takePath_pending (s : State) : s.takePath.pending = s.pending := rfl

@[simp] theorem State.enterWrite_pins (s : State) (kind : WriteKind) (r : FlashRange) : (s.enterWrite kind r).pins = s.pins := rfl
@[simp] theorem State.enterWrite_rst (s : State) (kind : WriteKind) (r : FlashRange) : (s.enterWrite kind r).rst = s.rst := rfl
@[simp] theorem State.enterWrite_gmx (s : State) (kind : WriteKind) (r : FlashRange) : (s.enterWrite kind r).gmx = s.gmx := rfl
@[simp] theorem State.enterWrite_ser (s : State) (kind : WriteKind) (r : FlashRange) : (s.enterWrite kind r).ser = s.ser := rfl
@[simp] theorem State.enterWrite_pln (s : State) (kind : WriteKind) (r : FlashRange) : (s.enterWrite kind r).pln = s.pln := rfl
@[simp] theorem State.enterWrite_clk (s : State) (kind : WriteKind) (r : FlashRange) : (s.enterWrite kind r).clk = s.clk := rfl
@[simp] theorem State.enterWrite_run (s : State) (kind : WriteKind) (r : FlashRange) : (s.enterWrite kind r).run = s.run := rfl
@[simp] theorem State.enterWrite_tun (s : State) (kind : WriteKind) (r : FlashRange) : (s.enterWrite kind r).tun = s.tun := rfl
@[simp] theorem State.enterWrite_rep (s : State) (kind : WriteKind) (r : FlashRange) : (s.enterWrite kind r).rep = s.rep := rfl
@[simp] theorem State.enterWrite_pwc (s : State) (kind : WriteKind) (r : FlashRange) : (s.enterWrite kind r).pwc = s.pwc := rfl
@[simp] theorem State.enterWrite_ports (s : State) (kind : WriteKind) (r : FlashRange) : (s.enterWrite kind r).ports = s.ports := rfl
@[simp] theorem State.enterWrite_freeCount (s : State) (kind : WriteKind) (r : FlashRange) : (s.enterWrite kind r).freeCount = s.freeCount := rfl
@[simp] theorem State.enterWrite_pending (s : State) (kind : WriteKind) (r : FlashRange) : (s.enterWrite kind r).pending = s.pending := rfl

@[simp] theorem State.detach_pins (s : State) : s.detach.pins = s.pins := rfl
@[simp] theorem State.detach_rst (s : State) : s.detach.rst = s.rst := rfl
@[simp] theorem State.detach_gmx (s : State) : s.detach.gmx = s.gmx := rfl
@[simp] theorem State.detach_ser (s : State) : s.detach.ser = s.ser := rfl
@[simp] theorem State.detach_pln (s : State) : s.detach.pln = s.pln := rfl
@[simp] theorem State.detach_clk (s : State) : s.detach.clk = s.clk := rfl
@[simp] theorem State.detach_run (s : State) : s.detach.run = s.run := rfl
@[simp] theorem State.detach_tun (s : State) : s.detach.tun = s.tun := rfl
@[simp] theorem State.detach_rep (s : State) : s.detach.rep = s.rep := rfl
@[simp] theorem State.detach_pwc (s : State) : s.detach.pwc = s.pwc := rfl
@[simp] theorem State.detach_ports (s : State) : s.detach.ports = s.ports := rfl
@[simp] theorem State.detach_freeCount (s : State) : s.detach.freeCount = s.freeCount := rfl
@[simp] theorem State.detach_pending (s : State) : s.detach.pending = s.pending := rfl

@[simp] theorem State.raise_pins (s : State) (f : Flag) : (s.raise f).pins = s.pins := rfl
@[simp] theorem State.raise_fpx (s : State) (f : Flag) : (s.raise f).fpx = s.fpx := rfl
@[simp] theorem State.raise_rst (s : State) (f : Flag) : (s.raise f).rst = s.rst := rfl
@[simp] theorem State.raise_gmx (s : State) (f : Flag) : (s.raise f).gmx = s.gmx := rfl
@[simp] theorem State.raise_ser (s : State) (f : Flag) : (s.raise f).ser = s.ser := rfl
@[simp] theorem State.raise_pln (s : State) (f : Flag) : (s.raise f).pln = s.pln := rfl
@[simp] theorem State.raise_clk (s : State) (f : Flag) : (s.raise f).clk = s.clk := rfl
@[simp] theorem State.raise_run (s : State) (f : Flag) : (s.raise f).run = s.run := rfl
@[simp] theorem State.raise_tun (s : State) (f : Flag) : (s.raise f).tun = s.tun := rfl
@[simp] theorem State.raise_pwc (s : State) (f : Flag) : (s.raise f).pwc = s.pwc := rfl
@[simp] theorem State.raise_ports (s : State) (f : Flag) : (s.raise f).ports = s.ports := rfl
@[simp] theorem State.raise_freeCount (s : State) (f : Flag) : (s.raise f).freeCount = s.freeCount := rfl
@[simp] theorem State.raise_pending (s : State) (f : Flag) : (s.raise f).pending = s.pending := rfl

@[simp] theorem State.clearSticky_pins (s : State) (mask : BitVec 16) : (s.clearSticky mask).pins = s.pins := rfl
@[simp] theorem State.clearSticky_fpx (s : State) (mask : BitVec 16) : (s.clearSticky mask).fpx = s.fpx := rfl
@[simp] theorem State.clearSticky_rst (s : State) (mask : BitVec 16) : (s.clearSticky mask).rst = s.rst := rfl
@[simp] theorem State.clearSticky_gmx (s : State) (mask : BitVec 16) : (s.clearSticky mask).gmx = s.gmx := rfl
@[simp] theorem State.clearSticky_ser (s : State) (mask : BitVec 16) : (s.clearSticky mask).ser = s.ser := rfl
@[simp] theorem State.clearSticky_pln (s : State) (mask : BitVec 16) : (s.clearSticky mask).pln = s.pln := rfl
@[simp] theorem State.clearSticky_clk (s : State) (mask : BitVec 16) : (s.clearSticky mask).clk = s.clk := rfl
@[simp] theorem State.clearSticky_run (s : State) (mask : BitVec 16) : (s.clearSticky mask).run = s.run := rfl
@[simp] theorem State.clearSticky_tun (s : State) (mask : BitVec 16) : (s.clearSticky mask).tun = s.tun := rfl
@[simp] theorem State.clearSticky_pwc (s : State) (mask : BitVec 16) : (s.clearSticky mask).pwc = s.pwc := rfl
@[simp] theorem State.clearSticky_ports (s : State) (mask : BitVec 16) : (s.clearSticky mask).ports = s.ports := rfl
@[simp] theorem State.clearSticky_freeCount (s : State) (mask : BitVec 16) : (s.clearSticky mask).freeCount = s.freeCount := rfl
@[simp] theorem State.clearSticky_pending (s : State) (mask : BitVec 16) : (s.clearSticky mask).pending = s.pending := rfl

@[simp] theorem State.loadLatch_pins (s : State) : s.loadLatch.pins = s.pins := rfl
@[simp] theorem State.loadLatch_fpx (s : State) : s.loadLatch.fpx = s.fpx := rfl
@[simp] theorem State.loadLatch_rst (s : State) : s.loadLatch.rst = s.rst := rfl
@[simp] theorem State.loadLatch_gmx (s : State) : s.loadLatch.gmx = s.gmx := rfl
@[simp] theorem State.loadLatch_ser (s : State) : s.loadLatch.ser = s.ser := rfl
@[simp] theorem State.loadLatch_pln (s : State) : s.loadLatch.pln = s.pln := rfl
@[simp] theorem State.loadLatch_clk (s : State) : s.loadLatch.clk = s.clk := rfl
@[simp] theorem State.loadLatch_run (s : State) : s.loadLatch.run = s.run := rfl
@[simp] theorem State.loadLatch_tun (s : State) : s.loadLatch.tun = s.tun := rfl
@[simp] theorem State.loadLatch_pwc (s : State) : s.loadLatch.pwc = s.pwc := rfl
@[simp] theorem State.loadLatch_ports (s : State) : s.loadLatch.ports = s.ports := rfl
@[simp] theorem State.loadLatch_freeCount (s : State) : s.loadLatch.freeCount = s.freeCount := rfl
@[simp] theorem State.loadLatch_pending (s : State) : s.loadLatch.pending = s.pending := rfl

@[simp] theorem State.addHistory_pins (s : State) (e : HistoryEntry) : (s.addHistory e).pins = s.pins := rfl
@[simp] theorem State.addHistory_fpx (s : State) (e : HistoryEntry) : (s.addHistory e).fpx = s.fpx := rfl
@[simp] theorem State.addHistory_rst (s : State) (e : HistoryEntry) : (s.addHistory e).rst = s.rst := rfl
@[simp] theorem State.addHistory_gmx (s : State) (e : HistoryEntry) : (s.addHistory e).gmx = s.gmx := rfl
@[simp] theorem State.addHistory_ser (s : State) (e : HistoryEntry) : (s.addHistory e).ser = s.ser := rfl
@[simp] theorem State.addHistory_pln (s : State) (e : HistoryEntry) : (s.addHistory e).pln = s.pln := rfl
@[simp] theorem State.addHistory_clk (s : State) (e : HistoryEntry) : (s.addHistory e).clk = s.clk := rfl
@[simp] theorem State.addHistory_tun (s : State) (e : HistoryEntry) : (s.addHistory e).tun = s.tun := rfl
@[simp] theorem State.addHistory_rep (s : State) (e : HistoryEntry) : (s.addHistory e).rep = s.rep := rfl
@[simp] theorem State.addHistory_pwc (s : State) (e : HistoryEntry) : (s.addHistory e).pwc = s.pwc := rfl
@[simp] theorem State.addHistory_ports (s : State) (e : HistoryEntry) : (s.addHistory e).ports = s.ports := rfl
@[simp] theorem State.addHistory_freeCount (s : State) (e : HistoryEntry) : (s.addHistory e).freeCount = s.freeCount := rfl
@[simp] theorem State.addHistory_pending (s : State) (e : HistoryEntry) : (s.addHistory e).pending = s.pending := rfl

@[simp] theorem State.addEndState_pins (s : State) (e : EndState) : (s.addEndState e).pins = s.pins := rfl
@[simp] theorem State.addEndState_fpx (s : State) (e : EndState) : (s.addEndState e).fpx = s.fpx := rfl
@[simp] theorem State.addEndState_rst (s : State) (e : EndState) : (s.addEndState e).rst = s.rst := rfl
@[simp] theorem State.addEndState_gmx (s : State) (e : EndState) : (s.addEndState e).gmx = s.gmx := rfl
@[simp] theorem State.addEndState_ser (s : State) (e : EndState) : (s.addEndState e).ser = s.ser := rfl
@[simp] theorem State.addEndState_pln (s : State) (e : EndState) : (s.addEndState e).pln = s.pln := rfl
@[simp] theorem State.addEndState_clk (s : State) (e : EndState) : (s.addEndState e).clk = s.clk := rfl
@[simp] theorem State.addEndState_tun (s : State) (e : EndState) : (s.addEndState e).tun = s.tun := rfl
@[simp] theorem State.addEndState_rep (s : State) (e : EndState) : (s.addEndState e).rep = s.rep := rfl
@[simp] theorem State.addEndState_pwc (s : State) (e : EndState) : (s.addEndState e).pwc = s.pwc := rfl
@[simp] theorem State.addEndState_ports (s : State) (e : EndState) : (s.addEndState e).ports = s.ports := rfl
@[simp] theorem State.addEndState_freeCount (s : State) (e : EndState) : (s.addEndState e).freeCount = s.freeCount := rfl
@[simp] theorem State.addEndState_pending (s : State) (e : EndState) : (s.addEndState e).pending = s.pending := rfl

@[simp] theorem State.clearEndState_pins (s : State) (b : BookingRec) : (s.clearEndState b).pins = s.pins := rfl
@[simp] theorem State.clearEndState_fpx (s : State) (b : BookingRec) : (s.clearEndState b).fpx = s.fpx := rfl
@[simp] theorem State.clearEndState_rst (s : State) (b : BookingRec) : (s.clearEndState b).rst = s.rst := rfl
@[simp] theorem State.clearEndState_gmx (s : State) (b : BookingRec) : (s.clearEndState b).gmx = s.gmx := rfl
@[simp] theorem State.clearEndState_ser (s : State) (b : BookingRec) : (s.clearEndState b).ser = s.ser := rfl
@[simp] theorem State.clearEndState_pln (s : State) (b : BookingRec) : (s.clearEndState b).pln = s.pln := rfl
@[simp] theorem State.clearEndState_clk (s : State) (b : BookingRec) : (s.clearEndState b).clk = s.clk := rfl
@[simp] theorem State.clearEndState_tun (s : State) (b : BookingRec) : (s.clearEndState b).tun = s.tun := rfl
@[simp] theorem State.clearEndState_rep (s : State) (b : BookingRec) : (s.clearEndState b).rep = s.rep := rfl
@[simp] theorem State.clearEndState_pwc (s : State) (b : BookingRec) : (s.clearEndState b).pwc = s.pwc := rfl
@[simp] theorem State.clearEndState_ports (s : State) (b : BookingRec) : (s.clearEndState b).ports = s.ports := rfl
@[simp] theorem State.clearEndState_freeCount (s : State) (b : BookingRec) : (s.clearEndState b).freeCount = s.freeCount := rfl
@[simp] theorem State.clearEndState_pending (s : State) (b : BookingRec) : (s.clearEndState b).pending = s.pending := rfl

@[simp] theorem State.dropWaiting_pins (s : State) (ref : Nat) : (s.dropWaiting ref).pins = s.pins := rfl
@[simp] theorem State.dropWaiting_fpx (s : State) (ref : Nat) : (s.dropWaiting ref).fpx = s.fpx := rfl
@[simp] theorem State.dropWaiting_rst (s : State) (ref : Nat) : (s.dropWaiting ref).rst = s.rst := rfl
@[simp] theorem State.dropWaiting_gmx (s : State) (ref : Nat) : (s.dropWaiting ref).gmx = s.gmx := rfl
@[simp] theorem State.dropWaiting_ser (s : State) (ref : Nat) : (s.dropWaiting ref).ser = s.ser := rfl
@[simp] theorem State.dropWaiting_pln (s : State) (ref : Nat) : (s.dropWaiting ref).pln = s.pln := rfl
@[simp] theorem State.dropWaiting_clk (s : State) (ref : Nat) : (s.dropWaiting ref).clk = s.clk := rfl
@[simp] theorem State.dropWaiting_tun (s : State) (ref : Nat) : (s.dropWaiting ref).tun = s.tun := rfl
@[simp] theorem State.dropWaiting_rep (s : State) (ref : Nat) : (s.dropWaiting ref).rep = s.rep := rfl
@[simp] theorem State.dropWaiting_pwc (s : State) (ref : Nat) : (s.dropWaiting ref).pwc = s.pwc := rfl
@[simp] theorem State.dropWaiting_ports (s : State) (ref : Nat) : (s.dropWaiting ref).ports = s.ports := rfl
@[simp] theorem State.dropWaiting_freeCount (s : State) (ref : Nat) : (s.dropWaiting ref).freeCount = s.freeCount := rfl
@[simp] theorem State.dropWaiting_pending (s : State) (ref : Nat) : (s.dropWaiting ref).pending = s.pending := rfl

@[simp] theorem State.holdBack_pins (s : State) (ref : Nat) : (s.holdBack ref).pins = s.pins := rfl
@[simp] theorem State.holdBack_fpx (s : State) (ref : Nat) : (s.holdBack ref).fpx = s.fpx := rfl
@[simp] theorem State.holdBack_rst (s : State) (ref : Nat) : (s.holdBack ref).rst = s.rst := rfl
@[simp] theorem State.holdBack_gmx (s : State) (ref : Nat) : (s.holdBack ref).gmx = s.gmx := rfl
@[simp] theorem State.holdBack_ser (s : State) (ref : Nat) : (s.holdBack ref).ser = s.ser := rfl
@[simp] theorem State.holdBack_pln (s : State) (ref : Nat) : (s.holdBack ref).pln = s.pln := rfl
@[simp] theorem State.holdBack_clk (s : State) (ref : Nat) : (s.holdBack ref).clk = s.clk := rfl
@[simp] theorem State.holdBack_tun (s : State) (ref : Nat) : (s.holdBack ref).tun = s.tun := rfl
@[simp] theorem State.holdBack_rep (s : State) (ref : Nat) : (s.holdBack ref).rep = s.rep := rfl
@[simp] theorem State.holdBack_pwc (s : State) (ref : Nat) : (s.holdBack ref).pwc = s.pwc := rfl
@[simp] theorem State.holdBack_ports (s : State) (ref : Nat) : (s.holdBack ref).ports = s.ports := rfl
@[simp] theorem State.holdBack_freeCount (s : State) (ref : Nat) : (s.holdBack ref).freeCount = s.freeCount := rfl
@[simp] theorem State.holdBack_pending (s : State) (ref : Nat) : (s.holdBack ref).pending = s.pending := rfl

@[simp] theorem State.disableB_pins (s : State) : s.disableB.pins = s.pins := rfl
@[simp] theorem State.disableB_fpx (s : State) : s.disableB.fpx = s.fpx := rfl
@[simp] theorem State.disableB_rst (s : State) : s.disableB.rst = s.rst := rfl
@[simp] theorem State.disableB_gmx (s : State) : s.disableB.gmx = s.gmx := rfl
@[simp] theorem State.disableB_ser (s : State) : s.disableB.ser = s.ser := rfl
@[simp] theorem State.disableB_pln (s : State) : s.disableB.pln = s.pln := rfl
@[simp] theorem State.disableB_run (s : State) : s.disableB.run = s.run := rfl
@[simp] theorem State.disableB_tun (s : State) : s.disableB.tun = s.tun := rfl
@[simp] theorem State.disableB_rep (s : State) : s.disableB.rep = s.rep := rfl
@[simp] theorem State.disableB_pwc (s : State) : s.disableB.pwc = s.pwc := rfl
@[simp] theorem State.disableB_ports (s : State) : s.disableB.ports = s.ports := rfl
@[simp] theorem State.disableB_freeCount (s : State) : s.disableB.freeCount = s.freeCount := rfl
@[simp] theorem State.disableB_pending (s : State) : s.disableB.pending = s.pending := rfl

@[simp] theorem State.setRun_pins (s : State) (r : ActiveRun) : (s.setRun r).pins = s.pins := rfl
@[simp] theorem State.setRun_fpx (s : State) (r : ActiveRun) : (s.setRun r).fpx = s.fpx := rfl
@[simp] theorem State.setRun_rst (s : State) (r : ActiveRun) : (s.setRun r).rst = s.rst := rfl
@[simp] theorem State.setRun_gmx (s : State) (r : ActiveRun) : (s.setRun r).gmx = s.gmx := rfl
@[simp] theorem State.setRun_ser (s : State) (r : ActiveRun) : (s.setRun r).ser = s.ser := rfl
@[simp] theorem State.setRun_pln (s : State) (r : ActiveRun) : (s.setRun r).pln = s.pln := rfl
@[simp] theorem State.setRun_clk (s : State) (r : ActiveRun) : (s.setRun r).clk = s.clk := rfl
@[simp] theorem State.setRun_tun (s : State) (r : ActiveRun) : (s.setRun r).tun = s.tun := rfl
@[simp] theorem State.setRun_rep (s : State) (r : ActiveRun) : (s.setRun r).rep = s.rep := rfl
@[simp] theorem State.setRun_pwc (s : State) (r : ActiveRun) : (s.setRun r).pwc = s.pwc := rfl
@[simp] theorem State.setRun_ports (s : State) (r : ActiveRun) : (s.setRun r).ports = s.ports := rfl
@[simp] theorem State.setRun_freeCount (s : State) (r : ActiveRun) : (s.setRun r).freeCount = s.freeCount := rfl
@[simp] theorem State.setRun_pending (s : State) (r : ActiveRun) : (s.setRun r).pending = s.pending := rfl

@[simp] theorem State.rebuildWaiting_pins (s : State) : s.rebuildWaiting.pins = s.pins := rfl
@[simp] theorem State.rebuildWaiting_fpx (s : State) : s.rebuildWaiting.fpx = s.fpx := rfl
@[simp] theorem State.rebuildWaiting_rst (s : State) : s.rebuildWaiting.rst = s.rst := rfl
@[simp] theorem State.rebuildWaiting_gmx (s : State) : s.rebuildWaiting.gmx = s.gmx := rfl
@[simp] theorem State.rebuildWaiting_ser (s : State) : s.rebuildWaiting.ser = s.ser := rfl
@[simp] theorem State.rebuildWaiting_pln (s : State) : s.rebuildWaiting.pln = s.pln := rfl
@[simp] theorem State.rebuildWaiting_clk (s : State) : s.rebuildWaiting.clk = s.clk := rfl
@[simp] theorem State.rebuildWaiting_tun (s : State) : s.rebuildWaiting.tun = s.tun := rfl
@[simp] theorem State.rebuildWaiting_rep (s : State) : s.rebuildWaiting.rep = s.rep := rfl
@[simp] theorem State.rebuildWaiting_pwc (s : State) : s.rebuildWaiting.pwc = s.pwc := rfl
@[simp] theorem State.rebuildWaiting_ports (s : State) : s.rebuildWaiting.ports = s.ports := rfl
@[simp] theorem State.rebuildWaiting_freeCount (s : State) : s.rebuildWaiting.freeCount = s.freeCount := rfl
@[simp] theorem State.rebuildWaiting_pending (s : State) : s.rebuildWaiting.pending = s.pending := rfl

@[simp] theorem State.historyPurge_pins (s : State) : s.historyPurge.pins = s.pins := rfl
@[simp] theorem State.historyPurge_fpx (s : State) : s.historyPurge.fpx = s.fpx := rfl
@[simp] theorem State.historyPurge_rst (s : State) : s.historyPurge.rst = s.rst := rfl
@[simp] theorem State.historyPurge_gmx (s : State) : s.historyPurge.gmx = s.gmx := rfl
@[simp] theorem State.historyPurge_ser (s : State) : s.historyPurge.ser = s.ser := rfl
@[simp] theorem State.historyPurge_pln (s : State) : s.historyPurge.pln = s.pln := rfl
@[simp] theorem State.historyPurge_clk (s : State) : s.historyPurge.clk = s.clk := rfl
@[simp] theorem State.historyPurge_tun (s : State) : s.historyPurge.tun = s.tun := rfl
@[simp] theorem State.historyPurge_rep (s : State) : s.historyPurge.rep = s.rep := rfl
@[simp] theorem State.historyPurge_pwc (s : State) : s.historyPurge.pwc = s.pwc := rfl
@[simp] theorem State.historyPurge_ports (s : State) : s.historyPurge.ports = s.ports := rfl
@[simp] theorem State.historyPurge_freeCount (s : State) : s.historyPurge.freeCount = s.freeCount := rfl
@[simp] theorem State.historyPurge_pending (s : State) : s.historyPurge.pending = s.pending := rfl

@[simp] theorem State.addPending_pins (s : State) (k : PendingKey) : (s.addPending k).pins = s.pins := rfl
@[simp] theorem State.addPending_fpx (s : State) (k : PendingKey) : (s.addPending k).fpx = s.fpx := rfl
@[simp] theorem State.addPending_rst (s : State) (k : PendingKey) : (s.addPending k).rst = s.rst := rfl
@[simp] theorem State.addPending_gmx (s : State) (k : PendingKey) : (s.addPending k).gmx = s.gmx := rfl
@[simp] theorem State.addPending_pln (s : State) (k : PendingKey) : (s.addPending k).pln = s.pln := rfl
@[simp] theorem State.addPending_clk (s : State) (k : PendingKey) : (s.addPending k).clk = s.clk := rfl
@[simp] theorem State.addPending_run (s : State) (k : PendingKey) : (s.addPending k).run = s.run := rfl
@[simp] theorem State.addPending_tun (s : State) (k : PendingKey) : (s.addPending k).tun = s.tun := rfl
@[simp] theorem State.addPending_rep (s : State) (k : PendingKey) : (s.addPending k).rep = s.rep := rfl
@[simp] theorem State.addPending_pwc (s : State) (k : PendingKey) : (s.addPending k).pwc = s.pwc := rfl
@[simp] theorem State.addPending_ports (s : State) (k : PendingKey) : (s.addPending k).ports = s.ports := rfl
@[simp] theorem State.addPending_freeCount (s : State) (k : PendingKey) : (s.addPending k).freeCount = s.freeCount := rfl
@[simp] theorem State.addPending_pending (s : State) (k : PendingKey) : (s.addPending k).pending = s.pending := rfl

@[simp] theorem State.removeUntagged_pins (s : State) : s.removeUntagged.pins = s.pins := rfl
@[simp] theorem State.removeUntagged_fpx (s : State) : s.removeUntagged.fpx = s.fpx := rfl
@[simp] theorem State.removeUntagged_rst (s : State) : s.removeUntagged.rst = s.rst := rfl
@[simp] theorem State.removeUntagged_gmx (s : State) : s.removeUntagged.gmx = s.gmx := rfl
@[simp] theorem State.removeUntagged_pln (s : State) : s.removeUntagged.pln = s.pln := rfl
@[simp] theorem State.removeUntagged_clk (s : State) : s.removeUntagged.clk = s.clk := rfl
@[simp] theorem State.removeUntagged_run (s : State) : s.removeUntagged.run = s.run := rfl
@[simp] theorem State.removeUntagged_tun (s : State) : s.removeUntagged.tun = s.tun := rfl
@[simp] theorem State.removeUntagged_rep (s : State) : s.removeUntagged.rep = s.rep := rfl
@[simp] theorem State.removeUntagged_pwc (s : State) : s.removeUntagged.pwc = s.pwc := rfl
@[simp] theorem State.removeUntagged_ports (s : State) : s.removeUntagged.ports = s.ports := rfl
@[simp] theorem State.removeUntagged_freeCount (s : State) : s.removeUntagged.freeCount = s.freeCount := rfl
@[simp] theorem State.removeUntagged_pending (s : State) : s.removeUntagged.pending = s.pending := rfl

@[simp] theorem State.markEntered_pins (s : State) (m : MarkRec) : (s.markEntered m).pins = s.pins := rfl
@[simp] theorem State.markEntered_fpx (s : State) (m : MarkRec) : (s.markEntered m).fpx = s.fpx := rfl
@[simp] theorem State.markEntered_rst (s : State) (m : MarkRec) : (s.markEntered m).rst = s.rst := rfl
@[simp] theorem State.markEntered_gmx (s : State) (m : MarkRec) : (s.markEntered m).gmx = s.gmx := rfl
@[simp] theorem State.markEntered_pln (s : State) (m : MarkRec) : (s.markEntered m).pln = s.pln := rfl
@[simp] theorem State.markEntered_clk (s : State) (m : MarkRec) : (s.markEntered m).clk = s.clk := rfl
@[simp] theorem State.markEntered_run (s : State) (m : MarkRec) : (s.markEntered m).run = s.run := rfl
@[simp] theorem State.markEntered_tun (s : State) (m : MarkRec) : (s.markEntered m).tun = s.tun := rfl
@[simp] theorem State.markEntered_rep (s : State) (m : MarkRec) : (s.markEntered m).rep = s.rep := rfl
@[simp] theorem State.markEntered_pwc (s : State) (m : MarkRec) : (s.markEntered m).pwc = s.pwc := rfl
@[simp] theorem State.markEntered_ports (s : State) (m : MarkRec) : (s.markEntered m).ports = s.ports := rfl
@[simp] theorem State.markEntered_freeCount (s : State) (m : MarkRec) : (s.markEntered m).freeCount = s.freeCount := rfl
@[simp] theorem State.markEntered_pending (s : State) (m : MarkRec) : (s.markEntered m).pending = s.pending := rfl

@[simp] theorem State.emptyWarned_pins (s : State) : s.emptyWarned.pins = s.pins := rfl
@[simp] theorem State.emptyWarned_fpx (s : State) : s.emptyWarned.fpx = s.fpx := rfl
@[simp] theorem State.emptyWarned_rst (s : State) : s.emptyWarned.rst = s.rst := rfl
@[simp] theorem State.emptyWarned_gmx (s : State) : s.emptyWarned.gmx = s.gmx := rfl
@[simp] theorem State.emptyWarned_ser (s : State) : s.emptyWarned.ser = s.ser := rfl
@[simp] theorem State.emptyWarned_pln (s : State) : s.emptyWarned.pln = s.pln := rfl
@[simp] theorem State.emptyWarned_clk (s : State) : s.emptyWarned.clk = s.clk := rfl
@[simp] theorem State.emptyWarned_run (s : State) : s.emptyWarned.run = s.run := rfl
@[simp] theorem State.emptyWarned_rep (s : State) : s.emptyWarned.rep = s.rep := rfl
@[simp] theorem State.emptyWarned_pwc (s : State) : s.emptyWarned.pwc = s.pwc := rfl
@[simp] theorem State.emptyWarned_ports (s : State) : s.emptyWarned.ports = s.ports := rfl
@[simp] theorem State.emptyWarned_freeCount (s : State) : s.emptyWarned.freeCount = s.freeCount := rfl
@[simp] theorem State.emptyWarned_pending (s : State) : s.emptyWarned.pending = s.pending := rfl

@[simp] theorem State.addWarned_pins (s : State) (ref : Nat) : (s.addWarned ref).pins = s.pins := rfl
@[simp] theorem State.addWarned_fpx (s : State) (ref : Nat) : (s.addWarned ref).fpx = s.fpx := rfl
@[simp] theorem State.addWarned_rst (s : State) (ref : Nat) : (s.addWarned ref).rst = s.rst := rfl
@[simp] theorem State.addWarned_gmx (s : State) (ref : Nat) : (s.addWarned ref).gmx = s.gmx := rfl
@[simp] theorem State.addWarned_ser (s : State) (ref : Nat) : (s.addWarned ref).ser = s.ser := rfl
@[simp] theorem State.addWarned_pln (s : State) (ref : Nat) : (s.addWarned ref).pln = s.pln := rfl
@[simp] theorem State.addWarned_clk (s : State) (ref : Nat) : (s.addWarned ref).clk = s.clk := rfl
@[simp] theorem State.addWarned_run (s : State) (ref : Nat) : (s.addWarned ref).run = s.run := rfl
@[simp] theorem State.addWarned_rep (s : State) (ref : Nat) : (s.addWarned ref).rep = s.rep := rfl
@[simp] theorem State.addWarned_pwc (s : State) (ref : Nat) : (s.addWarned ref).pwc = s.pwc := rfl
@[simp] theorem State.addWarned_ports (s : State) (ref : Nat) : (s.addWarned ref).ports = s.ports := rfl
@[simp] theorem State.addWarned_freeCount (s : State) (ref : Nat) : (s.addWarned ref).freeCount = s.freeCount := rfl
@[simp] theorem State.addWarned_pending (s : State) (ref : Nat) : (s.addWarned ref).pending = s.pending := rfl

@[simp] theorem State.releaseRun_pins (s : State) (r : ActiveRun) : (s.releaseRun r).pins = s.pins := rfl
@[simp] theorem State.releaseRun_fpx (s : State) (r : ActiveRun) : (s.releaseRun r).fpx = s.fpx := rfl
@[simp] theorem State.releaseRun_rst (s : State) (r : ActiveRun) : (s.releaseRun r).rst = s.rst := rfl
@[simp] theorem State.releaseRun_gmx (s : State) (r : ActiveRun) : (s.releaseRun r).gmx = s.gmx := rfl
@[simp] theorem State.releaseRun_ser (s : State) (r : ActiveRun) : (s.releaseRun r).ser = s.ser := rfl
@[simp] theorem State.releaseRun_pln (s : State) (r : ActiveRun) : (s.releaseRun r).pln = s.pln := rfl
@[simp] theorem State.releaseRun_clk (s : State) (r : ActiveRun) : (s.releaseRun r).clk = s.clk := rfl
@[simp] theorem State.releaseRun_rep (s : State) (r : ActiveRun) : (s.releaseRun r).rep = s.rep := rfl
@[simp] theorem State.releaseRun_pwc (s : State) (r : ActiveRun) : (s.releaseRun r).pwc = s.pwc := rfl
@[simp] theorem State.releaseRun_ports (s : State) (r : ActiveRun) : (s.releaseRun r).ports = s.ports := rfl
@[simp] theorem State.releaseRun_freeCount (s : State) (r : ActiveRun) : (s.releaseRun r).freeCount = s.freeCount := rfl
@[simp] theorem State.releaseRun_pending (s : State) (r : ActiveRun) : (s.releaseRun r).pending = s.pending := rfl

@[simp] theorem State.markStale_pins (s : State) : s.markStale.pins = s.pins := rfl
@[simp] theorem State.markStale_fpx (s : State) : s.markStale.fpx = s.fpx := rfl
@[simp] theorem State.markStale_rst (s : State) : s.markStale.rst = s.rst := rfl
@[simp] theorem State.markStale_gmx (s : State) : s.markStale.gmx = s.gmx := rfl
@[simp] theorem State.markStale_ser (s : State) : s.markStale.ser = s.ser := rfl
@[simp] theorem State.markStale_clk (s : State) : s.markStale.clk = s.clk := rfl
@[simp] theorem State.markStale_run (s : State) : s.markStale.run = s.run := rfl
@[simp] theorem State.markStale_tun (s : State) : s.markStale.tun = s.tun := rfl
@[simp] theorem State.markStale_rep (s : State) : s.markStale.rep = s.rep := rfl
@[simp] theorem State.markStale_pwc (s : State) : s.markStale.pwc = s.pwc := rfl
@[simp] theorem State.markStale_ports (s : State) : s.markStale.ports = s.ports := rfl
@[simp] theorem State.markStale_freeCount (s : State) : s.markStale.freeCount = s.freeCount := rfl
@[simp] theorem State.markStale_pending (s : State) : s.markStale.pending = s.pending := rfl

@[simp] theorem State.setEntries_pins (s : State) (es : List MatchedEntry) : (s.setEntries es).pins = s.pins := rfl
@[simp] theorem State.setEntries_fpx (s : State) (es : List MatchedEntry) : (s.setEntries es).fpx = s.fpx := rfl
@[simp] theorem State.setEntries_rst (s : State) (es : List MatchedEntry) : (s.setEntries es).rst = s.rst := rfl
@[simp] theorem State.setEntries_ser (s : State) (es : List MatchedEntry) : (s.setEntries es).ser = s.ser := rfl
@[simp] theorem State.setEntries_pln (s : State) (es : List MatchedEntry) : (s.setEntries es).pln = s.pln := rfl
@[simp] theorem State.setEntries_clk (s : State) (es : List MatchedEntry) : (s.setEntries es).clk = s.clk := rfl
@[simp] theorem State.setEntries_run (s : State) (es : List MatchedEntry) : (s.setEntries es).run = s.run := rfl
@[simp] theorem State.setEntries_tun (s : State) (es : List MatchedEntry) : (s.setEntries es).tun = s.tun := rfl
@[simp] theorem State.setEntries_rep (s : State) (es : List MatchedEntry) : (s.setEntries es).rep = s.rep := rfl
@[simp] theorem State.setEntries_pwc (s : State) (es : List MatchedEntry) : (s.setEntries es).pwc = s.pwc := rfl
@[simp] theorem State.setEntries_ports (s : State) (es : List MatchedEntry) : (s.setEntries es).ports = s.ports := rfl
@[simp] theorem State.setEntries_freeCount (s : State) (es : List MatchedEntry) : (s.setEntries es).freeCount = s.freeCount := rfl
@[simp] theorem State.setEntries_pending (s : State) (es : List MatchedEntry) : (s.setEntries es).pending = s.pending := rfl

@[simp] theorem State.doubtGuideSector_pins (s : State) (sector : Nat) : (s.doubtGuideSector sector).pins = s.pins := rfl
@[simp] theorem State.doubtGuideSector_fpx (s : State) (sector : Nat) : (s.doubtGuideSector sector).fpx = s.fpx := rfl
@[simp] theorem State.doubtGuideSector_ser (s : State) (sector : Nat) : (s.doubtGuideSector sector).ser = s.ser := rfl
@[simp] theorem State.doubtGuideSector_pln (s : State) (sector : Nat) : (s.doubtGuideSector sector).pln = s.pln := rfl
@[simp] theorem State.doubtGuideSector_clk (s : State) (sector : Nat) : (s.doubtGuideSector sector).clk = s.clk := rfl
@[simp] theorem State.doubtGuideSector_run (s : State) (sector : Nat) : (s.doubtGuideSector sector).run = s.run := rfl
@[simp] theorem State.doubtGuideSector_tun (s : State) (sector : Nat) : (s.doubtGuideSector sector).tun = s.tun := rfl
@[simp] theorem State.doubtGuideSector_rep (s : State) (sector : Nat) : (s.doubtGuideSector sector).rep = s.rep := rfl
@[simp] theorem State.doubtGuideSector_pwc (s : State) (sector : Nat) : (s.doubtGuideSector sector).pwc = s.pwc := rfl
@[simp] theorem State.doubtGuideSector_ports (s : State) (sector : Nat) : (s.doubtGuideSector sector).ports = s.ports := rfl
@[simp] theorem State.doubtGuideSector_freeCount (s : State) (sector : Nat) : (s.doubtGuideSector sector).freeCount = s.freeCount := rfl
@[simp] theorem State.doubtGuideSector_pending (s : State) (sector : Nat) : (s.doubtGuideSector sector).pending = s.pending := rfl

@[simp] theorem State.endWake_pins (s : State) : s.endWake.pins = s.pins := rfl
@[simp] theorem State.endWake_fpx (s : State) : s.endWake.fpx = s.fpx := rfl
@[simp] theorem State.endWake_rst (s : State) : s.endWake.rst = s.rst := rfl
@[simp] theorem State.endWake_gmx (s : State) : s.endWake.gmx = s.gmx := rfl
@[simp] theorem State.endWake_ser (s : State) : s.endWake.ser = s.ser := rfl
@[simp] theorem State.endWake_pln (s : State) : s.endWake.pln = s.pln := rfl
@[simp] theorem State.endWake_clk (s : State) : s.endWake.clk = s.clk := rfl
@[simp] theorem State.endWake_run (s : State) : s.endWake.run = s.run := rfl
@[simp] theorem State.endWake_tun (s : State) : s.endWake.tun = s.tun := rfl
@[simp] theorem State.endWake_rep (s : State) : s.endWake.rep = s.rep := rfl
@[simp] theorem State.endWake_ports (s : State) : s.endWake.ports = s.ports := rfl
@[simp] theorem State.endWake_freeCount (s : State) : s.endWake.freeCount = s.freeCount := rfl
@[simp] theorem State.endWake_pending (s : State) : s.endWake.pending = s.pending := rfl

@[simp] theorem State.disableChannel_pins (s : State) (c : Channel) : (s.disableChannel c).pins = s.pins := rfl
@[simp] theorem State.disableChannel_fpx (s : State) (c : Channel) : (s.disableChannel c).fpx = s.fpx := rfl
@[simp] theorem State.disableChannel_rst (s : State) (c : Channel) : (s.disableChannel c).rst = s.rst := rfl
@[simp] theorem State.disableChannel_gmx (s : State) (c : Channel) : (s.disableChannel c).gmx = s.gmx := rfl
@[simp] theorem State.disableChannel_ser (s : State) (c : Channel) : (s.disableChannel c).ser = s.ser := rfl
@[simp] theorem State.disableChannel_pln (s : State) (c : Channel) : (s.disableChannel c).pln = s.pln := rfl
@[simp] theorem State.disableChannel_run (s : State) (c : Channel) : (s.disableChannel c).run = s.run := rfl
@[simp] theorem State.disableChannel_tun (s : State) (c : Channel) : (s.disableChannel c).tun = s.tun := rfl
@[simp] theorem State.disableChannel_rep (s : State) (c : Channel) : (s.disableChannel c).rep = s.rep := rfl
@[simp] theorem State.disableChannel_pwc (s : State) (c : Channel) : (s.disableChannel c).pwc = s.pwc := rfl
@[simp] theorem State.disableChannel_ports (s : State) (c : Channel) : (s.disableChannel c).ports = s.ports := rfl
@[simp] theorem State.disableChannel_freeCount (s : State) (c : Channel) : (s.disableChannel c).freeCount = s.freeCount := rfl
@[simp] theorem State.disableChannel_pending (s : State) (c : Channel) : (s.disableChannel c).pending = s.pending := rfl

@[simp] theorem State.loadChannel_pins (s : State) (c : Channel) (value : Nat) : (s.loadChannel c value).pins = s.pins := rfl
@[simp] theorem State.loadChannel_fpx (s : State) (c : Channel) (value : Nat) : (s.loadChannel c value).fpx = s.fpx := rfl
@[simp] theorem State.loadChannel_rst (s : State) (c : Channel) (value : Nat) : (s.loadChannel c value).rst = s.rst := rfl
@[simp] theorem State.loadChannel_gmx (s : State) (c : Channel) (value : Nat) : (s.loadChannel c value).gmx = s.gmx := rfl
@[simp] theorem State.loadChannel_ser (s : State) (c : Channel) (value : Nat) : (s.loadChannel c value).ser = s.ser := rfl
@[simp] theorem State.loadChannel_pln (s : State) (c : Channel) (value : Nat) : (s.loadChannel c value).pln = s.pln := rfl
@[simp] theorem State.loadChannel_run (s : State) (c : Channel) (value : Nat) : (s.loadChannel c value).run = s.run := rfl
@[simp] theorem State.loadChannel_tun (s : State) (c : Channel) (value : Nat) : (s.loadChannel c value).tun = s.tun := rfl
@[simp] theorem State.loadChannel_rep (s : State) (c : Channel) (value : Nat) : (s.loadChannel c value).rep = s.rep := rfl
@[simp] theorem State.loadChannel_pwc (s : State) (c : Channel) (value : Nat) : (s.loadChannel c value).pwc = s.pwc := rfl
@[simp] theorem State.loadChannel_ports (s : State) (c : Channel) (value : Nat) : (s.loadChannel c value).ports = s.ports := rfl
@[simp] theorem State.loadChannel_freeCount (s : State) (c : Channel) (value : Nat) : (s.loadChannel c value).freeCount = s.freeCount := rfl
@[simp] theorem State.loadChannel_pending (s : State) (c : Channel) (value : Nat) : (s.loadChannel c value).pending = s.pending := rfl

@[simp] theorem State.checkChannels_pins (s : State) : s.checkChannels.pins = s.pins := by unfold State.checkChannels; rfl
@[simp] theorem State.checkChannels_fpx (s : State) : s.checkChannels.fpx = s.fpx := by unfold State.checkChannels; rfl
@[simp] theorem State.checkChannels_rst (s : State) : s.checkChannels.rst = s.rst := by unfold State.checkChannels; rfl
@[simp] theorem State.checkChannels_gmx (s : State) : s.checkChannels.gmx = s.gmx := by unfold State.checkChannels; rfl
@[simp] theorem State.checkChannels_ser (s : State) : s.checkChannels.ser = s.ser := by unfold State.checkChannels; rfl
@[simp] theorem State.checkChannels_pln (s : State) : s.checkChannels.pln = s.pln := by unfold State.checkChannels; rfl
@[simp] theorem State.checkChannels_run (s : State) : s.checkChannels.run = s.run := by unfold State.checkChannels; rfl
@[simp] theorem State.checkChannels_tun (s : State) : s.checkChannels.tun = s.tun := by unfold State.checkChannels; rfl
@[simp] theorem State.checkChannels_rep (s : State) : s.checkChannels.rep = s.rep := by unfold State.checkChannels; rfl
@[simp] theorem State.checkChannels_pwc (s : State) : s.checkChannels.pwc = s.pwc := by unfold State.checkChannels; rfl
@[simp] theorem State.checkChannels_ports (s : State) : s.checkChannels.ports = s.ports := by unfold State.checkChannels; rfl
@[simp] theorem State.checkChannels_freeCount (s : State) : s.checkChannels.freeCount = s.freeCount := by unfold State.checkChannels; rfl
@[simp] theorem State.checkChannels_pending (s : State) : s.checkChannels.pending = s.pending := by unfold State.checkChannels; rfl

@[simp] theorem State.recomputeTables_pins (s : State) : s.recomputeTables.pins = s.pins := rfl
@[simp] theorem State.recomputeTables_fpx (s : State) : s.recomputeTables.fpx = s.fpx := rfl
@[simp] theorem State.recomputeTables_gmx (s : State) : s.recomputeTables.gmx = s.gmx := rfl
@[simp] theorem State.recomputeTables_ser (s : State) : s.recomputeTables.ser = s.ser := rfl
@[simp] theorem State.recomputeTables_pln (s : State) : s.recomputeTables.pln = s.pln := rfl
@[simp] theorem State.recomputeTables_clk (s : State) : s.recomputeTables.clk = s.clk := rfl
@[simp] theorem State.recomputeTables_run (s : State) : s.recomputeTables.run = s.run := rfl
@[simp] theorem State.recomputeTables_tun (s : State) : s.recomputeTables.tun = s.tun := rfl
@[simp] theorem State.recomputeTables_rep (s : State) : s.recomputeTables.rep = s.rep := rfl
@[simp] theorem State.recomputeTables_pwc (s : State) : s.recomputeTables.pwc = s.pwc := rfl
@[simp] theorem State.recomputeTables_ports (s : State) : s.recomputeTables.ports = s.ports := rfl
@[simp] theorem State.recomputeTables_freeCount (s : State) : s.recomputeTables.freeCount = s.freeCount := rfl
@[simp] theorem State.recomputeTables_pending (s : State) : s.recomputeTables.pending = s.pending := rfl

/-! ### Posting and reloading -/

@[simp] theorem State.post_pins (s : State) (n : Notice) : (s.post n).pins = s.pins := by unfold State.post; split <;> rfl
@[simp] theorem State.postNow_pins (s : State) (k : NoticeKind) (t : Option Tuner) (d : Int) (r : Nat) (a : Int) :
    (s.postNow k t d r a).pins = s.pins := by simp [State.postNow]
@[simp] theorem State.reloadChannel_pins (s : State) (c : Channel) (v : Option Nat) : (s.reloadChannel c v).pins = s.pins := by
  cases v <;> rfl
@[simp] theorem State.reloadRunChannels_pins (s : State) : s.reloadRunChannels.pins = s.pins := by
  simp [State.reloadRunChannels]
@[simp] theorem State.reloadWarn_pins (s : State) : s.reloadWarn.pins = s.pins := by simp [State.reloadWarn]
@[simp] theorem State.raiseScan_pins (s : State) : s.raiseScan.pins = s.pins := by unfold State.raiseScan; split <;> rfl
@[simp] theorem State.viewerHoldChanged_pins (s : State) : s.viewerHoldChanged.pins = s.pins := by
  simp [State.viewerHoldChanged]
@[simp] theorem State.waitingChange_pins (s : State) (r : Nat) : (s.waitingChange r).pins = s.pins := by
  unfold State.waitingChange; split <;> simp
@[simp] theorem State.reloadWake_pins (s : State) : s.reloadWake.pins = s.pins := by unfold State.reloadWake; split <;> rfl
@[simp] theorem State.post_fpx (s : State) (n : Notice) : (s.post n).fpx = s.fpx := by unfold State.post; split <;> rfl
@[simp] theorem State.postNow_fpx (s : State) (k : NoticeKind) (t : Option Tuner) (d : Int) (r : Nat) (a : Int) :
    (s.postNow k t d r a).fpx = s.fpx := by simp [State.postNow]
@[simp] theorem State.reloadChannel_fpx (s : State) (c : Channel) (v : Option Nat) : (s.reloadChannel c v).fpx = s.fpx := by
  cases v <;> rfl
@[simp] theorem State.reloadRunChannels_fpx (s : State) : s.reloadRunChannels.fpx = s.fpx := by
  simp [State.reloadRunChannels]
@[simp] theorem State.reloadWarn_fpx (s : State) : s.reloadWarn.fpx = s.fpx := by simp [State.reloadWarn]
@[simp] theorem State.raiseScan_fpx (s : State) : s.raiseScan.fpx = s.fpx := by unfold State.raiseScan; split <;> rfl
@[simp] theorem State.viewerHoldChanged_fpx (s : State) : s.viewerHoldChanged.fpx = s.fpx := by
  simp [State.viewerHoldChanged]
@[simp] theorem State.waitingChange_fpx (s : State) (r : Nat) : (s.waitingChange r).fpx = s.fpx := by
  unfold State.waitingChange; split <;> simp
@[simp] theorem State.reloadWake_fpx (s : State) : s.reloadWake.fpx = s.fpx := by unfold State.reloadWake; split <;> rfl
@[simp] theorem State.post_rst (s : State) (n : Notice) : (s.post n).rst = s.rst := by unfold State.post; split <;> rfl
@[simp] theorem State.postNow_rst (s : State) (k : NoticeKind) (t : Option Tuner) (d : Int) (r : Nat) (a : Int) :
    (s.postNow k t d r a).rst = s.rst := by simp [State.postNow]
@[simp] theorem State.reloadChannel_rst (s : State) (c : Channel) (v : Option Nat) : (s.reloadChannel c v).rst = s.rst := by
  cases v <;> rfl
@[simp] theorem State.reloadRunChannels_rst (s : State) : s.reloadRunChannels.rst = s.rst := by
  simp [State.reloadRunChannels]
@[simp] theorem State.reloadWarn_rst (s : State) : s.reloadWarn.rst = s.rst := by simp [State.reloadWarn]
@[simp] theorem State.raiseScan_rst (s : State) : s.raiseScan.rst = s.rst := by unfold State.raiseScan; split <;> rfl
@[simp] theorem State.viewerHoldChanged_rst (s : State) : s.viewerHoldChanged.rst = s.rst := by
  simp [State.viewerHoldChanged]
@[simp] theorem State.waitingChange_rst (s : State) (r : Nat) : (s.waitingChange r).rst = s.rst := by
  unfold State.waitingChange; split <;> simp
@[simp] theorem State.reloadWake_rst (s : State) : s.reloadWake.rst = s.rst := by unfold State.reloadWake; split <;> rfl
@[simp] theorem State.post_gmx (s : State) (n : Notice) : (s.post n).gmx = s.gmx := by unfold State.post; split <;> rfl
@[simp] theorem State.postNow_gmx (s : State) (k : NoticeKind) (t : Option Tuner) (d : Int) (r : Nat) (a : Int) :
    (s.postNow k t d r a).gmx = s.gmx := by simp [State.postNow]
@[simp] theorem State.reloadChannel_gmx (s : State) (c : Channel) (v : Option Nat) : (s.reloadChannel c v).gmx = s.gmx := by
  cases v <;> rfl
@[simp] theorem State.reloadRunChannels_gmx (s : State) : s.reloadRunChannels.gmx = s.gmx := by
  simp [State.reloadRunChannels]
@[simp] theorem State.reloadWarn_gmx (s : State) : s.reloadWarn.gmx = s.gmx := by simp [State.reloadWarn]
@[simp] theorem State.raiseScan_gmx (s : State) : s.raiseScan.gmx = s.gmx := by unfold State.raiseScan; split <;> rfl
@[simp] theorem State.viewerHoldChanged_gmx (s : State) : s.viewerHoldChanged.gmx = s.gmx := by
  simp [State.viewerHoldChanged]
@[simp] theorem State.waitingChange_gmx (s : State) (r : Nat) : (s.waitingChange r).gmx = s.gmx := by
  unfold State.waitingChange; split <;> simp
@[simp] theorem State.reloadWake_gmx (s : State) : s.reloadWake.gmx = s.gmx := by unfold State.reloadWake; split <;> rfl
@[simp] theorem State.post_ser (s : State) (n : Notice) : (s.post n).ser = s.ser := by unfold State.post; split <;> rfl
@[simp] theorem State.postNow_ser (s : State) (k : NoticeKind) (t : Option Tuner) (d : Int) (r : Nat) (a : Int) :
    (s.postNow k t d r a).ser = s.ser := by simp [State.postNow]
@[simp] theorem State.reloadChannel_ser (s : State) (c : Channel) (v : Option Nat) : (s.reloadChannel c v).ser = s.ser := by
  cases v <;> rfl
@[simp] theorem State.reloadRunChannels_ser (s : State) : s.reloadRunChannels.ser = s.ser := by
  simp [State.reloadRunChannels]
@[simp] theorem State.reloadWarn_ser (s : State) : s.reloadWarn.ser = s.ser := by simp [State.reloadWarn]
@[simp] theorem State.viewerHoldChanged_ser (s : State) : s.viewerHoldChanged.ser = s.ser := by
  simp [State.viewerHoldChanged]
@[simp] theorem State.waitingChange_ser (s : State) (r : Nat) : (s.waitingChange r).ser = s.ser := by
  unfold State.waitingChange; split <;> simp
@[simp] theorem State.reloadWake_ser (s : State) : s.reloadWake.ser = s.ser := by unfold State.reloadWake; split <;> rfl
@[simp] theorem State.post_pln (s : State) (n : Notice) : (s.post n).pln = s.pln := by unfold State.post; split <;> rfl
@[simp] theorem State.postNow_pln (s : State) (k : NoticeKind) (t : Option Tuner) (d : Int) (r : Nat) (a : Int) :
    (s.postNow k t d r a).pln = s.pln := by simp [State.postNow]
@[simp] theorem State.reloadChannel_pln (s : State) (c : Channel) (v : Option Nat) : (s.reloadChannel c v).pln = s.pln := by
  cases v <;> rfl
@[simp] theorem State.reloadRunChannels_pln (s : State) : s.reloadRunChannels.pln = s.pln := by
  simp [State.reloadRunChannels]
@[simp] theorem State.reloadWarn_pln (s : State) : s.reloadWarn.pln = s.pln := by simp [State.reloadWarn]
@[simp] theorem State.raiseScan_pln (s : State) : s.raiseScan.pln = s.pln := by unfold State.raiseScan; split <;> rfl
@[simp] theorem State.viewerHoldChanged_pln (s : State) : s.viewerHoldChanged.pln = s.pln := by
  simp [State.viewerHoldChanged]
@[simp] theorem State.waitingChange_pln (s : State) (r : Nat) : (s.waitingChange r).pln = s.pln := by
  unfold State.waitingChange; split <;> simp
@[simp] theorem State.reloadWake_pln (s : State) : s.reloadWake.pln = s.pln := by unfold State.reloadWake; split <;> rfl
@[simp] theorem State.post_clk (s : State) (n : Notice) : (s.post n).clk = s.clk := by unfold State.post; split <;> rfl
@[simp] theorem State.postNow_clk (s : State) (k : NoticeKind) (t : Option Tuner) (d : Int) (r : Nat) (a : Int) :
    (s.postNow k t d r a).clk = s.clk := by simp [State.postNow]
@[simp] theorem State.raiseScan_clk (s : State) : s.raiseScan.clk = s.clk := by unfold State.raiseScan; split <;> rfl
@[simp] theorem State.post_run (s : State) (n : Notice) : (s.post n).run = s.run := by unfold State.post; split <;> rfl
@[simp] theorem State.postNow_run (s : State) (k : NoticeKind) (t : Option Tuner) (d : Int) (r : Nat) (a : Int) :
    (s.postNow k t d r a).run = s.run := by simp [State.postNow]
@[simp] theorem State.reloadChannel_run (s : State) (c : Channel) (v : Option Nat) : (s.reloadChannel c v).run = s.run := by
  cases v <;> rfl
@[simp] theorem State.reloadRunChannels_run (s : State) : s.reloadRunChannels.run = s.run := by
  simp [State.reloadRunChannels]
@[simp] theorem State.reloadWarn_run (s : State) : s.reloadWarn.run = s.run := by simp [State.reloadWarn]
@[simp] theorem State.raiseScan_run (s : State) : s.raiseScan.run = s.run := by unfold State.raiseScan; split <;> rfl
@[simp] theorem State.reloadWake_run (s : State) : s.reloadWake.run = s.run := by unfold State.reloadWake; split <;> rfl
@[simp] theorem State.post_tun (s : State) (n : Notice) : (s.post n).tun = s.tun := by unfold State.post; split <;> rfl
@[simp] theorem State.postNow_tun (s : State) (k : NoticeKind) (t : Option Tuner) (d : Int) (r : Nat) (a : Int) :
    (s.postNow k t d r a).tun = s.tun := by simp [State.postNow]
@[simp] theorem State.reloadChannel_tun (s : State) (c : Channel) (v : Option Nat) : (s.reloadChannel c v).tun = s.tun := by
  cases v <;> rfl
@[simp] theorem State.reloadRunChannels_tun (s : State) : s.reloadRunChannels.tun = s.tun := by
  simp [State.reloadRunChannels]
@[simp] theorem State.reloadWarn_tun (s : State) : s.reloadWarn.tun = s.tun := by simp [State.reloadWarn]
@[simp] theorem State.raiseScan_tun (s : State) : s.raiseScan.tun = s.tun := by unfold State.raiseScan; split <;> rfl
@[simp] theorem State.viewerHoldChanged_tun (s : State) : s.viewerHoldChanged.tun = s.tun := by
  simp [State.viewerHoldChanged]
@[simp] theorem State.waitingChange_tun (s : State) (r : Nat) : (s.waitingChange r).tun = s.tun := by
  unfold State.waitingChange; split <;> simp
@[simp] theorem State.reloadWake_tun (s : State) : s.reloadWake.tun = s.tun := by unfold State.reloadWake; split <;> rfl
@[simp] theorem State.reloadChannel_rep (s : State) (c : Channel) (v : Option Nat) : (s.reloadChannel c v).rep = s.rep := by
  cases v <;> rfl
@[simp] theorem State.reloadRunChannels_rep (s : State) : s.reloadRunChannels.rep = s.rep := by
  simp [State.reloadRunChannels]
@[simp] theorem State.reloadWarn_rep (s : State) : s.reloadWarn.rep = s.rep := by simp [State.reloadWarn]
@[simp] theorem State.raiseScan_rep (s : State) : s.raiseScan.rep = s.rep := by unfold State.raiseScan; split <;> rfl
@[simp] theorem State.viewerHoldChanged_rep (s : State) : s.viewerHoldChanged.rep = s.rep := by
  simp [State.viewerHoldChanged]
@[simp] theorem State.waitingChange_rep (s : State) (r : Nat) : (s.waitingChange r).rep = s.rep := by
  unfold State.waitingChange; split <;> simp
@[simp] theorem State.reloadWake_rep (s : State) : s.reloadWake.rep = s.rep := by unfold State.reloadWake; split <;> rfl
@[simp] theorem State.post_pwc (s : State) (n : Notice) : (s.post n).pwc = s.pwc := by unfold State.post; split <;> rfl
@[simp] theorem State.postNow_pwc (s : State) (k : NoticeKind) (t : Option Tuner) (d : Int) (r : Nat) (a : Int) :
    (s.postNow k t d r a).pwc = s.pwc := by simp [State.postNow]
@[simp] theorem State.reloadChannel_pwc (s : State) (c : Channel) (v : Option Nat) : (s.reloadChannel c v).pwc = s.pwc := by
  cases v <;> rfl
@[simp] theorem State.reloadRunChannels_pwc (s : State) : s.reloadRunChannels.pwc = s.pwc := by
  simp [State.reloadRunChannels]
@[simp] theorem State.reloadWarn_pwc (s : State) : s.reloadWarn.pwc = s.pwc := by simp [State.reloadWarn]
@[simp] theorem State.raiseScan_pwc (s : State) : s.raiseScan.pwc = s.pwc := by unfold State.raiseScan; split <;> rfl
@[simp] theorem State.viewerHoldChanged_pwc (s : State) : s.viewerHoldChanged.pwc = s.pwc := by
  simp [State.viewerHoldChanged]
@[simp] theorem State.waitingChange_pwc (s : State) (r : Nat) : (s.waitingChange r).pwc = s.pwc := by
  unfold State.waitingChange; split <;> simp
@[simp] theorem State.post_ports (s : State) (n : Notice) : (s.post n).ports = s.ports := by unfold State.post; split <;> rfl
@[simp] theorem State.postNow_ports (s : State) (k : NoticeKind) (t : Option Tuner) (d : Int) (r : Nat) (a : Int) :
    (s.postNow k t d r a).ports = s.ports := by simp [State.postNow]
@[simp] theorem State.reloadChannel_ports (s : State) (c : Channel) (v : Option Nat) : (s.reloadChannel c v).ports = s.ports := by
  cases v <;> rfl
@[simp] theorem State.reloadRunChannels_ports (s : State) : s.reloadRunChannels.ports = s.ports := by
  simp [State.reloadRunChannels]
@[simp] theorem State.reloadWarn_ports (s : State) : s.reloadWarn.ports = s.ports := by simp [State.reloadWarn]
@[simp] theorem State.raiseScan_ports (s : State) : s.raiseScan.ports = s.ports := by unfold State.raiseScan; split <;> rfl
@[simp] theorem State.viewerHoldChanged_ports (s : State) : s.viewerHoldChanged.ports = s.ports := by
  simp [State.viewerHoldChanged]
@[simp] theorem State.waitingChange_ports (s : State) (r : Nat) : (s.waitingChange r).ports = s.ports := by
  unfold State.waitingChange; split <;> simp
@[simp] theorem State.reloadWake_ports (s : State) : s.reloadWake.ports = s.ports := by unfold State.reloadWake; split <;> rfl
@[simp] theorem State.post_freeCount (s : State) (n : Notice) : (s.post n).freeCount = s.freeCount := by unfold State.post; split <;> rfl
@[simp] theorem State.postNow_freeCount (s : State) (k : NoticeKind) (t : Option Tuner) (d : Int) (r : Nat) (a : Int) :
    (s.postNow k t d r a).freeCount = s.freeCount := by simp [State.postNow]
@[simp] theorem State.reloadChannel_freeCount (s : State) (c : Channel) (v : Option Nat) : (s.reloadChannel c v).freeCount = s.freeCount := by
  cases v <;> rfl
@[simp] theorem State.reloadRunChannels_freeCount (s : State) : s.reloadRunChannels.freeCount = s.freeCount := by
  simp [State.reloadRunChannels]
@[simp] theorem State.reloadWarn_freeCount (s : State) : s.reloadWarn.freeCount = s.freeCount := by simp [State.reloadWarn]
@[simp] theorem State.raiseScan_freeCount (s : State) : s.raiseScan.freeCount = s.freeCount := by unfold State.raiseScan; split <;> rfl
@[simp] theorem State.viewerHoldChanged_freeCount (s : State) : s.viewerHoldChanged.freeCount = s.freeCount := by
  simp [State.viewerHoldChanged]
@[simp] theorem State.waitingChange_freeCount (s : State) (r : Nat) : (s.waitingChange r).freeCount = s.freeCount := by
  unfold State.waitingChange; split <;> simp
@[simp] theorem State.reloadWake_freeCount (s : State) : s.reloadWake.freeCount = s.freeCount := by unfold State.reloadWake; split <;> rfl
@[simp] theorem State.post_pending (s : State) (n : Notice) : (s.post n).pending = s.pending := by unfold State.post; split <;> rfl
@[simp] theorem State.postNow_pending (s : State) (k : NoticeKind) (t : Option Tuner) (d : Int) (r : Nat) (a : Int) :
    (s.postNow k t d r a).pending = s.pending := by simp [State.postNow]
@[simp] theorem State.reloadChannel_pending (s : State) (c : Channel) (v : Option Nat) : (s.reloadChannel c v).pending = s.pending := by
  cases v <;> rfl
@[simp] theorem State.reloadRunChannels_pending (s : State) : s.reloadRunChannels.pending = s.pending := by
  simp [State.reloadRunChannels]
@[simp] theorem State.reloadWarn_pending (s : State) : s.reloadWarn.pending = s.pending := by simp [State.reloadWarn]
@[simp] theorem State.raiseScan_pending (s : State) : s.raiseScan.pending = s.pending := by unfold State.raiseScan; split <;> rfl
@[simp] theorem State.viewerHoldChanged_pending (s : State) : s.viewerHoldChanged.pending = s.pending := by
  simp [State.viewerHoldChanged]
@[simp] theorem State.waitingChange_pending (s : State) (r : Nat) : (s.waitingChange r).pending = s.pending := by
  unfold State.waitingChange; split <;> simp
@[simp] theorem State.reloadWake_pending (s : State) : s.reloadWake.pending = s.pending := by unfold State.reloadWake; split <;> rfl

end Sys2Proof.Machine
end

