-- ==== Sys2Proof/Laws/Frames.lean ====
section
/-! SUPPORT. What the shared operations can do, said once for each as one of two relations between the state before and after:
`Calm` for the run engine, the arbiter, the planner and the compare channels; `Rework` for the record store and the guide
matcher, which may also change the tables, the configuration, the verify set and FPX's class table. -/

namespace Sys2Proof.Machine

/-- The part of the state a `Calm` operation leaves alone: everything but the run engine, the tuners, the matched events, the
pending marks, the planner's snapshot and stale flag, the channels and their events, the tuner group in force and deferred,
and the notices with the sticky flags. -/
def State.still (s : State) : State :=
  { s with
    rst := { s.rst with deferred := none, inForce := { s.rst.inForce with tuner := defaultTunerGroup } }
    gmx := ⟨[]⟩
    ser := { s.ser with pendingMarks := [] }
    pln := { s.pln with snapshot := none, stale := false }
    clk := { s.clk with channels := Channels.afterReset, events := [] }
    run := RunEngine.afterReset
    tun := Tun.afterReset
    rep := { s.rep with notices := [], sticky := 0 } }

/-- The part of the state a `Rework` operation leaves alone: of the record store the mirrors and the adopted flag, of FPX all
but the class table, and what `Calm` leaves alone of the other blocks. -/
def State.outer (s : State) : State :=
  { s.still with
    fpx := { s.fpx with classTable := builtinTable }
    rst := { Rst.afterReset s.pins.fsize with anchor := s.rst.anchor, schedule := s.rst.schedule, adopted := s.rst.adopted }
    ser := Ser.afterReset }

/-- What both relations say of the rest: the capacities are kept, a held snapshot stays, sticky flags stay set, and compare
events only join their list. -/
structure Keeps (s t : State) : Prop where
  fit : s.TablesFit → t.TablesFit
  held : ∀ sn, s.pln.snapshot = some sn → t.pln.snapshot = some sn
  sticky : s.rep.sticky ||| t.rep.sticky = t.rep.sticky
  events : ∃ l, t.clk.events = s.clk.events ++ l

structure Calm (s t : State) : Prop extends Keeps s t where
  still : t.still = s.still

structure Rework (s t : State) : Prop extends Keeps s t where
  outer : t.outer = s.outer

theorem Keeps.refl (s : State) : Keeps s s := ⟨id, fun _ h => h, BitVec.or_self, [], by simp⟩

theorem Keeps.trans {s t u : State} (h : Keeps s t) (k : Keeps t u) : Keeps s u where
  fit := fun hs => k.fit (h.fit hs)
  held := fun sn hs => k.held sn (h.held sn hs)
  sticky := by rw [← k.sticky, ← h.sticky]; simp only [← BitVec.or_assoc, BitVec.or_self]
  events := by
    obtain ⟨a, ha⟩ := h.events
    obtain ⟨b, hb⟩ := k.events
    exact ⟨a ++ b, by rw [hb, ha, List.append_assoc]⟩

theorem Calm.refl (s : State) : Calm s s := ⟨Keeps.refl s, rfl⟩

theorem Calm.trans {s t u : State} (h : Calm s t) (k : Calm t u) : Calm s u :=
  ⟨h.toKeeps.trans k.toKeeps, k.still.trans h.still⟩

theorem Calm.ite {s a b : State} {c : Prop} [Decidable c] (ha : Calm s a) (hb : Calm s b) : Calm s (if c then a else b) := by
  by_cases h : c
  · rwa [if_pos h]
  · rwa [if_neg h]

theorem Rework.refl (s : State) : Rework s s := ⟨Keeps.refl s, rfl⟩

theorem Rework.trans {s t u : State} (h : Rework s t) (k : Rework t u) : Rework s u :=
  ⟨h.toKeeps.trans k.toKeeps, k.outer.trans h.outer⟩

/-- `outer` reads only what `still` keeps. -/
theorem State.outer_still (s : State) : s.still.outer = s.outer := rfl

theorem Calm.rework {s t : State} (h : Calm s t) : Rework s t :=
  ⟨h.toKeeps, by rw [← State.outer_still t, h.still, State.outer_still s]⟩

/-! ### What the relations give, field by field -/

theorem Rework.pins {s t : State} (h : Rework s t) : t.pins = s.pins := congrArg (fun s => s.pins) h.outer
theorem Rework.pwc {s t : State} (h : Rework s t) : t.pwc = s.pwc := congrArg (fun s => s.pwc) h.outer
theorem Rework.ports {s t : State} (h : Rework s t) : t.ports = s.ports := congrArg (fun s => s.ports) h.outer
theorem Rework.freeCount {s t : State} (h : Rework s t) : t.freeCount = s.freeCount := congrArg (fun s => s.freeCount) h.outer
theorem Rework.pending {s t : State} (h : Rework s t) : t.pending = s.pending := congrArg (fun s => s.pending) h.outer
theorem Rework.anchor {s t : State} (h : Rework s t) : t.rst.anchor = s.rst.anchor := congrArg (fun s => s.rst.anchor) h.outer
theorem Rework.schedule {s t : State} (h : Rework s t) : t.rst.schedule = s.rst.schedule :=
  congrArg (fun s => s.rst.schedule) h.outer
theorem Rework.adopted {s t : State} (h : Rework s t) : t.rst.adopted = s.rst.adopted :=
  congrArg (fun s => s.rst.adopted) h.outer
theorem Rework.counter {s t : State} (h : Rework s t) : t.clk.counter = s.clk.counter :=
  congrArg (fun s => s.clk.counter) h.outer
theorem Rework.crystal {s t : State} (h : Rework s t) : t.clk.crystal = s.clk.crystal :=
  congrArg (fun s => s.clk.crystal) h.outer
theorem Rework.trim {s t : State} (h : Rework s t) : t.clk.trim = s.clk.trim := congrArg (fun s => s.clk.trim) h.outer
theorem Rework.lastSet {s t : State} (h : Rework s t) : t.clk.lastSet = s.clk.lastSet :=
  congrArg (fun s => s.clk.lastSet) h.outer
theorem Rework.valid {s t : State} (h : Rework s t) : t.clk.valid = s.clk.valid := congrArg (fun s => s.clk.valid) h.outer
theorem Rework.plan {s t : State} (h : Rework s t) : t.pln.plan = s.pln.plan := congrArg (fun s => s.pln.plan) h.outer
theorem Rework.generation {s t : State} (h : Rework s t) : t.pln.generation = s.pln.generation :=
  congrArg (fun s => s.pln.generation) h.outer
theorem Rework.fpx {s t : State} (h : Rework s t) : { t.fpx with classTable := s.fpx.classTable } = s.fpx := by
  have := congrArg (fun u => ({ u.fpx with classTable := s.fpx.classTable } : Fpx)) h.outer
  exact this

theorem Calm.fpx {s t : State} (h : Calm s t) : t.fpx = s.fpx := congrArg (fun s => s.fpx) h.still
theorem Calm.tables {s t : State} (h : Calm s t) : t.rst.tables = s.rst.tables := congrArg (fun s => s.rst.tables) h.still
theorem Calm.verify {s t : State} (h : Calm s t) : t.rst.verify = s.rst.verify := congrArg (fun s => s.rst.verify) h.still
theorem Calm.layout {s t : State} (h : Calm s t) : t.rst.inForce.layout = s.rst.inForce.layout :=
  congrArg (fun s => s.rst.inForce.layout) h.still
theorem Calm.scanRequest {s t : State} (h : Calm s t) : t.ser.scanRequest = s.ser.scanRequest :=
  congrArg (fun s => s.ser.scanRequest) h.still

/-! ### Notices, flags and channels -/

theorem length_insertBy {α : Type} (le : α → α → Bool) (x : α) (xs : List α) :
    (insertBy le x xs).length = xs.length + 1 := by
  induction xs with
  | nil => rfl
  | cons y ys ih => simp only [insertBy]; split <;> simp [ih]

/-- What a post can do (R163): the notice stands last, and a full queue loses its oldest and raises NOTICE_LOST. -/
theorem State.post_eq (s : State) (n : Notice) :
    (s.rep.notices.length < 32 ∧ s.post n = { s with rep := { s.rep with notices := s.rep.notices ++ [n] } }) ∨
    (32 ≤ s.rep.notices.length ∧
      s.post n = { s with rep := { s.rep with
        notices := s.rep.notices.drop 1 ++ [n], sticky := s.rep.sticky ||| Flag.bit .noticeLost } }) := by
  unfold State.post
  by_cases h : s.rep.notices.length < Config.noticeCap
  · exact .inl ⟨h, by rw [if_pos h]⟩
  · exact .inr ⟨by simpa [Config.noticeCap] using h, by rw [if_neg h]; rfl⟩

theorem State.post_calm (s : State) (n : Notice) : Calm s (s.post n) := by
  rcases State.post_eq s n with ⟨hl, h⟩ | ⟨hl, h⟩ <;> rw [h]
  · refine ⟨⟨fun f => ?_, fun _ h => h, BitVec.or_self, [], by simp⟩, rfl⟩
    exact { f with notices := by simp only [List.length_append, List.length_singleton]; omega }
  · refine ⟨⟨fun f => ?_, fun _ h => h, ?_, [], by simp⟩, rfl⟩
    · have := f.notices
      have hn : (s.rep.notices.drop 1 ++ [n]).length ≤ 32 := by
        simp only [List.length_append, List.length_drop, List.length_singleton]
        omega
      exact { f with notices := hn }
    · change s.rep.sticky ||| (s.rep.sticky ||| _) = _
      rw [← BitVec.or_assoc, BitVec.or_self]

theorem State.postNow_calm (s : State) (k : NoticeKind) (t : Option Tuner) (d : Int) (r : Nat) (a : Int) :
    Calm s (s.postNow k t d r a) := State.post_calm s _

theorem State.raise_calm (s : State) (f : Flag) : Calm s (s.raise f) :=
  ⟨⟨fun h => { h with }, fun _ h => h, by simp only [State.raise, ← BitVec.or_assoc, BitVec.or_self], [], by simp⟩, rfl⟩

/-- What firing can do (R100): nothing, or the channel is disabled and one event joins the list. -/
theorem Clk.fireIfDue_eq (k : Clk) (target : Option WakeTarget) (c : Channel) :
    (¬ ((k.channels.get c).enabled = true ∧ (k.channels.get c).value ≤ k.counter) ∧ k.fireIfDue target c = k) ∨
    ((k.channels.get c).enabled = true ∧ (k.channels.get c).value ≤ k.counter ∧
      k.fireIfDue target c =
        { k with
          channels := k.channels.set c { k.channels.get c with enabled := false }
          events := k.events ++ [⟨c, k.counter, k.crystal, if c = .wake then target else none⟩] }) := by
  unfold Clk.fireIfDue
  by_cases h : ((k.channels.get c).enabled && (k.channels.get c).value ≤ k.counter) = true
  · rw [if_pos h]
    simp only [Bool.and_eq_true, decide_eq_true_eq] at h
    exact .inr ⟨h.1, h.2, rfl⟩
  · rw [if_neg h]
    simp only [Bool.and_eq_true, decide_eq_true_eq] at h
    exact .inl ⟨h, rfl⟩

/-- The clock but for its channels and events. -/
def Clk.still (k : Clk) : Clk := { k with channels := Channels.afterReset, events := [] }

theorem Clk.fireIfDue_still (k : Clk) (target : Option WakeTarget) (c : Channel) :
    (k.fireIfDue target c).still = k.still ∧ ∃ l, (k.fireIfDue target c).events = k.events ++ l := by
  rcases Clk.fireIfDue_eq k target c with ⟨-, h⟩ | ⟨-, -, h⟩ <;> rw [h]
  · exact ⟨rfl, [], by simp⟩
  · exact ⟨rfl, _, rfl⟩

/-- A state whose clock alone changes, in its channels and by added events. -/
theorem Calm.of_clk {s : State} {k : Clk} (h : k.still = s.clk.still) (he : ∃ l, k.events = s.clk.events ++ l) :
    Calm s { s with clk := k } :=
  ⟨⟨fun f => { f with }, fun _ h => h, BitVec.or_self, he⟩, by
    change { s.still with clk := k.still } = { s.still with clk := s.clk.still }
    rw [h]⟩

theorem State.loadChannel_calm (s : State) (c : Channel) (v : Nat) : Calm s (s.loadChannel c v) := by
  obtain ⟨h1, h2⟩ := Clk.fireIfDue_still { s.clk with channels := s.clk.channels.set c ⟨v, s.clk.valid⟩ } s.pwc.wakeTarget c
  exact Calm.of_clk h1 h2

theorem State.disableChannel_calm (s : State) (c : Channel) : Calm s (s.disableChannel c) :=
  Calm.of_clk rfl ⟨[], by simp [Clk.disable]⟩

theorem State.reloadChannel_calm (s : State) (c : Channel) (v : Option Nat) : Calm s (s.reloadChannel c v) := by
  cases v with
  | none => exact State.disableChannel_calm s c
  | some v => exact State.loadChannel_calm s c v

theorem State.checkChannels_calm (s : State) : Calm s s.checkChannels := by
  have h : ∀ (cs : List Channel) (k : Clk), k.still = s.clk.still → (∃ l, k.events = s.clk.events ++ l) →
      (cs.foldl (fun k c => k.fireIfDue s.pwc.wakeTarget c) k).still = s.clk.still ∧
      ∃ l, (cs.foldl (fun k c => k.fireIfDue s.pwc.wakeTarget c) k).events = s.clk.events ++ l := by
    intro cs
    induction cs with
    | nil => exact fun k h1 h2 => ⟨h1, h2⟩
    | cons c cs ih =>
      rintro k h1 ⟨l, h2⟩
      obtain ⟨g1, l', g2⟩ := Clk.fireIfDue_still k s.pwc.wakeTarget c
      exact ih _ (g1.trans h1) ⟨l ++ l', by rw [g2, h2, List.append_assoc]⟩
  obtain ⟨h1, h2⟩ := h allChannels s.clk rfl ⟨[], by simp⟩
  exact Calm.of_clk h1 h2

theorem State.reloadRunChannels_calm (s : State) : Calm s s.reloadRunChannels := by
  unfold State.reloadRunChannels
  exact ((((State.reloadChannel_calm _ _ _).trans (State.reloadChannel_calm _ _ _)).trans
    (State.reloadChannel_calm _ _ _)).trans (State.reloadChannel_calm _ _ _)).trans (State.reloadChannel_calm _ _ _)

theorem State.reloadWarn_calm (s : State) : Calm s s.reloadWarn := State.reloadChannel_calm _ _ _

/-! ### Plain updates of the run engine, the arbiter and the planner -/

/-- A state whose tuner records alone change. -/
theorem Calm.of_tun (s : State) (t : Tun) : Calm s { s with tun := t } :=
  ⟨⟨fun f => { f with }, fun _ h => h, BitVec.or_self, [], by simp⟩, rfl⟩

/-- A state whose run engine alone changes, its history and end states within capacity. -/
theorem Calm.of_run {s : State} {r : RunEngine} (hh : s.run.history.length ≤ 64 → r.history.length ≤ 64)
    (he : s.run.endStates.length ≤ 128 → r.endStates.length ≤ 128) : Calm s { s with run := r } :=
  ⟨⟨fun f => { f with history := hh f.history, endStates := he f.endStates }, fun _ h => h, BitVec.or_self, [], by simp⟩, rfl⟩

/-- A state whose pending marks alone change, within capacity. -/
theorem Calm.of_marks {s : State} {l : List PendingKey} (h : s.ser.pendingMarks.length ≤ 32 → l.length ≤ 32) :
    Calm s { s with ser := { s.ser with pendingMarks := l } } :=
  ⟨⟨fun f => { f with pendingMarks := h f.pendingMarks }, fun _ h => h, BitVec.or_self, [], by simp⟩, rfl⟩

/-- A state whose matched entries alone change, within capacity. -/
theorem Calm.of_entries {s : State} {es : List MatchedEntry} (h : s.gmx.entries.length ≤ 384 → es.length ≤ 384) :
    Calm s { s with gmx := ⟨es⟩ } :=
  ⟨⟨fun f => { f with matched := h f.matched }, fun _ h => h, BitVec.or_self, [], by simp⟩, rfl⟩

/-- A list that loses its oldest member when full stays within its capacity. -/
theorem length_joinCapped {α : Type} {xs : List α} {n : Nat} (x : α) (hn : 0 < n) (h : xs.length ≤ n) :
    ((if xs.length < n then xs else xs.drop 1) ++ [x]).length ≤ n := by
  rw [List.length_append, List.length_singleton]
  by_cases hl : xs.length < n
  · rw [if_pos hl]
    omega
  · rw [if_neg hl, List.length_drop]
    omega

theorem length_enterHistory {h : List HistoryEntry} (e : HistoryEntry) (hl : h.length ≤ 64) :
    (enterHistory h e).length ≤ 64 :=
  length_joinCapped e (by decide) ((List.length_filter_le _ _).trans hl)

theorem length_enterEndState {l : List EndState} (e : EndState) (hl : l.length ≤ 128) :
    (enterEndState l e).length ≤ 128 :=
  length_joinCapped e (by decide) ((List.length_filter_le _ _).trans hl)

theorem length_enterPending {marks : List MarkRec} {l : List PendingKey} (k : PendingKey) (hl : l.length ≤ 32) :
    (enterPending marks l k).length ≤ 32 := by
  unfold enterPending
  split
  · exact hl
  · exact length_joinCapped k (by decide) ((List.length_filter_le _ _).trans hl)

theorem State.addHistory_calm (s : State) (e : HistoryEntry) : Calm s (s.addHistory e) :=
  Calm.of_run (length_enterHistory e) id

theorem State.addEndState_calm (s : State) (e : EndState) : Calm s (s.addEndState e) :=
  Calm.of_run id (length_enterEndState e)

theorem State.clearEndState_calm (s : State) (b : BookingRec) : Calm s (s.clearEndState b) :=
  Calm.of_run id (fun h => (List.length_filter_le _ _).trans h)

theorem State.addPending_calm (s : State) (k : PendingKey) : Calm s (s.addPending k) :=
  Calm.of_marks (length_enterPending k)

theorem State.removeUntagged_calm (s : State) : Calm s s.removeUntagged :=
  Calm.of_marks (fun h => (List.length_filter_le _ _).trans h)

theorem State.markEntered_calm (s : State) (m : MarkRec) : Calm s (s.markEntered m) :=
  Calm.of_marks (fun h => (List.length_filter_le _ _).trans h)

theorem State.historyPurge_calm (s : State) : Calm s s.historyPurge :=
  Calm.of_run (fun h => (List.length_filter_le _ _).trans h) id

theorem State.dropWaiting_calm (s : State) (ref : Nat) : Calm s (s.dropWaiting ref) := Calm.of_run id id

theorem State.holdBack_calm (s : State) (ref : Nat) : Calm s (s.holdBack ref) := Calm.of_run id id

theorem State.setRun_calm (s : State) (r : ActiveRun) : Calm s (s.setRun r) := Calm.of_run id id

theorem State.rebuildWaiting_calm (s : State) : Calm s s.rebuildWaiting := Calm.of_run id id

theorem State.clearBlocked_calm (s : State) : Calm s { s with run := s.run.clearBlocked } := Calm.of_run id id

theorem State.releaseRun_calm (s : State) (r : ActiveRun) : Calm s (s.releaseRun r) :=
  (Calm.of_tun s (s.tun.set r.tuner (s.tun.get r.tuner).releaseStream)).trans
    (Calm.of_run (s := { s with tun := s.tun.set r.tuner (s.tun.get r.tuner).releaseStream })
      (r := { s.run with runs := s.run.runs.filter fun x => x.ref ≠ r.ref }) id id)

theorem State.emptyWarned_calm (s : State) : Calm s s.emptyWarned := Calm.of_tun s _

/-- What an ascending insertion holds. -/
theorem mem_insertNat (x y : Nat) (l : List Nat) : y ∈ insertNat x l ↔ y = x ∨ y ∈ l := by
  induction l with
  | nil => simp [insertNat]
  | cons z zs ih =>
    simp only [insertNat]
    split
    · simp
    · split
      · subst_vars; simp
      · simp [ih, or_left_comm]

/-- What the warned list's entry can do (R135): nothing for a ref it holds, else the ref is added behind what it keeps. -/
theorem enterWarned_cases (waiting : List WaitingEntry) (l : List Nat) (ref : Nat) :
    (ref ∈ l ∧ enterWarned waiting l ref = l)
    ∨ (ref ∉ l ∧ ∃ kept, kept.Sublist l ∧ enterWarned waiting l ref = kept ++ [ref]) := by
  by_cases h : ref ∈ l
  · exact .inl ⟨h, by simp [enterWarned, h]⟩
  · refine .inr ⟨h, if l.length < Config.warnedCap then l else l.filter fun r => waiting.any fun e => e.ref = r, ?_, ?_⟩
    · split
      · exact List.Sublist.refl _
      · exact List.filter_sublist
    · simp [enterWarned, h]

theorem State.addWarned_calm (s : State) (ref : Nat) : Calm s (s.addWarned ref) := Calm.of_tun s _

theorem State.viewerHoldChanged_calm (s : State) : Calm s s.viewerHoldChanged :=
  (State.clearBlocked_calm s).trans (State.reloadRunChannels_calm _)

theorem State.markStale_calm (s : State) : Calm s s.markStale :=
  ⟨⟨fun f => { f with }, fun _ h => h, BitVec.or_self, [], by simp [State.markStale]⟩, rfl⟩

/-- Entries put in place of the table's, with the flags recomputed. -/
theorem State.setEntries_calm {s : State} {es : List MatchedEntry} (h : s.gmx.entries.length ≤ 384 → es.length ≤ 384) :
    Calm s (s.setEntries es) :=
  Calm.of_entries (fun hs => by simpa [recomputeEffective] using h hs)

/-! ### The arbiter -/

theorem State.applyTunerMode_calm (s : State) : Calm s s.applyTunerMode := by
  have hb := (State.disableChannel_calm s (.start .B)).trans (State.disableChannel_calm _ (.stop .B))
  unfold State.applyTunerMode
  split
  · exact ((((hb.trans (Calm.of_tun _ _)).trans (State.postNow_calm _ _ _ _ _ _)).trans (State.viewerHoldChanged_calm _)).trans
      (State.emptyWarned_calm _)).trans (State.reloadWarn_calm _)
  · exact hb.trans (State.reloadWarn_calm _)
  · exact State.reloadWarn_calm _

/-- What a request can do (R128 to R130): the answer is the judgment; a refusal changes nothing. -/
theorem State.requestStream_calm (s : State) (T : Tuner) (ref m fd f : Nat) : Calm s (s.requestStream T ref m fd f).2 := by
  unfold State.requestStream
  simp only
  split
  · exact Calm.of_tun s _
  · exact (((Calm.of_tun s _).trans (State.post_calm _ _)).trans (State.emptyWarned_calm _)).trans (State.reloadWarn_calm _)
  · exact Calm.refl s

/-! ### The run engine, for any trigger that is itself calm -/

section Engine

variable {trig : Trigger} (ht : ∀ s, Calm s (trig s))

theorem Calm.foldl {α : Type} {f : State → α → State} (hf : ∀ s a, Calm s (f s a)) (xs : List α) (s : State) :
    Calm s (xs.foldl f s) := by
  induction xs generalizing s with
  | nil => exact Calm.refl s
  | cons x xs ih => exact (hf s x).trans (ih _)

include ht

theorem State.applyDeferred_calm (s : State) : Calm s (s.applyDeferred trig) := by
  unfold State.applyDeferred
  split
  · exact Calm.refl s
  · rename_i g _
    have h : Calm s { s with rst := { s.rst with deferred := none, inForce := { s.rst.inForce with tuner := g } } } :=
      ⟨⟨fun f => { f with }, fun _ h => h, BitVec.or_self, [], by simp⟩, rfl⟩
    exact ((h.trans (State.postNow_calm _ _ _ _ _ _)).trans (State.applyTunerMode_calm _)).trans (ht _)

omit ht in
theorem State.manualEnd_calm (s : State) (b v : Nat) (o : RunOutcome) : Calm s (s.manualEnd b v o) := by
  unfold State.manualEnd
  split
  · exact Calm.refl s
  · exact State.addEndState_calm _ _

omit ht in
theorem State.markEnd_calm (s : State) (r : ActiveRun) (o : RunOutcome) : Calm s (s.markEnd r o) := by
  unfold State.markEnd
  split
  · exact State.manualEnd_calm _ _ _ _
  · split
    · exact State.addPending_calm _ _
    · exact Calm.refl s

theorem State.endRun_calm (r : ActiveRun) (o : RunOutcome) (stop : Nat) (s : State) : Calm s (s.endRun trig r o stop) := by
  unfold State.endRun
  simp only
  refine Calm.trans ?_ (ht _)
  refine Calm.trans ?_ (State.reloadRunChannels_calm _)
  have h : Calm s { (((s.releaseRun r).addHistory ⟨r.ref, o, some stop, r.windowEnd⟩).markEnd r o).post
      ⟨.stop, some r.tuner, o.detail, stop, r.ref, (r.actualStart : Nat)⟩ with
      run := ((((s.releaseRun r).addHistory ⟨r.ref, o, some stop, r.windowEnd⟩).markEnd r o).post
        ⟨.stop, some r.tuner, o.detail, stop, r.ref, (r.actualStart : Nat)⟩).run.clearBlocked } :=
    ((((State.releaseRun_calm s r).trans (State.addHistory_calm _ _)).trans (State.markEnd_calm _ _ _)).trans
      (State.post_calm _ _)).trans (State.clearBlocked_calm _)
  split
  · exact h.trans (State.applyDeferred_calm ht _)
  · exact h

theorem State.endWaiting_calm (e : WaitingEntry) (reason : MissReason) (at_ : Nat) (s : State) :
    Calm s (s.endWaiting trig e reason at_) := by
  unfold State.endWaiting
  simp only
  refine Calm.trans (Calm.trans (Calm.trans ?_ (State.post_calm _ _)) (State.reloadRunChannels_calm _)) (ht _)
  have h := (State.dropWaiting_calm s e.ref).trans (State.addHistory_calm _ ⟨e.ref, .missed reason, some at_, e.wend⟩)
  split
  · exact h.trans (State.manualEnd_calm _ _ _ _)
  · exact h

theorem State.recomputeEnd_calm (r : ActiveRun) (s : State) : Calm s (s.recomputeEnd trig r) := by
  unfold State.recomputeEnd
  split
  · exact Calm.refl s
  · split
    · exact State.endRun_calm ht _ _ _ _
    · exact State.setRun_calm _ _

theorem State.followRecord_calm (r : ActiveRun) (sv st : Nat) (s : State) : Calm s (s.followRecord trig r sv st) := by
  unfold State.followRecord
  split
  · exact State.endRun_calm ht _ _ _ _
  · exact State.recomputeEnd_calm ht _ _

theorem State.runBookingChange_calm (r : ActiveRun) (c : Change) (b : Option BookingRec) (s : State) :
    Calm s (s.runBookingChange trig r c b) := by
  unfold State.runBookingChange
  split
  · exact State.endRun_calm ht _ _ _ _
  · exact (State.setRun_calm _ _).trans (State.followRecord_calm ht _ _ _ _)
  · exact (State.setRun_calm _ _).trans (State.followRecord_calm ht _ _ _ _)
  · exact Calm.refl s

theorem State.runEventChange_calm (r : ActiveRun) (c : Change) (e : Option Event) (s : State) :
    Calm s (s.runEventChange trig r c e) := by
  unfold State.runEventChange
  split
  · exact State.followRecord_calm ht _ _ _ _
  · exact State.followRecord_calm ht _ _ _ _
  · exact Calm.refl s

omit ht in
theorem State.waitingChange_calm (s : State) (ref : Nat) : Calm s (s.waitingChange ref) := by
  unfold State.waitingChange
  split
  · exact ((State.dropWaiting_calm _ _).trans (State.holdBack_calm _ _)).trans (State.reloadRunChannels_calm _)
  · exact Calm.refl s

theorem State.bookingChange_calm (id : Nat) (c : Change) (b : Option BookingRec) (s : State) :
    Calm s (s.bookingChange trig id c b) := by
  have h : ∀ u : State, Calm s u → Calm s (match u.runOf id with
      | some r => (u.runBookingChange trig r c b).reloadRunChannels
      | none => u) := by
    intro u hu
    split
    · exact (hu.trans (State.runBookingChange_calm ht _ _ _ _)).trans (State.reloadRunChannels_calm _)
    · exact hu
  unfold State.bookingChange
  cases b with
  | some b => exact (h _ (State.clearEndState_calm _ _)).trans (State.waitingChange_calm _ _)
  | none => exact (h _ (Calm.refl _)).trans (State.waitingChange_calm _ _)

theorem State.eventChange_calm (id : Nat) (c : Change) (e : Option Event) (s : State) :
    Calm s (s.eventChange trig id c e) := by
  unfold State.eventChange
  simp only
  refine Calm.trans ?_ (State.waitingChange_calm _ _)
  split
  · exact (State.runEventChange_calm ht _ _ _ _).trans (State.reloadRunChannels_calm _)
  · exact Calm.refl _

theorem State.reportEvents_calm (request : Bool) (before : List MatchedEntry) (s : State) :
    Calm s (s.reportEvents trig request before) := by
  unfold State.reportEvents
  simp only
  have h := Calm.foldl (fun s (p : Nat × Change × Option Event) => State.eventChange_calm ht p.1 p.2.1 p.2.2 s)
    (eventChanges before s.gmx.entries) s
  split
  · exact h.trans (ht _)
  · exact h

theorem State.refuseStart_calm (e : WaitingEntry) (cause : Cause) (s : State) : Calm s (s.refuseStart trig e cause) := by
  unfold State.refuseStart
  refine Calm.trans ?_ (ht _)
  exact Calm.of_run id id

theorem State.enterRun_calm (e : WaitingEntry) (sv : ServiceRec) (f : Nat) (s : State) :
    Calm s (s.enterRun trig e sv f) := by
  unfold State.enterRun
  simp only
  refine Calm.trans ?_ (ht _)
  refine Calm.trans ?_ (State.post_calm _ _)
  exact (State.dropWaiting_calm s e.ref).trans (Calm.of_run id id)

theorem State.startEntry_calm (f : Nat) (e : WaitingEntry) (s : State) : Calm s (s.startEntry trig f e) := by
  unfold State.startEntry
  split
  · exact Calm.ite (State.endWaiting_calm ht _ _ _ _) (Calm.refl s)
  · split
    · exact State.refuseStart_calm ht _ _ _
    · rename_i sv _
      have h := State.requestStream_calm s e.tuner e.ref sv.multiplex sv.feed f
      split
      · rename_i heq
        rw [heq] at h
        exact h.trans (State.refuseStart_calm ht _ _ _)
      · rename_i heq
        rw [heq] at h
        exact h.trans (State.enterRun_calm ht _ _ _ _)

theorem State.startDue_calm (T : Tuner) (f : Nat) (s : State) : Calm s (s.startDue trig T f) := by
  unfold State.startDue
  refine Calm.trans (Calm.foldl (fun s e => ?_) _ _) (State.reloadRunChannels_calm _)
  unfold State.startIfWaiting
  split
  · split
    · exact State.startEntry_calm ht _ _ _
    · exact Calm.refl _
  · exact Calm.refl _

theorem State.endIfActive_calm (ref : Nat) (o : ActiveRun → RunOutcome) (stop : Nat) (s : State) :
    Calm s (s.endIfActive trig ref o stop) := by
  unfold State.endIfActive
  split
  · exact State.endRun_calm ht _ _ _ _
  · exact Calm.refl _

theorem State.endIfWaiting_calm (ref : Nat) (reason : MissReason) (f : Nat) (s : State) :
    Calm s (s.endIfWaiting trig ref reason f) := by
  unfold State.endIfWaiting
  split
  · exact Calm.ite (State.endWaiting_calm ht _ _ _ _) (Calm.refl s)
  · exact Calm.refl _

theorem State.stopDue_calm (T : Tuner) (f : Nat) (s : State) : Calm s (s.stopDue trig T f) := by
  unfold State.stopDue
  exact ((Calm.foldl (fun s _ => State.endIfActive_calm ht _ _ _ s) _ _).trans
    (Calm.foldl (fun s _ => State.endIfWaiting_calm ht _ _ _ s) _ _)).trans (State.reloadRunChannels_calm _)

theorem State.confirmDue_calm (f : Nat) (s : State) : Calm s (s.confirmDue trig f) := by
  unfold State.confirmDue
  exact (Calm.foldl (fun s _ => State.endIfActive_calm ht _ _ _ s) _ _).trans (State.reloadRunChannels_calm _)

theorem State.recomputeIfActive_calm (ref : Nat) (s : State) : Calm s (s.recomputeIfActive trig ref) := by
  unfold State.recomputeIfActive
  split
  · exact State.recomputeEnd_calm ht _ _
  · exact Calm.refl _

theorem State.reconcile_calm (s : State) : Calm s (s.reconcile trig) := by
  unfold State.reconcile
  exact ((Calm.foldl (fun s _ => State.recomputeIfActive_calm ht _ s) _ _).trans (State.rebuildWaiting_calm _)).trans
    (State.reloadRunChannels_calm _)

end Engine

/-! ### The planner's trigger -/

theorem length_pruneDisplacing (es : List MatchedEntry) : (pruneDisplacing es).length ≤ es.length :=
  List.length_filter_le _ _

theorem State.guidePurge_calm {trig : Trigger} (ht : ∀ s, Calm s (trig s)) (s : State) : Calm s (s.guidePurge trig) := by
  unfold State.guidePurge
  refine Calm.trans (State.setEntries_calm fun h => ?_) (State.reportEvents_calm ht _ _ _)
  exact (length_pruneDisplacing _).trans ((List.length_filter_le _ _).trans h)

/-- The purges, the removal of untagged keys, and nothing of the snapshot yet (R84). -/
theorem State.startReplan_calm {s : State} (hs : s.pln.snapshot = none) : Calm s s.startReplan := by
  unfold State.startReplan
  have h0 : Calm s { s with pln := { s.pln with stale := false } } :=
    ⟨⟨fun f => { f with }, fun _ h => h, BitVec.or_self, [], by simp⟩, rfl⟩
  have h1 := ((h0.trans (State.guidePurge_calm State.markStale_calm _)).trans (State.historyPurge_calm _)).trans
    (State.removeUntagged_calm _)
  refine ⟨⟨fun f => { h1.fit f with }, fun sn h => ?_, h1.sticky, h1.events⟩, h1.still⟩
  rw [hs] at h
  cases h

/-- What a trigger can do (R83): the stale flag while RUNNING, a replan while IDLE and VALID, nothing while UNSET. -/
theorem State.trigger_eq (s : State) :
    (s.pln.snapshot.isSome = true ∧ s.trigger = s.markStale) ∨
    (s.pln.snapshot = none ∧ s.clk.valid = true ∧ s.trigger = s.startReplan) ∨
    (s.pln.snapshot = none ∧ s.clk.valid = false ∧ s.trigger = s) := by
  unfold State.trigger
  cases h : s.pln.snapshot <;> cases hv : s.clk.valid <;> simp

theorem State.trigger_calm (s : State) : Calm s s.trigger := by
  rcases State.trigger_eq s with ⟨-, h⟩ | ⟨h0, -, h⟩ | ⟨-, -, h⟩ <;> rw [h]
  · exact State.markStale_calm s
  · exact State.startReplan_calm h0
  · exact Calm.refl s

/-! ### The viewer and the warnings -/

theorem State.grantView_calm (s : State) (T : Tuner) (joined : Bool) (service m f : Nat) :
    Calm s (s.grantView T joined service m f) := by
  unfold State.grantView
  simp only
  have h := (Calm.of_tun s ((if s.tun.viewerTuner = some (otherTuner T) then
      s.tun.set (otherTuner T) (s.tun.get (otherTuner T)).releaseViewer else s.tun).set T
      (((if s.tun.viewerTuner = some (otherTuner T) then
      s.tun.set (otherTuner T) (s.tun.get (otherTuner T)).releaseViewer else s.tun).get T).takeViewer service m f))).trans
    (State.postNow_calm _ .viewGranted (some T) (if joined then 1 else 2) service (m : Nat))
  have k := ((h.trans (State.viewerHoldChanged_calm _)).trans (State.emptyWarned_calm _)).trans (State.reloadWarn_calm _)
  exact Calm.ite ((Calm.ite k h).trans (State.trigger_calm _)) (Calm.ite k h)

theorem State.doView_calm (s : State) (service : Nat) : Calm s (s.doView service) := by
  unfold State.doView
  split
  · exact State.postNow_calm _ _ _ _ _ _
  · split
    · exact State.grantView_calm _ _ _ _ _ _
    · exact State.postNow_calm _ _ _ _ _ _

theorem State.doViewEnd_calm (s : State) : Calm s s.doViewEnd := by
  unfold State.doViewEnd
  split
  · exact Calm.refl s
  · exact ((((Calm.of_tun s _).trans (State.viewerHoldChanged_calm _)).trans (State.emptyWarned_calm _)).trans
      (State.reloadWarn_calm _)).trans (State.trigger_calm _)

theorem State.warnDue_calm (f : Nat) (s : State) : Calm s (s.warnDue f) := by
  unfold State.warnDue
  simp only
  refine Calm.trans (Calm.foldl (fun s e => ?_) _ _) (State.reloadWarn_calm _)
  split
  · exact (State.post_calm _ _).trans (State.addWarned_calm _ _)
  · exact Calm.refl _

end Sys2Proof.Machine
end

