-- ==== Sys2Proof/Laws/Memory.lean ====
section
/-! SUPPORT. The mirrors' memory: what each operation makes every byte read as, and that each keeps the canonical form. -/

namespace Sys2Proof.Machine

/-- The canonical form, as order and content. -/
theorem Memory.wf_iff (m : Memory) :
    m.wf = true ↔ m.Pairwise (fun c d => c.1 < d.1) ∧ ∀ c ∈ m, c.2 ≠ Memory.blank := by
  induction m with
  | nil => simp [Memory.wf]
  | cons c rest ih =>
    obtain ⟨a, b⟩ := c
    cases rest with
    | nil => simp [Memory.wf]
    | cons d rest =>
      obtain ⟨a', b'⟩ := d
      have step : Memory.wf ((a, b) :: (a', b') :: rest) = true ↔
          (b ≠ Memory.blank ∧ a < a') ∧ Memory.wf ((a', b') :: rest) = true := by
        simp [Memory.wf]
      rw [step, ih]
      constructor
      · rintro ⟨⟨hb, ha⟩, hp, hn⟩
        refine ⟨List.pairwise_cons.2 ⟨?_, hp⟩, ?_⟩
        · intro c hc
          rcases List.mem_cons.1 hc with rfl | hc
          · exact ha
          · exact lt_trans ha ((List.pairwise_cons.1 hp).1 c hc)
        · intro c hc
          rcases List.mem_cons.1 hc with rfl | hc
          · exact hb
          · exact hn c hc
      · rintro ⟨hp, hn⟩
        obtain ⟨h1, h2⟩ := List.pairwise_cons.1 hp
        exact ⟨⟨hn (a, b) (by simp), h1 (a', b') (by simp)⟩, h2, fun c hc => hn c (List.mem_cons_of_mem _ hc)⟩

theorem Memory.wf_tail {c : Host.Cell} {m : Memory} (h : Memory.wf (c :: m) = true) : Memory.wf m = true := by
  rw [Memory.wf_iff] at *
  exact ⟨(List.pairwise_cons.1 h.1).2, fun d hd => h.2 d (List.mem_cons_of_mem _ hd)⟩

/-- An offset no cell lists reads FFh. -/
theorem Memory.read_unlisted {m : Memory} {x : Nat} (h : ∀ c ∈ m, c.1 ≠ x) : m.read x = Memory.blank := by
  induction m with
  | nil => rfl
  | cons c rest ih =>
    obtain ⟨a, b⟩ := c
    have ha : a ≠ x := h (a, b) (by simp)
    simp only [Memory.read, if_neg ha]
    exact ih fun d hd => h d (List.mem_cons_of_mem _ hd)

/-- What a byte reads as after a write: the value written there, and as before elsewhere. -/
theorem Memory.read_write {m : Memory} (h : m.wf = true) (at_ : Nat) (v : Byte) (x : Nat) :
    (m.write at_ v).read x = if x = at_ then v else m.read x := by
  induction m with
  | nil =>
    have hc : at_ = x ↔ x = at_ := eq_comm
    by_cases hv : v = Memory.blank <;> by_cases hx : x = at_ <;>
      simp [Memory.write, Memory.read, hv, hx, hc]
  | cons c rest ih =>
    obtain ⟨a, b⟩ := c
    have hwf := (Memory.wf_iff _).1 h
    have hlt := (List.pairwise_cons.1 hwf.1).1
    have ih := ih (Memory.wf_tail h)
    rcases lt_trichotomy at_ a with hlt' | rfl | hgt
    · have hrest : ∀ c ∈ rest, c.1 ≠ at_ := fun c hc => by
        have := hlt c hc
        simp only at this
        omega
      have hread : Memory.read ((a, b) :: rest) at_ = Memory.blank :=
        Memory.read_unlisted fun c hc => by
          rcases List.mem_cons.1 hc with rfl | hc
          · simp only
            omega
          · exact hrest c hc
      by_cases hv : v = Memory.blank
      · by_cases hx : x = at_
        · subst hx
          simp only [Memory.write, hlt', if_true, hv]
          exact hread
        · simp [Memory.write, hlt', hv, hx]
      · by_cases hx : x = at_
        · subst hx
          simp [Memory.write, hlt', hv, Memory.read]
        · have hx' : at_ ≠ x := fun e => hx e.symm
          simp [Memory.write, hlt', hv, hx, hx', Memory.read]
    · by_cases hv : v = Memory.blank
      · by_cases hx : x = at_
        · subst hx
          have : Memory.read rest x = Memory.blank := Memory.read_unlisted fun c hc => by
            have := hlt c hc
            simp only at this
            omega
          simp [Memory.write, hv, this]
        · have hx' : at_ ≠ x := fun e => hx e.symm
          simp [Memory.write, hv, hx, hx', Memory.read]
      · by_cases hx : x = at_
        · subst hx
          simp [Memory.write, hv, Memory.read]
        · have hx' : at_ ≠ x := fun e => hx e.symm
          simp [Memory.write, hv, hx, hx', Memory.read]
    · have h1 : ¬ at_ < a := by omega
      have h2 : ¬ at_ = a := by omega
      by_cases hax : a = x
      · have hx : x ≠ at_ := by omega
        simp only [Memory.write, if_neg h1, if_neg h2, Memory.read, if_pos hax, if_neg hx]
      · simp only [Memory.write, if_neg h1, if_neg h2, Memory.read, if_neg hax]
        exact ih

theorem Memory.mem_write {m : Memory} {at_ : Nat} {v : Byte} {c : Host.Cell} (h : c ∈ m.write at_ v) :
    c ∈ m ∨ (c = (at_, v) ∧ v ≠ Memory.blank) := by
  induction m with
  | nil =>
    by_cases hv : v = Memory.blank
    · simp [Memory.write, hv] at h
    · simp only [Memory.write, if_neg hv, List.mem_singleton] at h
      exact .inr ⟨h, hv⟩
  | cons d rest ih =>
    obtain ⟨a, b⟩ := d
    simp only [Memory.write] at h
    split at h
    · split at h
      · exact .inl h
      · rename_i hv
        rcases List.mem_cons.1 h with h | h
        · exact .inr ⟨h, hv⟩
        · exact .inl h
    · split at h
      · split at h
        · exact .inl (List.mem_cons_of_mem _ h)
        · rename_i hv
          rcases List.mem_cons.1 h with h | h
          · exact .inr ⟨h, hv⟩
          · exact .inl (List.mem_cons_of_mem _ h)
      · rcases List.mem_cons.1 h with h | h
        · exact .inl (h ▸ List.mem_cons_self)
        · rcases ih h with h | h
          · exact .inl (List.mem_cons_of_mem _ h)
          · exact .inr h

/-- A write keeps the canonical form. -/
theorem Memory.wf_write {m : Memory} (h : m.wf = true) (at_ : Nat) (v : Byte) : (m.write at_ v).wf = true := by
  induction m with
  | nil => by_cases hv : v = Memory.blank <;> simp [Memory.write, hv, Memory.wf]
  | cons d rest ih =>
    obtain ⟨a, b⟩ := d
    have ih := ih (Memory.wf_tail h)
    obtain ⟨hp, hn⟩ := (Memory.wf_iff _).1 h
    obtain ⟨hlt, hp'⟩ := List.pairwise_cons.1 hp
    have hn' : ∀ c ∈ rest, c.2 ≠ Memory.blank := fun c hc => hn c (List.mem_cons_of_mem _ hc)
    simp only [Memory.write]
    split
    · rename_i hat
      split
      · exact h
      · rename_i hv
        refine (Memory.wf_iff _).2 ⟨List.pairwise_cons.2 ⟨fun c hc => ?_, hp⟩, fun c hc => ?_⟩
        · rcases List.mem_cons.1 hc with rfl | hc
          · exact hat
          · exact lt_trans hat (hlt c hc)
        · rcases List.mem_cons.1 hc with rfl | hc
          · exact hv
          · exact hn c hc
    · rename_i hat
      split
      · rename_i heq
        split
        · exact Memory.wf_tail h
        · rename_i hv
          refine (Memory.wf_iff _).2 ⟨List.pairwise_cons.2 ⟨fun c hc => ?_, hp'⟩, fun c hc => ?_⟩
          · subst heq
            exact hlt c hc
          · rcases List.mem_cons.1 hc with rfl | hc
            · exact hv
            · exact hn' c hc
      · rename_i hne
        obtain ⟨ip, inn⟩ := (Memory.wf_iff _).1 ih
        refine (Memory.wf_iff _).2 ⟨List.pairwise_cons.2 ⟨fun c hc => ?_, ip⟩, fun c hc => ?_⟩
        · rcases Memory.mem_write hc with hc | ⟨rfl, _⟩
          · exact hlt c hc
          · simp only
            omega
        · rcases List.mem_cons.1 hc with rfl | hc
          · exact hn (a, b) (by simp)
          · exact inn c hc

/-! ### Filtering and joining -/

/-- Keeping the cells of some offsets: those read as before, the others FFh. -/
theorem Memory.read_filter (m : Memory) (p : Nat → Bool) (x : Nat) :
    Memory.read (m.filter fun c => p c.1) x = if p x then m.read x else Memory.blank := by
  induction m with
  | nil => simp [Memory.read]
  | cons c rest ih =>
    obtain ⟨a, b⟩ := c
    by_cases hp : p a
    · by_cases hx : a = x
      · subst hx
        simp [hp, Memory.read]
      · simp [hp, Memory.read, hx, ih]
    · by_cases hx : a = x
      · subst hx
        simp [hp, ih]
      · simp [hp, Memory.read, hx, ih]

theorem Memory.wf_filter {m : Memory} (h : m.wf = true) (p : Host.Cell → Bool) : Memory.wf (m.filter p) = true := by
  rw [Memory.wf_iff] at *
  exact ⟨h.1.filter p, fun c hc => h.2 c (List.mem_filter.1 hc).1⟩

/-- An erase: the range reads FFh, every other byte as before (R3). -/
theorem Memory.read_erase (m : Memory) (lo len x : Nat) :
    (m.erase lo len).read x = if lo ≤ x ∧ x < lo + len then Memory.blank else m.read x := by
  have h := Memory.read_filter m (fun a => decide (a < lo) || decide (lo + len ≤ a)) x
  have he : m.erase lo len = m.filter fun c => (fun a => decide (a < lo) || decide (lo + len ≤ a)) c.1 := by
    simp [Memory.erase]
  rw [he, h]
  by_cases hx : lo ≤ x ∧ x < lo + len
  · have : ¬ (x < lo ∨ lo + len ≤ x) := by omega
    simp [hx, this]
  · have : x < lo ∨ lo + len ≤ x := by omega
    simp [hx, this]

theorem Memory.wf_erase {m : Memory} (h : m.wf = true) (lo len : Nat) : (m.erase lo len).wf = true :=
  Memory.wf_filter h _

theorem Memory.read_append (m n : Memory) (x : Nat) :
    Memory.read (m ++ n) x = if x ∈ m.map Prod.fst then m.read x else n.read x := by
  induction m with
  | nil => simp
  | cons c rest ih =>
    obtain ⟨a, b⟩ := c
    by_cases hx : a = x
    · subst hx
      simp [Memory.read]
    · have hx' : ¬ x = a := fun e => hx e.symm
      simp only [List.cons_append, Memory.read, if_neg hx, ih, List.map_cons, List.mem_cons, hx', false_or]

/-! ### Bytes laid out -/

theorem Memory.mem_ofBytes {lo : Nat} {data : List Byte} {c : Host.Cell} (h : c ∈ Memory.ofBytes lo data) :
    lo ≤ c.1 ∧ c.1 < lo + data.length ∧ c.2 ≠ Memory.blank := by
  induction data generalizing lo with
  | nil => simp [Memory.ofBytes] at h
  | cons b bs ih =>
    simp only [Memory.ofBytes] at h
    split at h
    · have := ih h
      simp only [List.length_cons]
      exact ⟨by omega, by omega, this.2.2⟩
    · rename_i hb
      rcases List.mem_cons.1 h with rfl | h
      · exact ⟨le_refl _, by simp, hb⟩
      · have := ih h
        simp only [List.length_cons]
        exact ⟨by omega, by omega, this.2.2⟩

theorem Memory.wf_ofBytes (lo : Nat) (data : List Byte) : Memory.wf (Memory.ofBytes lo data) = true := by
  rw [Memory.wf_iff]
  refine ⟨?_, fun c hc => (Memory.mem_ofBytes hc).2.2⟩
  induction data generalizing lo with
  | nil => exact List.Pairwise.nil
  | cons b bs ih =>
    simp only [Memory.ofBytes]
    split
    · exact ih _
    · exact List.pairwise_cons.2 ⟨fun c hc => by have := (Memory.mem_ofBytes hc).1; simp only; omega, ih _⟩

/-- Bytes laid out from `lo` read back at their offsets. -/
theorem Memory.read_ofBytes (lo : Nat) (data : List Byte) (x : Nat) :
    Memory.read (Memory.ofBytes lo data) x =
      if lo ≤ x then (data[x - lo]?).getD Memory.blank else Memory.blank := by
  induction data generalizing lo with
  | nil => simp [Memory.ofBytes, Memory.read]
  | cons b bs ih =>
    rcases lt_trichotomy x lo with hx | rfl | hx
    · rw [if_neg (by omega)]
      exact Memory.read_unlisted fun c hc => by have := (Memory.mem_ofBytes hc).1; omega
    · by_cases hb : b = Memory.blank
      · have : Memory.read (Memory.ofBytes (x + 1) bs) x = Memory.blank :=
          Memory.read_unlisted fun c hc => by have := (Memory.mem_ofBytes hc).1; omega
        simp [Memory.ofBytes, hb, this]
      · simp [Memory.ofBytes, hb, Memory.read]
    · have e : x - lo = (x - (lo + 1)) + 1 := by omega
      have hle : lo ≤ x := by omega
      have hle' : lo + 1 ≤ x := by omega
      have hne : ¬ lo = x := by omega
      by_cases hb : b = Memory.blank
      · simp only [Memory.ofBytes, if_pos hb, ih, if_pos hle, if_pos hle', e, List.getElem?_cons_succ]
      · simp only [Memory.ofBytes, if_neg hb, Memory.read, if_neg hne, ih, if_pos hle, if_pos hle', e,
          List.getElem?_cons_succ]

/-- A replacement: the range reads the new bytes, every other byte as before (R18). -/
theorem Memory.read_replace (m : Memory) (lo : Nat) (data : List Byte) (x : Nat) :
    (m.replace lo data).read x =
      if lo ≤ x ∧ x < lo + data.length then (data[x - lo]?).getD Memory.blank else m.read x := by
  have h1 := Memory.read_filter m (fun a => decide (a < lo)) x
  have h2 := Memory.read_filter m (fun a => decide (lo + data.length ≤ a)) x
  unfold Memory.replace
  rw [List.append_assoc, Memory.read_append, Memory.read_append]
  by_cases hlo : x < lo
  · have hn : ¬ (lo ≤ x ∧ x < lo + data.length) := by omega
    have hb : x ∉ (Memory.ofBytes lo data).map Prod.fst := by
      rintro hm
      obtain ⟨c, hc, rfl⟩ := List.mem_map.1 hm
      have := (Memory.mem_ofBytes hc).1
      omega
    have hg : ¬ (lo + data.length ≤ x) := by omega
    simp only [hlo, decide_true, if_true] at h1
    simp only [hg, decide_false] at h2
    rw [if_neg hn, if_neg hb, h1, h2]
    split
    · rfl
    · rename_i hx
      refine (Memory.read_unlisted fun c hc he => hx ?_).symm
      exact List.mem_map.2 ⟨c, List.mem_filter.2 ⟨hc, by simp [he, hlo]⟩, he⟩
  · have hfirst : x ∉ (m.filter fun c => decide (c.1 < lo)).map Prod.fst := by
      rintro hm
      obtain ⟨c, hc, rfl⟩ := List.mem_map.1 hm
      simp only [List.mem_filter, decide_eq_true_eq] at hc
      omega
    rw [if_neg hfirst]
    by_cases hin : x < lo + data.length
    · have hy : lo ≤ x ∧ x < lo + data.length := ⟨by omega, hin⟩
      have hg : ¬ (lo + data.length ≤ x) := by omega
      simp only [hg, decide_false] at h2
      rw [if_pos hy, h2]
      have hr := Memory.read_ofBytes lo data x
      rw [if_pos hy.1] at hr
      split
      · exact hr
      · rename_i hx
        have : Memory.read (Memory.ofBytes lo data) x = Memory.blank :=
          Memory.read_unlisted fun c hc he => hx (List.mem_map.2 ⟨c, hc, he⟩)
        rw [← hr, this]
        rfl
    · have hn : ¬ (lo ≤ x ∧ x < lo + data.length) := by omega
      have hb : x ∉ (Memory.ofBytes lo data).map Prod.fst := by
        rintro hm
        obtain ⟨c, hc, rfl⟩ := List.mem_map.1 hm
        have := (Memory.mem_ofBytes hc).2.1
        omega
      have hg : lo + data.length ≤ x := by omega
      simp only [hg, decide_true, if_true] at h2
      rw [if_neg hn, if_neg hb, h2]

theorem Memory.wf_replace {m : Memory} (h : m.wf = true) (lo : Nat) (data : List Byte) :
    (m.replace lo data).wf = true := by
  have hm := (Memory.wf_iff _).1 h
  have hb := (Memory.wf_iff _).1 (Memory.wf_ofBytes lo data)
  rw [Memory.wf_iff]
  unfold Memory.replace
  refine ⟨?_, ?_⟩
  · refine List.pairwise_append.2 ⟨List.pairwise_append.2 ⟨hm.1.filter _, hb.1, ?_⟩, hm.1.filter _, ?_⟩
    · intro c hc d hd
      simp only [List.mem_filter, decide_eq_true_eq] at hc
      have := (Memory.mem_ofBytes hd).1
      omega
    · intro c hc d hd
      simp only [List.mem_filter, decide_eq_true_eq] at hd
      rcases List.mem_append.1 hc with hc | hc
      · simp only [List.mem_filter, decide_eq_true_eq] at hc
        omega
      · have := (Memory.mem_ofBytes hc).2.1
        omega
  · intro c hc
    rcases List.mem_append.1 hc with hc | hc
    · rcases List.mem_append.1 hc with hc | hc
      · exact hm.2 c (List.mem_filter.1 hc).1
      · exact (Memory.mem_ofBytes hc).2.2
    · exact hm.2 c (List.mem_filter.1 hc).1

/-! ### Programs (R2) -/

theorem Memory.read_clearBits {m : Memory} (h : m.wf = true) (at_ : Nat) (v : Byte) (x : Nat) :
    (m.clearBits at_ v).read x = if x = at_ then m.read x &&& v else m.read x := by
  unfold Memory.clearBits
  rw [Memory.read_write h]
  split
  · rename_i hx
    rw [hx]
  · rfl

theorem Memory.wf_clearBits {m : Memory} (h : m.wf = true) (at_ : Nat) (v : Byte) : (m.clearBits at_ v).wf = true :=
  Memory.wf_write h _ _

/-- A program: every byte is ANDed with the bytes applied at its offset, in order, and no other byte changes (R2). -/
theorem Memory.read_program {m : Memory} (h : m.wf = true) (page : Nat) (applied : List (Nat × Byte)) (x : Nat) :
    (m.program page applied).read x =
      (applied.filter fun p => page + p.1 = x).foldl (fun b p => b &&& p.2) (m.read x) := by
  unfold Memory.program
  induction applied generalizing m with
  | nil => rfl
  | cons p rest ih =>
    simp only [List.foldl_cons]
    rw [ih (Memory.wf_clearBits h _ _), Memory.read_clearBits h]
    by_cases hx : page + p.1 = x
    · simp [hx]
    · have hx' : ¬ x = page + p.1 := fun e => hx e.symm
      simp [hx, hx']

theorem Memory.wf_program {m : Memory} (h : m.wf = true) (page : Nat) (applied : List (Nat × Byte)) :
    (m.program page applied).wf = true := by
  unfold Memory.program
  induction applied generalizing m with
  | nil => exact h
  | cons p rest ih => exact ih (Memory.wf_clearBits h _ _)

end Sys2Proof.Machine
end

