-- ==== Sys2Proof/Laws/Store.lean ====
section
/-! SUPPORT. The guide matcher and the record store: each shared operation is a `Rework`, so it leaves the mirrors, the board,
the power controller, the ports, the clock's count, the published plan and all of FPX but the class table as they were. -/

namespace Sys2Proof.Machine

/-! ### Updates of the record store and the scan request -/

/-- A state whose record store alone changes: mirrors and adopted flag kept, the tables within their capacities. -/
theorem Rework.of_rst {s : State} {r : Rst} (ha : r.anchor = s.rst.anchor) (hs : r.schedule = s.rst.schedule)
    (hd : r.adopted = s.rst.adopted)
    (ht : s.TablesFit → r.tables.services.length ≤ 256 ∧ r.tables.bookings.length ≤ 128 ∧ r.tables.links.length ≤ 48
      ∧ r.tables.marks.length ≤ 512) : Rework s { s with rst := r } := by
  refine ⟨⟨fun f => ?_, fun _ h => h, BitVec.or_self, [], by simp⟩, ?_⟩
  · obtain ⟨h1, h2, h3, h4⟩ := ht f
    exact { f with services := h1, bookings := h2, links := h3, marks := h4 }
  · change { s.outer with rst := { Rst.afterReset s.pins.fsize with anchor := r.anchor, schedule := r.schedule, adopted := r.adopted } } = s.outer
    rw [ha, hs, hd]
    rfl

/-- The same where the tables do not change. -/
theorem Rework.of_rst' {s : State} {r : Rst} (ha : r.anchor = s.rst.anchor) (hs : r.schedule = s.rst.schedule)
    (hd : r.adopted = s.rst.adopted) (ht : r.tables = s.rst.tables) : Rework s { s with rst := r } :=
  Rework.of_rst ha hs hd fun f => by
    rw [ht]
    exact ⟨f.services, f.bookings, f.links, f.marks⟩

/-- A state whose scan request alone changes. -/
theorem Rework.of_scan (s : State) (r : Option Nat) : Rework s { s with ser := { s.ser with scanRequest := r } } :=
  ⟨⟨fun f => { f with }, fun _ h => h, BitVec.or_self, [], by simp⟩, rfl⟩

theorem Rework.foldl {α : Type} {f : State → α → State} (hf : ∀ s a, Rework s (f s a)) (xs : List α) (s : State) :
    Rework s (xs.foldl f s) := by
  induction xs generalizing s with
  | nil => exact Rework.refl s
  | cons x xs ih => exact (hf s x).trans (ih _)

theorem State.raiseScan_rework (s : State) : Rework s s.raiseScan := by
  unfold State.raiseScan
  split
  · exact Rework.of_scan s _
  · exact Rework.refl s

/-! ### Taking guide slots -/

theorem State.refuseEvent_calm (s : State) (slot : Nat) (e : Event) (notice : Bool) : Calm s (s.refuseEvent slot e notice) := by
  unfold State.refuseEvent
  exact Calm.ite ((State.raise_calm _ _).trans (State.postNow_calm _ _ _ _ _ _)) (State.raise_calm _ _)

theorem Taking.refuse_calm (t : Taking) (mode : TakeMode) (slot : Nat) (e : Event) : Calm t.st (t.refuse mode slot e).st :=
  State.refuseEvent_calm _ _ _ _

/-- What taking a matched slot can do: one more entry within the capacity, or a refusal (R30, R33). -/
theorem Taking.takeMatched_calm (t : Taking) (mode : TakeMode) (slot : Nat) (e : Event) :
    Calm t.st (t.takeMatched mode slot e).st := by
  unfold Taking.takeMatched
  by_cases h : t.st.gmx.entries.length < Config.matchedCap
  · simp only [if_pos h]
    refine State.setEntries_calm fun _ => ?_
    unfold insertEntry
    rw [length_insertBy]
    exact h
  · simp only [if_neg h]
    exact Taking.refuse_calm _ _ _ _

theorem length_pruneDisplacingOf (id : Nat) (es : List MatchedEntry) : (pruneDisplacingOf id es).length ≤ es.length := by
  unfold pruneDisplacingOf
  split
  · exact le_refl _
  · exact List.length_filter_le _ _

/-- What taking an unmatched slot can do: nothing, a displacing entry within the capacity, or a refusal that may remove the
entries it outranks (R32, R33, R41). -/
theorem Taking.takeUnmatched_calm (t : Taking) (mode : TakeMode) (slot : Nat) (e : Event) :
    Calm t.st (t.takeUnmatched mode slot e).st := by
  unfold Taking.takeUnmatched
  by_cases hd : displaces t.st.gmx.entries slot e = true
  · simp only [if_pos hd]
    by_cases h : t.st.gmx.entries.length < Config.matchedCap
    · simp only [if_pos h]
      refine State.setEntries_calm fun _ => ?_
      unfold insertEntry
      rw [length_insertBy]
      exact h
    · simp only [if_neg h]
      refine Calm.trans (State.setEntries_calm fun hl => ?_) (Taking.refuse_calm ⟨_, _⟩ _ _ _)
      split
      · exact hl
      · exact ((length_pruneDisplacingOf _ _).trans (List.length_filter_le _ _)).trans hl
  · simp only [if_neg hd]
    exact Calm.refl _

theorem State.takeSector_calm (s : State) (mode : TakeMode) (slots : List (Nat × Event)) : Calm s (s.takeSector mode slots) := by
  have fold : ∀ (f : Taking → Nat × Event → Taking), (∀ t p, Calm t.st (f t p).st) → ∀ (xs : List (Nat × Event)) (t : Taking),
      Calm t.st (xs.foldl f t).st := by
    intro f hf xs
    induction xs with
    | nil => exact fun t => Calm.refl _
    | cons x xs ih => exact fun t => (hf t x).trans (ih _)
  unfold State.takeSector
  have h1 := fold (fun t p => t.takeMatched mode p.1 p.2) (fun t p => Taking.takeMatched_calm t mode p.1 p.2)
    (slots.filter fun p => s.isMatched p.2) ⟨s, false⟩
  exact h1.trans (fold (fun t p => t.takeUnmatched mode p.1 p.2) (fun t p => Taking.takeUnmatched_calm t mode p.1 p.2) _ _)

/-! ### Programs, erases, the re-test and the reading of sectors -/

theorem State.doubtGuideSector_rework (s : State) (sector : Nat) : Rework s (s.doubtGuideSector sector) := by
  unfold State.doubtGuideSector
  refine Rework.trans (Rework.of_rst' (r := { s.rst with verify := insertNat sector s.rst.verify }) rfl rfl rfl rfl) ?_
  exact (State.setEntries_calm fun h => by simpa using h).rework

theorem State.programHeld_rework (s : State) (slot : Nat) (bytes : List (Nat × Byte)) : Rework s (s.programHeld slot bytes) := by
  unfold State.programHeld
  split
  · exact Rework.refl s
  · split
    · exact (State.setEntries_calm fun h =>
        (length_pruneDisplacing _).trans ((List.length_filter_le _ _).trans h)).rework
    · split
      · exact Rework.refl s
      · exact State.doubtGuideSector_rework _ _
  · exact State.doubtGuideSector_rework _ _

theorem State.programWhole_calm (s : State) (slot : Nat) (f : Nat → Byte) : Calm s (s.programWhole slot f) := by
  unfold State.programWhole
  split
  · split
    · exact Taking.takeMatched_calm ⟨s, false⟩ _ _ _
    · exact Taking.takeUnmatched_calm ⟨s, false⟩ _ _ _
  · exact State.postNow_calm _ _ _ _ _ _
  · exact Calm.refl s

theorem State.programSlot_rework (s : State) (page : Nat) (applied : List (Nat × Byte)) (off : Nat) :
    Rework s (s.programSlot page applied off) := by
  unfold State.programSlot
  simp only
  split
  · exact Rework.refl s
  · split
    · exact State.programHeld_rework _ _ _
    · split
      · exact (State.programWhole_calm _ _ _).rework
      · exact Rework.refl s

section Matcher

variable {trig : Trigger} (ht : ∀ s, Calm s (trig s))

include ht

theorem State.guideProgram_rework (addr : Nat) (data : List Byte) (s : State) : Rework s (s.guideProgram trig addr data) := by
  unfold State.guideProgram
  simp only
  split
  · exact Rework.refl s
  · exact (Rework.foldl (fun s off => State.programSlot_rework s _ _ off) _ _).trans (State.reportEvents_calm ht _ _ _).rework

theorem State.guideErase_calm (lo len : Nat) (s : State) : Calm s (s.guideErase trig lo len) := by
  unfold State.guideErase
  exact (State.setEntries_calm fun h => (length_pruneDisplacing _).trans ((List.length_filter_le _ _).trans h)).trans
    (State.reportEvents_calm ht _ _ _)

theorem State.guideRetest_calm (s : State) : Calm s (s.guideRetest trig) := by
  unfold State.guideRetest
  refine Calm.trans (State.setEntries_calm fun h => ?_) (State.reportEvents_calm ht _ _ _)
  refine (length_pruneDisplacing _).trans ((List.length_filter_le _ _).trans ?_)
  simpa using h

theorem State.guideVerify_rework (sector : Nat) (data : List Byte) (s : State) : Rework s (s.guideVerify trig sector data) := by
  unfold State.guideVerify
  simp only
  have h3 : Calm s (State.setEntries _ (pruneDisplacing _)) :=
    ((State.setEntries_calm (s := s) (es := s.gmx.entries.filter fun e => sectorOf e.slot ≠ sector)
      fun h => (List.length_filter_le _ _).trans h).trans
      (State.takeSector_calm _ .verify (sectorEvents sector data))).trans
      (State.setEntries_calm fun h => (length_pruneDisplacing _).trans h)
  refine Rework.trans ?_ (State.reportEvents_calm ht _ _ _).rework
  have h4 := h3.trans (State.postNow_calm _ .mirrorCorrected none 3 sector 0)
  split
  · exact h4.rework.trans (Rework.of_rst' rfl rfl rfl rfl)
  · exact h3.rework.trans (Rework.of_rst' rfl rfl rfl rfl)

theorem State.guideScan_rework (sector : Nat) (data : List Byte) (s : State) : Rework s (s.guideScan trig sector data) := by
  unfold State.guideScan
  simp only
  exact ((State.takeSector_calm s .scan _).trans (State.reportEvents_calm ht _ _ _)).rework.trans (Rework.of_scan _ _)

end Matcher

/-! ### The record store -/

theorem State.recomputeTables_rework (s : State) : Rework s s.recomputeTables :=
  Rework.of_rst rfl rfl rfl fun _ => by
    refine ⟨?_, ?_, ?_, ?_⟩ <;> exact List.length_take_le _ _

theorem State.resolveAnchor_rework (s : State) : Rework s s.resolveAnchor := by
  unfold State.resolveAnchor
  simp only
  split
  · exact Rework.refl s
  · have h : Rework s { s with rst := { s.rst with effConfig := s.resolveConfig, effOpcodes := s.resolveOpcodes } } :=
      Rework.of_rst' rfl rfl rfl rfl
    split
    · exact h
    · exact h.trans ⟨⟨fun f => { f with }, fun _ h => h, BitVec.or_self, [], by simp⟩, rfl⟩

theorem State.reportDamaged_rework (s : State) : Rework s s.reportDamaged := by
  unfold State.reportDamaged
  simp only
  refine Rework.trans ?_ (Rework.foldl (fun s _ => (State.postNow_calm s _ _ _ _ _).rework) _ _)
  exact Rework.of_rst' rfl rfl rfl rfl

theorem State.reportRejected_rework (s : State) : Rework s s.reportRejected := by
  unfold State.reportRejected
  simp only
  refine Rework.trans ?_ (Rework.foldl (fun s _ => (State.postNow_calm s _ _ _ _ _).rework) _ _)
  exact Rework.of_rst' rfl rfl rfl rfl

theorem State.reportLeft_calm (s : State) (kind : Nat) (fresh : List (Nat × Nat)) : Calm s (s.reportLeft kind fresh) := by
  unfold State.reportLeft
  exact Calm.foldl (fun s _ => (State.raise_calm s _).trans (State.postNow_calm _ _ _ _ _ _)) _ _

theorem State.reportLeftOut_calm (before : Records) (s : State) : Calm s (s.reportLeftOut before) := by
  unfold State.reportLeftOut
  exact (((State.reportLeft_calm _ _ _).trans (State.reportLeft_calm _ _ _)).trans (State.reportLeft_calm _ _ _)).trans
    (State.reportLeft_calm _ _ _)

theorem State.changeConfig_rework (s : State) : Rework s s.changeConfig.1 := by
  unfold State.changeConfig
  simp only
  have h : ∀ u : State, Rework s u → Rework s { u with rst := { u.rst with
      inForce := { s.rst.inForce with
        schedule := s.recordCfg.schedule
        tuner := if decide (s.recordCfg.tuner ≠ s.rst.inForce.tuner) && !!s.run.runs.isEmpty
          then s.recordCfg.tuner else s.rst.inForce.tuner }
      deferred := if decide (s.recordCfg.tuner ≠ s.rst.inForce.tuner) && !s.run.runs.isEmpty
        then some s.recordCfg.tuner else none } } :=
    fun u hu => hu.trans (Rework.of_rst' rfl rfl rfl rfl)
  by_cases hl : s.recordCfg.layout = s.rst.inForce.layout
  · simp only [hl, ne_eq, not_true_eq_false, if_false]
    exact h s (Rework.refl s)
  · simp only [ne_eq, hl, not_false_eq_true, if_true]
    exact h _ (State.raise_calm s _).rework

theorem State.postConfig_calm (s : State) (o : ConfigOutcome) : Calm s (s.postConfig o) := by
  unfold State.postConfig
  simp only
  have h := fun c [Decidable c] (d : Int) => Calm.ite (c := c)
    (State.postNow_calm s .configApplied none d s.configRef.1 (s.configRef.2 : Nat)) (Calm.refl s)
  exact Calm.ite ((h _ _).trans (State.postNow_calm _ _ _ _ _ _)) (h _ _)

section RecordStore

variable {trig : Trigger} (ht : ∀ s, Calm s (trig s))

include ht

theorem State.handOff_rework (before : Records) (s : State) : Rework s (s.handOff trig before) := by
  unfold State.handOff
  simp only
  have r : ∀ {c : Prop} [Decidable c] {a b : State}, Rework s a → Rework s b → Rework s (if c then a else b) := by
    intro c _ a b ha hb
    by_cases h : c
    · rwa [if_pos h]
    · rwa [if_neg h]
  have h1 := fun c [Decidable c] => r (c := c) (State.guideRetest_calm ht s).rework (Rework.refl s)
  have h2 := fun c [Decidable c] (xs : List (Nat × Change × Option BookingRec)) => (h1 c).trans
    (Rework.foldl (fun s (p : Nat × Change × Option BookingRec) => (State.bookingChange_calm ht p.1 p.2.1 p.2.2 s).rework) xs _)
  refine Rework.trans ?_ (Rework.foldl (fun s m => (State.markEntered_calm s m).rework) _ _)
  refine r (Rework.trans ?_ (State.reloadWarn_calm _).rework) ?_
  all_goals exact r ((h2 _ _).trans (State.raiseScan_rework _)) (h2 _ _)

/-- What the work of R4 can do: the tables and the configuration are brought up to the slots, and nothing outside a `Rework`
changes. -/
theorem State.storeUpdate_rework (s : State) : Rework s (s.storeUpdate trig) := by
  unfold State.storeUpdate
  simp only
  have r : ∀ {u : State} {c : Prop} [Decidable c] {a b : State}, Rework u a → Rework u b → Rework u (if c then a else b) := by
    intro u c _ a b ha hb
    by_cases h : c
    · rwa [if_pos h]
    · rwa [if_neg h]
  have h1 : Rework s s.recomputeTables.resolveAnchor :=
    (State.recomputeTables_rework s).trans (State.resolveAnchor_rework _)
  have h2 : Rework s (if decide (s.recomputeTables.resolveAnchor.rst.effConfig ≠ s.rst.effConfig) = true then
      s.recomputeTables.resolveAnchor.changeConfig else (s.recomputeTables.resolveAnchor, ⟨false, false, false⟩)).1 := by
    split
    · exact h1.trans (State.changeConfig_rework _)
    · exact h1
  generalize (if decide (s.recomputeTables.resolveAnchor.rst.effConfig ≠ s.rst.effConfig) = true then
      s.recomputeTables.resolveAnchor.changeConfig else (s.recomputeTables.resolveAnchor, ⟨false, false, false⟩)) = p at h2
  have h3 := (((h2.trans (State.reportDamaged_rework _)).trans (State.reportRejected_rework _)).trans
    (State.reportLeftOut_calm s.rst.leftOut _).rework).trans (State.postConfig_calm _ p.2).rework
  have h5 := fun c [Decidable c] =>
    (r (c := c) (h3.trans (State.applyTunerMode_calm _).rework) h3).trans (State.handOff_rework ht s.rst.tables _)
  exact r ((h5 _).trans (ht _).rework) (h5 _)

theorem State.joinVerify_rework (sectors : List Nat) (s : State) : Rework s (s.joinVerify trig sectors) := by
  unfold State.joinVerify
  simp only
  have h1 : Rework s { s with rst := { s.rst with verify := natSet (sectors ++ s.rst.verify) } } :=
    Rework.of_rst' rfl rfl rfl rfl
  refine ((h1.trans (State.storeUpdate_rework ht _)).trans ?_).trans (State.reportEvents_calm ht _ _ _).rework
  exact (State.setEntries_calm fun h => by simpa using h).rework

end RecordStore

/-- Joining sectors, with nothing to do for none. -/
theorem State.joinSectors_rework (s : State) (sectors : List Nat) : Rework s (s.joinSectors sectors) := by
  unfold State.joinSectors
  split
  · exact Rework.refl s
  · exact State.joinVerify_rework State.trigger_calm _ _

end Sys2Proof.Machine
end

