-- ==== Sys2Proof/Laws/Path.lean ====
section
/-! SUPPORT. What the operations of the flash path, the window commands, the scan engine and the power controller can do, said
once for each: an equation where the operation does one thing, the list of its cases where it chooses. -/

namespace Sys2Proof.Machine

/-! ### Selections -/

theorem State.select_owned {s : State} (h : s.fpx.owner = .k240) (sel : Selection) : s.select sel = s.dropSelection sel := by
  simp only [State.select, h]

/-- A selection that is heard, of a listed class: decoded by that class, then the arm settled. -/
theorem State.select_listed {s : State} {sel : Selection} {c : InstrClass} (h : s.Listening) (hc : s.classIs sel.code c) :
    ∃ e, e.cls = c ∧ s.fpx.classTable.entryOf sel.code = some e
      ∧ s.select sel = (s.selectClass sel e).settleArm sel.counted (some c) := by
  obtain ⟨-, ho, ha⟩ := h
  obtain ⟨e, he, hcls⟩ := Option.map_eq_some_iff.1 hc
  refine ⟨e, hcls, he, ?_⟩
  simp only [State.select, ho, ha, if_true, State.selectAttached, he, hcls]

/-- A selection of an unlisted code is forwarded and nothing else (R141). -/
theorem State.select_unlisted {s : State} {sel : Selection} (h : s.Listening) (hc : s.fpx.classTable.entryOf sel.code = none) :
    s.select sel = (s.forward sel).disarm := by
  obtain ⟨-, ho, ha⟩ := h
  simp only [State.select, ho, ha, if_true, State.selectAttached, hc]

theorem State.settleArm_counted_arm (s : State) : s.settleArm true (some .resetArm) = s := rfl

theorem State.settleArm_other (s : State) (counted : Bool) {c : InstrClass} (h : c ≠ .resetArm) :
    s.settleArm counted (some c) = s.disarm := by
  simp [State.settleArm, h]

/-- The responses of one READ_STATUS: any of them with the busy bit clear ends the write in flight (R145). -/
theorem State.statusResponses_eq (rs : List Byte) (s : State) :
    rs.foldl State.statusResponse s =
      { s with fpx := { s.fpx with inFlight :=
        if (rs.any fun b => !b.getLsbD s.fpx.classTable.busyBit) = true then none else s.fpx.inFlight } } := by
  induction rs generalizing s with
  | nil => simp
  | cons b rs ih =>
    rw [List.foldl_cons, ih]
    by_cases hb : b.getLsbD s.fpx.classTable.busyBit = true <;> simp [State.statusResponse, hb]

/-! ### Window commands -/

theorem State.complete_eq (s : State) (code : Byte) (r : CmdResult) :
    s.complete code r =
      { s with rep := { s.rep with
          lastCode := code, lastResult := resultCode r, lastCounter := s.rep.counter + 1, counter := s.rep.counter + 1
          sticky := s.rep.sticky ||| (if r = .ok then 0x0008 else 0x0018) } } := by
  by_cases h : r = .ok
  · simp [State.complete, State.raise, h, Flag.bit, Flag.number]
  · have hb : (0x0018 : BitVec 16) = 0x0008 ||| 0x0010 := by decide
    simp only [State.complete, State.raise, if_neg h, Flag.bit, Flag.number, hb, ← BitVec.or_assoc]
    rfl

/-- An answer with no other work is `answered`. -/
theorem State.complete_disarm (s : State) (program code : Byte) (r : CmdResult) :
    ((s.clearPorts.cut program).complete code r).disarm = s.answered program code r := by
  rw [State.complete_eq]; rfl

/-- A command's program, heard: the select is withdrawn, the command acts, the arm is disarmed (R148, R152). -/
theorem State.commandProgram_listening {s : State} {e : ClassEntry} (h : s.Listening)
    (he : s.fpx.classTable.firstOf .program = some e) (offset : Byte) (sent : List Byte) (act : State → State) :
    s.clearPorts.commandProgram offset sent act = (act (s.clearPorts.cut e.code)).disarm := by
  obtain ⟨-, ho, ha⟩ := h
  have h1 : s.clearPorts.fpx.classTable.firstOf .program = some e := he
  have h2 : s.clearPorts.fpx.owner = .soc := ho
  have h3 : s.clearPorts.fpx.attached = true := ha
  simp only [State.commandProgram, h1, h2, h3, if_true]

theorem State.runCommand_ok {s : State} {c : Command} (h : argOk c = true) :
    s.runCommand c = ((s.commandWork c).2.complete (commandCode c) (s.commandWork c).1).afterCommand c := by
  simp only [State.runCommand, h, if_true]

theorem State.runCommand_bad {s : State} {c : Command} (h : argOk c = false) :
    s.runCommand c = s.complete (commandCode c) .badArg := by
  simp only [State.runCommand, h, Bool.false_eq_true, if_false]

/-! ### Serving the window -/

/-- A run of bytes that takes in neither the clock's low byte nor the toggle changes nothing (R159). -/
theorem State.serve_eq (s : State) (off n : Nat) (hc : off + n ≤ clockOffset ∨ clockOffset < off)
    (ht : off + n ≤ toggleOffset ∨ toggleOffset < off) :
    s.serve off n = ((List.range n).map fun i => some (s.windowByte (off + i)), s) := by
  induction n generalizing off with
  | zero => rfl
  | succ n ih =>
    have h1 : off ≠ clockOffset := by omega
    have h2 : off ≠ toggleOffset := by omega
    have hs : s.served off = s := by simp only [State.served, if_neg h1, if_neg h2]
    have := ih (off + 1) (by omega) (by omega)
    have hm : ((List.range n).map fun i => some (s.windowByte (off + 1 + i))) =
        (List.range n).map ((fun i => some (s.windowByte (off + i))) ∘ Nat.succ) :=
      List.map_congr_left fun i _ => by simp only [Function.comp_apply, Nat.succ_eq_add_one, Nat.add_comm, Nat.add_left_comm]
    simp only [State.serve, hs, this, List.range_succ_eq_map, List.map_cons, List.map_map, Nat.add_zero, hm]

/-- No byte past the window's last one is anything but FFh. -/
theorem State.windowByte_above (s : State) {off : Nat} (h : 0x4000 ≤ off) : s.windowByte off = 0xFF := by
  unfold State.windowByte
  repeat rw [if_neg (by omega)]

/-! ### Ownership, lends and the scan engine -/

/-- A lend's end: the notice, and the SoC owns the path unless STANDBY keeps it (R155). -/
theorem State.endLend_eq {s : State} {l : Lend} (h : s.fpx.lend = some l) (why : LendEnd) :
    s.endLend why =
      State.post
        { s with fpx := { s.fpx with lend := none, owner := if why = .standby then s.fpx.owner else .soc } }
        ⟨.lendDone, none, why.detail, s.clk.counter, s.sectorsLeft, (l.read : Nat)⟩ := by
  simp only [State.endLend, h, State.postNow, State.post]
  split <;> rfl

/-- One status read: the instruction on the port, and the ownership's first read timed (R157). -/
theorem State.pollFlash_eq {s : State} {e : ClassEntry} (h : s.fpx.classTable.ownOf .readStatus = some e) :
    s.pollFlash =
      { s with
        ports := { s.ports with flash := s.ports.flash ++ [.own e.code none e.dummy 1] }
        fpx := { s.fpx with firstPoll := match s.fpx.firstPoll with | some t => some t | none => some s.clk.crystal } } := by
  obtain ⟨pins, fpx, rst, gmx, ser, pln, clk, run, tun, rep, pwc, ports, freeCount, pending⟩ := s
  obtain ⟨ct, wel, ra, inf, sus, asl, att, ow, gu, sc, fp, gave, ld⟩ := fpx
  cases fp <;> simp_all [State.pollFlash, State.flashPort]

theorem State.beginRead_eq {s : State} {e : ClassEntry} (h : s.fpx.classTable.ownOf .read = some e) (x : Nat) (p : Purpose) :
    s.beginRead x p =
      { s with
        ports := { s.ports with flash := s.ports.flash ++ [.own e.code (some x) e.dummy e.width] }
        fpx := { s.fpx with scan := .reading x p } } := by
  simp only [State.beginRead, h, State.flashPort]

/-- One status read before a sector: its READ follows when the flash is ready or the 400 s have passed; else the sector
waits (R157). -/
theorem State.pollFor_one {s : State} {es er : ClassEntry} (hs : s.fpx.classTable.ownOf .readStatus = some es)
    (hr : s.fpx.classTable.ownOf .read = some er) (x : Nat) (p : Purpose) (b : Byte) :
    s.pollFor x p [b] =
      (let go := s.isReady b || s.fpx.gaveUp || s.busyOver
       { s with
         ports := { s.ports with
           flash := s.ports.flash ++ [.own es.code none es.dummy 1]
             ++ (if go then [.own er.code (some x) er.dummy er.width] else []) }
         fpx := { s.fpx with
           firstPoll := match s.fpx.firstPoll with | some t => some t | none => some s.clk.crystal
           inFlight := if s.isReady b then none else s.fpx.inFlight
           scan := if go then .reading x p else .waiting x p } }) := by
  simp only [State.pollFor, State.pollFlash_eq hs, State.statusResponse]
  cases hb : b.getLsbD s.fpx.classTable.busyBit <;> cases hg : s.fpx.gaveUp <;> cases ho : s.busyOver <;> cases hf : s.fpx.firstPoll <;>
    simp [hb, State.beginRead, hr, State.flashPort, State.isReady]

/-- The 400 s of the busy wait, from the ownership's first status read (R157). -/
theorem State.busyOver_iff (s : State) :
    s.busyOver = true ↔ ∃ f, s.fpx.firstPoll = some f ∧ f + 400 * 32768 ≤ s.clk.crystal := by
  unfold State.busyOver
  cases s.fpx.firstPoll with
  | none => simp
  | some f => exact decide_eq_true_iff.trans ⟨fun h => ⟨f, rfl, h⟩, fun ⟨_, h, k⟩ => by cases h; exact k⟩

/-! ### DORMANT, hand-back and STANDBY -/

/-- The test for DORMANT does nothing, or enters DORMANT from a ready STANDBY, with or without the flash put to sleep
(R176). -/
theorem State.dormantTest_cases (s : State) :
    s.dormantTest = s
    ∨ (s.dormantReady = true ∧ s.dormantTest = { s with pwc := { s.pwc with power := .dormant } })
    ∨ ∃ sleep wake, s.dormantReady = true ∧ s.releaseCode = some wake
        ∧ s.dormantTest = { s with
            ports := { s.ports with flash := s.ports.flash ++ [.own sleep none 0 1] }
            fpx := { s.fpx with asleep := true }
            pwc := { s.pwc with power := .dormant, sleepNote := some wake } } := by
  unfold State.dormantTest
  split
  · rename_i hr
    simp only [State.sleepFlash]
    split
    · rename_i pd rel _ _ hrel
      exact .inr (.inr ⟨pd.code, rel, hr, hrel, rfl⟩)
    · exact .inr (.inl ⟨hr, rfl⟩)
  · exact .inl rfl

/-- A part in DORMANT returns to STANDBY, the noted RELEASE code sent; any other stays as it is (R176). -/
theorem State.dormantReturn_cases (s : State) :
    (s.pwc.power ≠ .dormant ∧ s.dormantReturn = s)
    ∨ (s.pwc.power = .dormant ∧ s.pwc.sleepNote = none ∧ s.dormantReturn = { s with pwc := { s.pwc with power := .standby } })
    ∨ ∃ code, s.pwc.power = .dormant ∧ s.pwc.sleepNote = some code
        ∧ s.dormantReturn = { s with
            ports := { s.ports with flash := s.ports.flash ++ [.own code none 0 1] }
            fpx := { s.fpx with asleep := false }
            pwc := { s.pwc with power := .standby, sleepNote := none } } := by
  unfold State.dormantReturn
  split
  · rename_i hd
    cases hn : s.pwc.sleepNote with
    | none => exact .inr (.inl ⟨hd, rfl, by simp only [State.wakeFlash, hn]⟩)
    | some code => exact .inr (.inr ⟨code, hd, rfl, by simp only [State.wakeFlash, hn]; rfl⟩)
  · rename_i hd
    exact .inl ⟨hd, rfl⟩

/-- The hand-back waits for a read in progress under SOCRST, or is made at once (R177). -/
theorem State.startHandBack_cases (s : State) :
    (∃ x p, s.fpx.scan = .reading x p
      ∧ s.startHandBack = { s with pwc := { s.pwc with socrst := true, handBack := true } })
    ∨ ((∀ x p, s.fpx.scan ≠ .reading x p) ∧ s.startHandBack = { s with
        fpx := { s.fpx with owner := .soc, scan := .idle }
        pwc := { s.pwc with power := .run, socrst := false, handBack := false, waking := none, wakeLine := false } }) := by
  unfold State.startHandBack
  split
  · rename_i x p h
    exact .inl ⟨x, p, h, rfl⟩
  · rename_i h
    exact .inr ⟨h, rfl⟩

/-- WAKE's reload changes the wake target and WAKE's channel, and may fire it (R178). -/
theorem State.reloadWake_cases (s : State) :
    ∃ tg c, Calm { s with pwc := { s.pwc with wakeTarget := tg } } s.reloadWake
      ∧ s.reloadWake = { s with pwc := { s.pwc with wakeTarget := tg }, clk := c } := by
  unfold State.reloadWake
  split
  · exact ⟨none, _, State.disableChannel_calm _ _, rfl⟩
  · exact ⟨_, _, State.loadChannel_calm _ _ _, rfl⟩

/-- What re-examining the work can do: nothing, the end of start-up, a lend's end, or the hand-back (R155, R174, R177). -/
theorem State.afterWork_cases (s : State) :
    s.afterWork = s
    ∨ (s.pwc.power = .startUp ∧ s.nextWork = none ∧ s.afterWork = s.endStartUp)
    ∨ (∃ l, s.pwc.power = .run ∧ s.fpx.lend = some l
        ∧ ((l.expired = true ∧ s.afterWork = s.endLend .expired)
            ∨ (l.expired = false ∧ s.nextWork = none ∧ s.afterWork = s.endLend .done)))
    ∨ (s.pwc.power = .standby ∧ s.pwc.handBack = true ∧ s.afterWork = s.finishHandBack) := by
  unfold State.afterWork
  split
  · rename_i h
    split
    · rename_i hn
      exact .inr (.inl ⟨h, Option.isNone_iff_eq_none.1 hn, rfl⟩)
    · exact .inl rfl
  · rename_i h
    split
    · exact .inl rfl
    · rename_i l hl
      split
      · rename_i he
        exact .inr (.inr (.inl ⟨l, h, hl, .inl ⟨he, rfl⟩⟩))
      · rename_i he
        split
        · rename_i hn
          exact .inr (.inr (.inl ⟨l, h, hl, .inr ⟨by simpa using he, Option.isNone_iff_eq_none.1 hn, rfl⟩⟩))
        · exact .inl rfl
  · rename_i h
    split
    · rename_i hb
      exact .inr (.inr (.inr ⟨h, hb, rfl⟩))
    · exact .inl rfl
  · exact .inl rfl

/-! ### Writes into the mirrors -/

/-- An accepted program's hand-off, once its bytes are in the mirror, is work of the store and the matcher (R144). -/
theorem State.handProgram_rework (s : State) (addr : Nat) (data : List Byte) :
    Rework s (s.handProgram addr data)
    ∨ Rework (s.mirrorProgram addr data) (s.handProgram addr data) := by
  have hg : ∀ u : State, Rework u (if u.meetsGuide ⟨pageOf addr, Config.pageSize⟩ then u.guideProgram State.trigger addr data else u) := by
    intro u
    split
    · exact State.guideProgram_rework State.trigger_calm _ _ _
    · exact Rework.refl u
  simp only [State.handProgram]
  split
  · exact .inr ((State.storeUpdate_rework State.trigger_calm _).trans (hg _))
  · exact .inl (hg _)

/-- The same for an accepted erase (R144). -/
theorem State.handErase_rework (s : State) (r : FlashRange) :
    Rework s (s.handErase r) ∨ Rework (s.mirrorErase r.lo r.len) (s.handErase r) := by
  have hg : ∀ u : State, Rework u (if u.meetsGuide r then u.guideErase State.trigger r.lo r.len else u) := by
    intro u
    split
    · exact (State.guideErase_calm State.trigger_calm _ _ _).rework
    · exact Rework.refl u
  simp only [State.handErase]
  split
  · exact .inr ((State.storeUpdate_rework State.trigger_calm _).trans (hg _))
  · exact .inl (hg _)

/-- All that a selection ending before its address is complete can do: it is withdrawn, with the window block named by
its first address byte, or forwarded (R151, R152). -/
theorem State.cutShort_cases (s : State) (sel : Selection) :
    (s.cutShort sel = s.cut sel.code ∧ ∃ b c rest, sel.data = b :: c :: rest ∧ s.inWindow (b.toNat * Config.blockSize))
    ∨ s.cutShort sel = s.forward sel := by
  unfold State.cutShort
  split
  · split
    · exact .inl ⟨rfl, _, _, _, ‹_›, ‹_›⟩
    · exact .inr rfl
  · exact .inr rfl

end Sys2Proof.Machine
end

