-- ==== Sys2Proof/Laws/PerInstr.lean ====
section
/-! SUPPORT. Statements made per row of the table: the length of a window command's program (9.4, R183), one lemma per
constructor of `Instr`. A row that is no window command has no such program. -/

namespace Sys2Proof.Laws.CommandLength

/-- The bytes of a row's window command, where it has one, are as many as the command table gives for its code. -/
def Statement (i : Instr) : Prop :=
  ∀ c, i.command = some c → commandLength (commandCode c) = some (encodeCommand c).length

theorem coldReset : Statement .coldReset := by
  intro c h; cases h

theorem warmReset : Statement .warmReset := by
  intro c h; cases h

theorem vddFall : Statement .vddFall := by
  intro c h; cases h

theorem pwrgoodRise : Statement .pwrgoodRise := by
  intro c h; cases h

theorem pwrgoodFall : Statement .pwrgoodFall := by
  intro c h; cases h

theorem counterAdvance : Statement .counterAdvance := by
  intro c h; cases h

theorem read (code : Byte) (addr : FlashAddr) (count : Nat) : Statement (.read code addr count) := by
  intro c h; cases h

theorem clockLatchRead : Statement .clockLatchRead := by
  intro c h; cases h

theorem replanToggleRead : Statement .replanToggleRead := by
  intro c h; cases h

theorem program (code : Byte) (addr : FlashAddr) (data : List Byte) (whole : Bool) : Statement (.program code addr data whole) := by
  intro c h; cases h

theorem eraseSector (code : Byte) (addr : FlashAddr) (whole : Bool) : Statement (.eraseSector code addr whole) := by
  intro c h; cases h

theorem eraseBlock (code : Byte) (addr : FlashAddr) (whole : Bool) : Statement (.eraseBlock code addr whole) := by
  intro c h; cases h

theorem eraseChip (code : Byte) (counted : Bool) : Statement (.eraseChip code counted) := by
  intro c h; cases h

theorem writeStatus (code : Byte) (data : List Byte) (whole : Bool) : Statement (.writeStatus code data whole) := by
  intro c h; cases h

theorem readStatus (code : Byte) (response : List Byte) : Statement (.readStatus code response) := by
  intro c h; cases h

theorem writeEnable (code : Byte) (counted : Bool) : Statement (.writeEnable code counted) := by
  intro c h; cases h

theorem writeDisable (code : Byte) (counted : Bool) : Statement (.writeDisable code counted) := by
  intro c h; cases h

theorem suspend (code : Byte) (counted : Bool) : Statement (.suspend code counted) := by
  intro c h; cases h

theorem resume (code : Byte) (counted : Bool) : Statement (.resume code counted) := by
  intro c h; cases h

theorem resetArm (code : Byte) (counted : Bool) : Statement (.resetArm code counted) := by
  intro c h; cases h

theorem flashReset (code : Byte) (counted : Bool) : Statement (.flashReset code counted) := by
  intro c h; cases h

theorem powerDown (code : Byte) (counted : Bool) : Statement (.powerDown code counted) := by
  intro c h; cases h

theorem release (code : Byte) (counted : Bool) : Statement (.release code counted) := by
  intro c h; cases h

theorem detaching (code : Byte) (counted : Bool) : Statement (.detaching code counted) := by
  intro c h; cases h

theorem otherInstruction (code : Byte) (sent : List Byte) (whole : Bool) : Statement (.otherInstruction code sent whole) := by
  intro c h; cases h

theorem writeDeadlineExpiry : Statement .writeDeadlineExpiry := by
  intro c h; cases h

theorem ackNotices (n : Byte) : Statement (.ackNotices n) := by
  intro c h; cases h; rfl

theorem clearFlags (mask : BitVec 16) : Statement (.clearFlags mask) := by
  intro c h; cases h; rfl

theorem setAttnMask (mask : BitVec 16) : Statement (.setAttnMask mask) := by
  intro c h; cases h; rfl

theorem setTime (time : BitVec 32) : Statement (.setTime time) := by
  intro c h; cases h; rfl

theorem confirmStart (ref : BitVec 32) : Statement (.confirmStart ref) := by
  intro c h; cases h; rfl

theorem reportFailure (ref : BitVec 32) : Statement (.reportFailure ref) := by
  intro c h; cases h; rfl

theorem view (service : BitVec 16) : Statement (.view service) := by
  intro c h; cases h; rfl

theorem viewEnd : Statement .viewEnd := by
  intro c h; cases h; rfl

theorem keepViewing (ref : BitVec 32) : Statement (.keepViewing ref) := by
  intro c h; cases h; rfl

theorem lend (ms : BitVec 16) : Statement (.lend ms) := by
  intro c h; cases h; rfl

theorem standby : Statement .standby := by
  intro c h; cases h; rfl

theorem replan : Statement .replan := by
  intro c h; cases h; rfl

theorem guardAnchor : Statement .guardAnchor := by
  intro c h; cases h; rfl

theorem rescan : Statement .rescan := by
  intro c h; cases h; rfl

theorem invalidCommand (offset : Byte) (sent : List Byte) : Statement (.invalidCommand offset sent) := by
  intro c h; cases h

theorem startEvent (tuner : Tuner) : Statement (.startEvent tuner) := by
  intro c h; cases h

theorem stopEvent (tuner : Tuner) : Statement (.stopEvent tuner) := by
  intro c h; cases h

theorem confirmEvent : Statement .confirmEvent := by
  intro c h; cases h

theorem warnEvent : Statement .warnEvent := by
  intro c h; cases h

theorem wakeEvent : Statement .wakeEvent := by
  intro c h; cases h

theorem replanPublish : Statement .replanPublish := by
  intro c h; cases h

theorem sectorReadStart (responses : List Byte) : Statement (.sectorReadStart responses) := by
  intro c h; cases h

theorem busyWaitTimeout : Statement .busyWaitTimeout := by
  intro c h; cases h

theorem mirrorSectorVerify (data : List Byte) : Statement (.mirrorSectorVerify data) := by
  intro c h; cases h

theorem guideSectorVerify (data : List Byte) : Statement (.guideSectorVerify data) := by
  intro c h; cases h

theorem guideSectorScan (data : List Byte) : Statement (.guideSectorScan data) := by
  intro c h; cases h

theorem lendExpiry : Statement .lendExpiry := by
  intro c h; cases h

theorem wakeDeadlineExpiry : Statement .wakeDeadlineExpiry := by
  intro c h; cases h

theorem standbyStatusPoll (response : List Byte) : Statement (.standbyStatusPoll response) := by
  intro c h; cases h

end Sys2Proof.Laws.CommandLength
end

