-- ==== Sys2Proof/WellFormed.lean ====
section
/-! DEFINITION. Well-formedness of a command's operands: what a row of the table can carry. -/

namespace Sys2Proof

/-- A sector's data is the 4096 bytes the scan engine reads (R157), and an INVALID_COMMAND fails a check of offset, size,
code or length (R167). Every other row takes any operand of its type. -/
def Instr.wf : Instr → Bool
  | .mirrorSectorVerify data => data.length == Config.sectorSize
  | .guideSectorVerify data => data.length == Config.sectorSize
  | .guideSectorScan data => data.length == Config.sectorSize
  | .invalidCommand offset sent =>
      match parseCommand offset sent with
      | .command _ => false
      | .failed _ _ => true
  | _ => true

end Sys2Proof
end

