-- ==== Sys2Proof/Tests/Slice0.lean ====
section
/-! SUPPORT. Tests: the checks of well-formedness, the command bytes and record layouts written out from the manual, small
one-step cases from its worked sequences, and one witness for the hypotheses of each statement. -/

namespace Sys2Proof.Tests

open Sys2Proof Sys2Proof.Machine

-- The tests are elaborated one after the other, so that their kernel checks do not run side by side.
set_option Elab.async false

/-! ### Well-formedness -/

theorem test_wf_refuses_short_mirror_sector : (Instr.mirrorSectorVerify [0xFF]).wf = false := by decide
theorem test_wf_refuses_short_guide_sector : (Instr.guideSectorVerify []).wf = false := by decide
theorem test_wf_refuses_short_scan_sector : (Instr.guideSectorScan [0x3F, 0x20]).wf = false := by decide
theorem test_wf_refuses_valid_invalid_command : (Instr.invalidCommand 0 [0x0C]).wf = false := by decide
theorem test_wf_takes_short_confirm : (Instr.invalidCommand 0 [0x05, 0x7E, 0x17]).wf = true := by decide

/-! ### Command bytes (chapter 11's example; the lengths of 9.4) -/

theorem test_bytes_confirm_start :
    parseCommand 0 [0x05, 0x7E, 0x17, 0x00, 0x80] = .command (.confirmStart 0x8000177E) := by decide
theorem test_bytes_lend : parseCommand 0 [0x0A, 0x60, 0xEA] = .command (.lend 60000) := by decide
theorem test_bytes_view : parseCommand 0 [0x07, 0x02, 0x01] = .command (.view 0x0102) := by decide
theorem test_bytes_set_time : parseCommand 0 [0x04, 0x40, 0x42, 0x0F, 0x00] = .command (.setTime 1000000) := by decide
theorem test_bytes_rescan_padded : parseCommand 0 [0x0E, 0xFF] = .failed (some 0x0E) .badLength := by decide
theorem test_bytes_code_zero : parseCommand 0 [0x00] = .failed (some 0x00) .badCode := by decide

/-! ### Small states -/

/-- The built-in table (R14) with a code for every other class, as an OPCODES record could give them. -/
def allCodes : ClassTable :=
  ⟨builtinEntries ++ [⟨0x75, .suspend, 0, 1⟩, ⟨0x7A, .resume, 0, 1⟩, ⟨0x66, .resetArm, 0, 1⟩, ⟨0x99, .reset, 0, 1⟩,
    ⟨0xB9, .powerDown, 0, 1⟩, ⟨0xAB, .release, 0, 1⟩, ⟨0x01, .writeStatus, 0, 1⟩, ⟨0xE9, .detaching, 0, 1⟩], 0⟩

/-- The configuration of the worked sequences: schedule at 010000h, guide of two blocks at 100000h, window at 7E0000h. -/
def cfg : Cfg := ⟨⟨some 0x010000, some 0x100000, 2, 0x7E0000⟩, ⟨.twin, 2, 3⟩, ⟨2, 5, 180, 30, 60, 14, 2⟩⟩

/-- The part in RUN, attached, with the time VALID at 71880, and the services of chapter 7's sequence. -/
def heard : State :=
  { State.reset with
    pins := ⟨.mib16, true, true⟩
    fpx := { Fpx.afterReset with owner := .soc, classTable := allCodes }
    rst := { Rst.afterReset .mib16 with
      adopted := true, verify := [], inForce := cfg
      tables := ⟨[⟨1, 0, 0x010000, 10, 0⟩, ⟨4, 0, 0x010040, 30, 2⟩, ⟨5, 0, 0x010080, 40, 0⟩],
        [⟨21, 0, 0x0100C0, 1, 72000, 3600, none, none, none, false⟩], [], []⟩ }
    clk := { Clk.afterCold 1000000000 with counter := 71880, valid := true, lastSet := some 68280 }
    pwc := { Pwc.afterReset true with power := .run, socrst := false } }

/-- A replan is RUNNING. -/
def planning (s : State) : State := { s with pln := { s.pln with snapshot := some s.takeSnapshot } }

/-- The K240 owns the path in STANDBY. -/
def standing : State :=
  { heard with
    pins := ⟨.mib16, false, true⟩
    fpx := { heard.fpx with owner := .k240 }
    pwc := { heard.pwc with power := .standby } }

/-- The K240 owns the path for a lend of one second, begun 999 milliseconds' worth of periods ago. -/
def lending (elapsed : Nat) : State :=
  { heard with
    fpx := { heard.fpx with owner := .k240, lend := some ⟨heard.clk.crystal - elapsed, 1000, 0, false⟩ } }

def withCounter (n : Nat) (s : State) : State := { s with clk := { s.clk with counter := n } }

def withEvent (c : Channel) (s : State) : State :=
  { s with clk := { s.clk with events := [⟨c, s.clk.counter, s.clk.crystal, none⟩] } }

/-- Booking 21 of chapter 6's evening, waiting on tuner A. -/
def entry21 : WaitingEntry := ⟨21, .A, 71880, 75900, 1, none, 0, 0, none, none⟩

/-- Run 21 as it entered at 71880. -/
def run21 : ActiveRun :=
  { ref := 21, kind := .manual 0, tuner := .A, service := 1, multiplex := 10, feed := 0, recStart := 72000, recService := 1,
    state := .starting, actualStart := 71880, late := false, windowEnd := 75900, deadline := some 71910, showing := none,
    part := 0, partCount := 0 }

def withWaiting (e : WaitingEntry) (s : State) : State := { s with run := { s.run with waiting := [e] } }

/-- Run 21 alone on tuner A. -/
def withRun (r : ActiveRun) (s : State) : State :=
  { s with run := { s.run with runs := [r] }, tun := ⟨⟨some 10, some 0, 1, none⟩, TunerRec.idle, []⟩ }

/-- The viewer of chapter 7's sequence: service 4 on tuner A. -/
def withViewer (s : State) : State := { s with tun := ⟨⟨some 30, some 2, 0, some 4⟩, TunerRec.idle, []⟩ }

/-- The state a row answers. -/
def after (c : Instr) (s : State) : State :=
  match exec c s with
  | .next t => t
  | .fault _ => s
  | .refused _ => s

/-! ### One step each -/

theorem test_cold_reset_starts_up : (after .coldReset heard).pwc.power = .startUp := by decide +kernel
theorem test_warm_reset_keeps_counter : (after .warmReset heard).clk.counter = 71880 := by decide +kernel
theorem test_second_adds_one : (after .counterAdvance heard).clk.counter = 71881 := by decide +kernel
theorem test_second_without_vdd :
    (after .counterAdvance { heard with pins := ⟨.mib16, true, false⟩ }).clk.counter = 71881 := by decide +kernel

/-- Chapter 5, "a clock's first days": a correction of +1 after 86400 s moves the trim by -97. -/
theorem test_drift_first_days : driftDelta 1 86400 = -97 := by decide

/-- Chapter 5, "a clock's first days": SET_TIME 1000000 at 40 is a step with detail +32767 and ref 40. -/
theorem test_set_time_step :
    (after (.setTime 1000000) (withCounter 40 heard)).rep.notices.head? =
      some ⟨.timeStepped, none, 32767, 1000000, 40, 0⟩ := by decide +kernel

/-- Chapter 8, "an erase the SoC interrupts": the program at 015000h is accepted beside the suspended erase of 013000h, and
the one at 013040h is not. -/
theorem test_program_beside_suspended :
    let s := { heard with fpx := { heard.fpx with wel := true, suspended := some ⟨.eraseSector, ⟨0x013000, 4096⟩, 45875⟩ } }
    (after (.program 0x02 0x015000 [0x00] true) s).fpx.inFlight.isSome = true
      ∧ (after (.program 0x02 0x013040 [0x00] true) s).fpx.inFlight = none := by decide +kernel

/-- Chapter 8's sequence: the reset taken puts the erase's sector into the verify set. -/
theorem test_reset_taken_doubts_sector :
    (after (.flashReset 0x99 true)
      { heard with fpx := { heard.fpx with
          resetArm := true, inFlight := some ⟨.eraseSector, ⟨0x013000, 4096⟩, 1000045875⟩ } }).rst.verify = [0x013000] := by
  decide +kernel

theorem test_power_down_sleeps : (after (.powerDown 0xB9 true) heard).fpx.asleep = true := by decide +kernel
theorem test_write_enable_needs_its_end : (after (.writeEnable 0x06 false) heard).fpx.wel = false := by decide +kernel

/-- Chapter 1's booking 7, step 2 at the state byte: 7Fh AND 3Fh, in the mirror at offset 3040h. -/
theorem test_program_ands_state_byte :
    (after (.program 0x02 0x013040 [0x3F] true)
      { heard with
        fpx := { heard.fpx with wel := true }
        rst := { heard.rst with schedule := [(0x3040, 0x7F)] } }).rst.schedule.read 0x3040 = 0x3F := by decide +kernel

theorem test_erase_block_accepts_for_8_s :
    ((after (.eraseBlock 0xD8 0x301234 true) { heard with fpx := { heard.fpx with wel := true } }).fpx.inFlight.map
      InFlight.deadline) = some 1000262144 := by decide +kernel

/-- The identification and the revision of the status header (11.2), read from the window. -/
theorem test_window_identification :
    (after (.read 0x03 0x7E0100 4) heard).ports.soc = [some 0x40, some 0x02, some 0x01, some 0x01] := by decide +kernel

/-- The counter 0001_18C8h through the latch, low byte first (R160). -/
theorem test_window_clock :
    (after (.read 0x03 0x7E010A 4) heard).ports.soc = [some 0xC8, some 0x18, some 0x01, some 0x00] := by decide +kernel

/-- Chapter 11's example: CONFIRM_START for an ended run reads 05h, 05h, 70h, for a counter of 6Fh. -/
theorem test_confirm_ended_run :
    (after (.confirmStart 21)
      { heard with
        run := { heard.run with history := [⟨21, .failed, some 75300, 75900⟩] }
        rep := { heard.rep with counter := 0x6F } }).rep.commandPage = [0x05, 0x05, 0x70] := by decide +kernel

/-- Chapter 11's example: the page reads 05h, 00h, 70h once the run has become RECORDING. -/
theorem test_confirm_active_run :
    (after (.confirmStart 21) (withRun run21 { heard with rep := { heard.rep with counter := 0x6F } })).rep.commandPage =
      [0x05, 0x00, 0x70] := by decide +kernel

/-- Chapter 9, "reading notices under load", step 5: three bytes of CONFIRM_START are BAD_LENGTH, counter 6Fh. -/
theorem test_short_confirm :
    (after (.invalidCommand 0 [0x05, 0x7E, 0x17]) { heard with rep := { heard.rep with counter := 0x6E } }).rep.commandPage =
      [0x05, 0x02, 0x6F] := by decide +kernel

/-- Chapter 6, 71880: START_A grants entry 21; its deadline is 71910. -/
theorem test_start_of_the_evening :
    ((after (.startEvent .A) (withEvent (.start .A) (withWaiting entry21 heard))).run.runs.head?.bind ActiveRun.deadline) =
      some 71910 := by decide +kernel

/-- Chapter 6, 75300: run 21, RECORDING and started before 72000, ends COMPLETE. -/
theorem test_stop_of_the_evening :
    (after (.stopEvent .A) (withEvent (.stop .A)
      (withRun { run21 with state := .recording, deadline := none, windowEnd := 75300 } (withCounter 75300 heard)))).run.history =
      [⟨21, .complete, some 75300, 75300⟩] := by decide +kernel

/-- Chapter 7, 71000: VIEW(S4) takes tuner A from IDLE. -/
theorem test_view_idle_tuner :
    (after (.view 4) (withWaiting entry21 (withCounter 71000 heard))).tun.a = ⟨some 30, some 2, 0, some 4⟩ := by
  decide +kernel

/-- Chapter 7, 71880: with the viewer on A at feed group 2, B is refused to entry 21 for the viewer in TWIN_LOOPED mode. -/
theorem test_looped_viewer_blocks :
    judgeRequest ⟨.twinLooped, 2, 3⟩ (withViewer heard).tun .B 10 0 = .refused .viewer := by decide

/-- R141: an erase code with a byte to read after its address runs on, and erases nothing. -/
theorem test_read_with_erase_code :
    (after (.read 0x20 0x013040 1) { heard with fpx := { heard.fpx with wel := true } }).fpx.inFlight = none := by decide +kernel

/-- R122: a declined entry has no end. -/
theorem test_keep_viewing_declines :
    (after (.keepViewing 21) (withWaiting entry21 heard)).run.history = [⟨21, .declined, none, 75900⟩] := by decide +kernel

/-- R121: a plan computed before booking 21's change does not bring its entry back. -/
theorem test_changed_ref_stays_out :
    (after .replanPublish ((planning (withWaiting entry21 heard)).waitingChange 21)).run.waiting = [] := by decide +kernel

/-- R111: SINGLE mode disables START_B. -/
theorem test_single_disables_start_b :
    (State.applyTunerMode
      { heard with
        rst := { heard.rst with inForce := { cfg with tuner := ⟨.single, 2, 3⟩ } }
        clk := { heard.clk with channels := { heard.clk.channels with startB := ⟨72000, true⟩ } } }).clk.channels.startB =
      ⟨72000, false⟩ := by decide +kernel

theorem test_lend_violation :
    (after (.read 0x03 0x000000 2) State.reset).ports.soc = [some 0xFF, some 0xFF]
      ∧ (after (.read 0x03 0x000000 2) State.reset).rep.sticky = 0x0080 := by decide +kernel

/-- R157: the status read, then the READ of the anchor sector at FFF000h. -/
theorem test_first_sector_read :
    (after (.sectorReadStart [0x00]) State.reset).ports.flash = [.own 0x05 none 0 1, .own 0x03 (some 0xFFF000) 0 1] := by
  decide +kernel

/-- R157: with a first status read 400 s old, a busy flash is read after a single status read, though no sector waited. -/
theorem test_busy_flash_read_once_the_400s_have_passed :
    let s := { State.reset with
      fpx := { State.reset.fpx with firstPoll := some 0 }, clk := { State.reset.clk with crystal := 400 * 32768 } }
    (after (.sectorReadStart [0x01]) s).fpx.scan = .reading 0xFFF000 .mirror := by decide +kernel

theorem test_idle_step_counts_a_period :
    (match step State.reset with
     | .next t => t.clk.prescaler
     | .fault _ => 0
     | .refused _ => 0) = 1 := by decide +kernel

/-! ### Record layouts (11.1), each slot written out from its table -/

def slotOfBytes (bytes : List Byte) : Nat → Byte := fun i => bytes.getD i 0xFF

theorem test_layout_service :
    schedSlot (slotOfBytes [0x3F, 0x01, 0x0C, 0x00, 0x02, 0x00, 0x34, 0x12, 0x03]) 0x010000 =
      .service ⟨12, 2, 0x010000, 0x1234, 3⟩ := by decide +kernel

theorem test_layout_booking :
    schedSlot (slotOfBytes [0x3F, 0x02, 0x07, 0x00, 0x01, 0x00, 0x0C, 0x00, 0x40, 0x19, 0x01, 0x00, 0x10, 0x0E, 0x00, 0x00,
      0x03, 0xFF, 0x3A, 0x11, 0x00, 0xFF]) 0x013040 =
      .booking ⟨7, 1, 0x013040, 12, 72000, 3600, some 3, none, some 4410, false⟩ := by decide +kernel

theorem test_layout_link :
    schedSlot (slotOfBytes [0x3F, 0x03, 0x05, 0x00, 0x00, 0x00, 0x04, 0x01, 0x15, 0x00, 0xFF, 0x05, 0x02, 0x4E, 0x44]) 0 =
      .link ⟨5, 0, 0, 4, true, some 21, none, some 5, [0x4E, 0x44]⟩ := by decide +kernel

theorem test_layout_mark :
    schedSlot (slotOfBytes [0x3F, 0x04, 0x03, 0x00, 0x01, 0x03, 0x45, 0x30, 0x38]) 64 =
      .mark ⟨3, [0x45, 0x30, 0x38], 1, 64⟩ := by decide +kernel

theorem test_layout_event :
    guideSlot (slotOfBytes ([0x3F, 0x20, 0x31, 0x11, 0x00, 0x02, 0x15, 0x00, 0x40, 0x19, 0x01, 0x00, 0x10, 0x0E, 0x00, 0x00, 0x01,
      0x01, 0x02, 0x01, 0x48] ++ List.replicate 15 0xFF ++ [0x01, 0x45])) =
      .event ⟨4401, 2, 21, 72000, 3600, true, 1, 2, [0x48], [0x45]⟩ := by decide +kernel

/-- R12: a wake lead of 10 and a horizon of 60 are brought to 30 and 21. -/
theorem test_layout_config_clamps :
    (parseConfig .mib16 (slotOfBytes [0x3F, 0x10, 0x00, 0x00, 0x02, 0x02, 0x03, 0x02, 0x05, 0x0A, 0x00, 0x1E, 0x00, 0x3C, 0x00,
      0x3C, 0x02, 0x00, 0x00, 0x01, 0x00, 0x00, 0x10, 0x02, 0x00, 0x00, 0x7E]) 0xFFF000).map (fun r => r.cfg) =
      some { cfg with
        tuner := ⟨.twinLooped, 2, 3⟩, schedule := ⟨2, 5, 30, 30, 60, 21, 2⟩ } := by decide +kernel

/-- A series link and one guide event that it reaches. -/
def offering : State :=
  { heard with
    rst := { heard.rst with tables := { heard.rst.tables with links := [⟨5, 0, 0, 4, false, none, none, none, [0x48]⟩] } }
    gmx := ⟨[⟨0x100000, ⟨4401, 0, 1, 75600, 1800, true, 0, 0, [0x48], [0x45]⟩, true, false, false, false, true⟩]⟩ }

/-- A run of that event's episode on tuner A. -/
def seriesRun : ActiveRun :=
  { run21 with ref := 0x80001131, kind := .series 4401 ⟨5, .tagged 5 [0x45] 0⟩, recStart := 75600, state := .recording
               deadline := none }

/-- The same event, waiting on tuner A. -/
def seriesEntry : WaitingEntry := ⟨0x80001131, .A, 71880, 77400, 1, some 4401, 0, 0, some ⟨5, .tagged 5 [0x45] 0⟩, none⟩

/-- SINGLE mode is in force. -/
def inSingle (s : State) : State :=
  { s with rst := { s.rst with inForce := { s.rst.inForce with tuner := ⟨.single, 2, 3⟩ } } }

/-- A tuner change is deferred. -/
def deferring (s : State) : State := { s with rst := { s.rst with deferred := some ⟨.single, 2, 3⟩ } }

/-- A slot of a mirror: the bytes, then FFh. -/
def slotFilled (bytes : List Byte) : List Byte := bytes ++ List.replicate (64 - bytes.length) 0xFF

/-- The schedule mirror holds services 1 and 3, the latter in two revisions, and one mark twice; the tables follow it. -/
def kept : State :=
  let m := Memory.ofBytes 0 (slotFilled [0x3F, 0x01, 0x01, 0x00, 0x00, 0x00, 0x0A, 0x00, 0x00]
    ++ slotFilled [0x3F, 0x01, 0x03, 0x00, 0x01, 0x00, 0x14, 0x00, 0x01]
    ++ slotFilled [0x3F, 0x01, 0x03, 0x00, 0x02, 0x00, 0x1E, 0x00, 0x02]
    ++ slotFilled [0x3F, 0x04, 0x03, 0x00, 0x01, 0x01, 0x45] ++ slotFilled [0x3F, 0x04, 0x03, 0x00, 0x01, 0x01, 0x45])
  { heard with
    fpx := { heard.fpx with classTable := builtinTable }
    rst := { heard.rst with
      schedule := m
      tables := ⟨[⟨1, 0, 0x010000, 10, 0⟩, ⟨3, 2, 0x010080, 30, 2⟩], [], [], [⟨3, [0x45], 1, 0x0100C0⟩]⟩ } }

theorem kept_tables : kept.TablesLaw := ⟨by decide +kernel, by decide +kernel, by decide +kernel, by decide +kernel, by decide +kernel⟩

theorem kept_layout : kept.LayoutLaw :=
  ⟨.inr ⟨0x010000, 0x100000, 2, 0x7E0000, rfl, by decide +kernel⟩, fun _ h => by simp [kept, heard, Fpx.afterReset] at h⟩

/-! ### Witnesses: for each statement with hypotheses, states and operands that meet them, at the bounds of each clause -/

/-- No supply is missing and the SoC is heard; the class table gives a PROGRAM code. -/
theorem heard_listening : heard.Listening := ⟨rfl, rfl, rfl⟩

/-- The class table's PROGRAM entry. -/
def programEntry : ClassEntry := ⟨0x02, .program, 0, 1⟩

theorem heard_program : heard.fpx.classTable.firstOf .program = some programEntry := by decide

theorem witness_VddAndPwrgoodEdges :
    (State.reset.pins.vdd = true ∧ State.reset.pins.pwrgood = false ∧ State.reset.pwc.power = .startUp)
    ∧ (standing.pins.vdd = true ∧ standing.pins.pwrgood = false ∧ standing.pwc.power = .standby ∧ standing.fpx.scan = .idle)
    ∧ (let s := { standing with fpx := { standing.fpx with scan := .reading 0xFFF000 .mirror } }
       s.pins.pwrgood = false ∧ s.pwc.power = .standby ∧ s.fpx.scan = .reading 0xFFF000 .mirror)
    ∧ (let s := { standing with pwc := { standing.pwc with power := .dormant } }
       s.pins.pwrgood = false ∧ s.pwc.power = .dormant ∧ s.fpx.scan = .idle ∧ s.pwc.sleepNote = none)
    ∧ (let s := { standing with pwc := { standing.pwc with power := .dormant, sleepNote := some 0xAB } }
       s.pins.pwrgood = false ∧ s.pwc.power = .dormant ∧ s.fpx.scan = .idle ∧ s.pwc.sleepNote = some 0xAB)
    ∧ (heard.pins.vdd = true ∧ heard.pins.pwrgood = true ∧ heard.pwc.power = .run ∧ heard.fpx.lend = none)
    ∧ ((lending 5).pins.pwrgood = true ∧ (lending 5).pwc.power = .run
       ∧ (lending 5).fpx.lend = some ⟨999999995, 1000, 0, false⟩) := by decide +kernel

/-- With no command waiting, every row is due at the next period. -/
theorem witness_StepRunsFrontCommand :
    let s := { heard with
      fpx := { heard.fpx with
        inFlight := some ⟨.program, ⟨0x010000, 256⟩, 1000000001⟩, lend := some ⟨999967233, 1000, 0, false⟩
        scan := .waiting 0x010000 .mirror, firstPoll := some 986892801 }
      clk := { heard.clk with prescaler := 32767 }
      pwc := { heard.pwc with waking := some ⟨1000000001, 31, 71880⟩ } }
    s.pending = [] ∧ s.pins.vdd = true ∧ s.clk.secondLen = 32768 ∧ s.clk.crystal + 1 = 1000000001
    ∧ 1000 * 32768 ≤ (1000000001 - 999967233) * 1000 ∧ 986892801 + 400 * 32768 ≤ 1000000001
    ∧ s.idlePeriod.pending =
        [.counterAdvance, .writeDeadlineExpiry, .lendExpiry, .busyWaitTimeout, .wakeDeadlineExpiry] := by decide +kernel

theorem witness_CounterAdvancesOrWraps :
    (withCounter 0xFFFFFFFE heard).clk.counter < 0xFFFFFFFF
    ∧ (withCounter 0xFFFFFFFF heard).pins.vdd = true ∧ (withCounter 0xFFFFFFFF heard).clk.counter = 0xFFFFFFFF
    ∧ (let s := withCounter 0xFFFFFFFF { heard with pins := ⟨.mib16, false, false⟩ }
       s.pins.vdd = false ∧ s.clk.counter = 0xFFFFFFFF) := by decide

/-- START_A at the next second, START_B a second later, STOP_A disabled. -/
def armed : State :=
  { heard with clk := { heard.clk with
      channels := ⟨⟨71881, true⟩, ⟨71882, true⟩, ⟨0, false⟩, ⟨0, false⟩, ⟨0, false⟩, ⟨0, false⟩, ⟨0, false⟩⟩ } }

theorem witness_AdvanceFiresDueChannels :
    armed.pins.vdd = true ∧ armed.clk.counter < 0xFFFFFFFF ∧ (armed.clk.counter + 1) % 3600 ≠ 0
    ∧ ((armed.clk.channels.get (.start .A)).enabled = true ∧ (armed.clk.channels.get (.start .A)).value ≤ armed.clk.counter + 1)
    ∧ (armed.clk.counter + 1 < (armed.clk.channels.get (.start .B)).value)
    ∧ (armed.clk.channels.get (.stop .A)).enabled = false := by decide +kernel

theorem witness_TriggersStartOrMarkTheReplan :
    (let s := withCounter 71999 heard
     s.pins.vdd = true ∧ s.clk.counter < 0xFFFFFFFF ∧ (s.clk.counter + 1) % 3600 = 0
     ∧ (s.clk.valid = true ∧ s.pln.snapshot = none)
     ∧ (planning s).pln.snapshot = some s.takeSnapshot
     ∧ ({ s with clk := { s.clk with valid := false } } : State).clk.valid = false)
    ∧ (let s := { offering with ser := ⟨[⟨.untagged 4401 0, 0x80001131⟩], none⟩ }
       s.pln.snapshot = none ∧ s.clk.valid = true ∧ s.trigger.ser.pendingMarks = [⟨.untagged 4401 0, 0x80001131⟩]
       ∧ ∃ e ∈ s.gmx.entries, e.matched = true ∧ s.clk.counter - 86400 < e.event.stop) := by decide +kernel

theorem witness_SecondLengthsFollowTheTrim :
    (-255 ≤ (255 : Int) ∧ (255 : Int) ≤ 255)
    ∧ (254 % 256 < (255 : Int).natAbs ∧ 0 < (255 : Int))
    ∧ (254 % 256 < (-255 : Int).natAbs ∧ (-255 : Int) < 0)
    ∧ ((255 : Int).natAbs ≤ 255 % 256) := by decide

/-- Set exactly an hour after the last set, by exactly the step limit; and three seconds off, a step. -/
theorem witness_SetTimeLoadsTheClock :
    (0 < 16777216 ∧ 2 * (driftDelta 1 16777216 * (16777216 : Nat) + 1 * 8388608).natAbs = 16777216)
    ∧ heard.Listening ∧ heard.fpx.classTable.firstOf .program = some programEntry
    ∧ (((71882 : Int) - heard.clk.counter).natAbs ≤ heard.rst.inForce.schedule.stepLimit
        ∧ heard.clk.lastSet = some 68280 ∧ 68280 + 3600 ≤ heard.clk.counter)
    ∧ (withCounter 71879 heard).clk.counter < 68280 + 3600
    ∧ ¬ ((71883 : Int) - heard.clk.counter).natAbs ≤ heard.rst.inForce.schedule.stepLimit
    ∧ (planning heard).pln.snapshot.isSome = true :=
  ⟨⟨by decide, by decide⟩, heard_listening, heard_program, by decide, by decide, by decide, by decide⟩

theorem witness_SelectionsDroppedWhileOwned :
    State.reset.pins.vdd = true ∧ State.reset.fpx.owner = .k240
    ∧ selectionOf (.read 0x03 0 2) = some ⟨0x03, some 0, [], true, 2, []⟩
    ∧ State.reset.fpx.classTable.firstOf .program = some programEntry
    ∧ (let s := { State.reset with fpx := { State.reset.fpx with classTable := ⟨[], 0⟩ } }
       s.pins.vdd = true ∧ s.fpx.owner = .k240 ∧ s.fpx.classTable.firstOf .program = none) := by decide +kernel

theorem witness_OwnedPathCarriesNoSocInstruction :
    State.reset.fpx.owner = .k240 ∧ State.reset.pins.vdd = true
    ∧ exec (.writeEnable 0x06 true) State.reset = .next (after (.writeEnable 0x06 true) State.reset) :=
  ⟨rfl, rfl, rfl⟩

theorem witness_UndecodedSelectionsPassThrough :
    (let s := { heard with fpx := { heard.fpx with attached := false } }
     s.pins.vdd = true ∧ s.fpx.owner = .soc ∧ s.fpx.attached = false
     ∧ (selectionOf (.resetArm 0x66 false)).map Selection.counted = some false
     ∧ ¬ s.classIs 0x06 .resetArm ∧ ¬ s.classIs 0x06 .reset)
    ∧ heard.Listening ∧ selectionOf (.otherInstruction 0x55 [0x01] true) = some ⟨0x55, none, [0x01], true, 0, []⟩
    ∧ heard.fpx.classTable.classOf 0x55 = none := by
  simp only [State.Listening, State.classIs]; decide +kernel

theorem witness_CountedCodesActOnTheReplicas :
    heard.Listening ∧ heard.classIs 0x06 .writeEnable ∧ heard.classIs 0x04 .writeDisable ∧ heard.classIs 0x66 .resetArm
    ∧ heard.classIs 0xB9 .powerDown ∧ heard.classIs 0xAB .release ∧ heard.classIs 0xE9 .detaching
    ∧ heard.classIs 0x75 .suspend ∧ heard.classIs 0x7A .resume
    ∧ (let s := { heard with fpx := { heard.fpx with inFlight := some ⟨.eraseSector, ⟨0x013000, 4096⟩, 1000045875⟩ } }
       s.Listening ∧ s.fpx.inFlight = some ⟨.eraseSector, ⟨0x013000, 4096⟩, 1000045875⟩ ∧ s.fpx.suspended = none)
    ∧ (let s := { heard with fpx := { heard.fpx with suspended := some ⟨.eraseSector, ⟨0x013000, 4096⟩, 45875⟩ } }
       s.Listening ∧ s.fpx.inFlight = none ∧ s.fpx.suspended = some ⟨.eraseSector, ⟨0x013000, 4096⟩, 45875⟩)
    ∧ heard.fpx.inFlight = none ∧ heard.fpx.suspended = none
    ∧ (let s := { heard with fpx := { heard.fpx with attached := false } }
       s.pins.vdd = true ∧ s.fpx.owner = .soc ∧ s.fpx.attached = false ∧ s.classIs 0x66 .resetArm) := by
  simp only [State.Listening, State.classIs]; decide +kernel

theorem witness_FlashResetTakenWhenArmed :
    heard.pins.vdd = true ∧ heard.fpx.owner = .soc ∧ heard.classIs 0x99 .reset ∧ heard.fpx.resetArm = false
    ∧ (let s := { heard with fpx := { heard.fpx with
          attached := false, resetArm := true, inFlight := some ⟨.program, ⟨0x010000, 256⟩, 0⟩ } }
       s.fpx.owner = .soc ∧ s.classIs 0x99 .reset ∧ s.fpx.resetArm = true ∧ s.fpx.attached = false
       ∧ 0x010000 ∈ s.sectorsMeeting ⟨0x010000, 256⟩ ∧ 0x11F000 ∈ s.watchedSectors) := by
  simp only [State.classIs]; decide +kernel

/-- A write is permitted, and nothing is in flight. -/
def enabled : State := { heard with fpx := { heard.fpx with wel := true } }

theorem witness_AcceptedWriteEntersTheTracker :
    enabled.Listening ∧ enabled.classIs 0x02 .program ∧ enabled.inWindow 0x3000FF = false ∧ enabled.fpx.guard = false
    ∧ ([0x00] : List Byte) ≠ [] ∧ enabled.fpx.accepts .program ⟨pageOf 0x3000FF, 256⟩ true = true
    ∧ enabled.meetsMirror ⟨pageOf 0x3000FF, 256⟩ = false ∧ enabled.meetsGuide ⟨pageOf 0x3000FF, 256⟩ = false
    ∧ enabled.classIs 0x01 .writeStatus ∧ enabled.fpx.accepts .writeStatus ⟨0, 0⟩ true = true := by
  simp only [State.Listening, State.classIs]; decide +kernel

theorem witness_AcceptedProgramAndsIntoTheMirror :
    enabled.Listening ∧ enabled.MirrorsCanonical ∧ enabled.classIs 0x02 .program ∧ enabled.fpx.guard = false
    ∧ (enabled.inWindow 0xFFFFFF = false ∧ enabled.fpx.accepts .program ⟨pageOf 0xFFFFFF, 256⟩ true = true
        ∧ sectorOf (pageOf 0xFFFFFF) = enabled.anchorBase)
    ∧ (enabled.inWindow 0x01FFFF = false ∧ enabled.fpx.accepts .program ⟨pageOf 0x01FFFF, 256⟩ true = true
        ∧ enabled.scheduleBase = some 0x010000 ∧ 0x010000 ≤ pageOf 0x01FFFF ∧ pageOf 0x01FFFF < 0x010000 + 65536
        ∧ sectorOf (pageOf 0x01FFFF) ≠ enabled.anchorBase)
    ∧ enabled.meetsMirror ⟨pageOf 0x020000, 256⟩ = false := by
  refine ⟨⟨rfl, rfl, rfl⟩, ⟨rfl, rfl⟩, ?_⟩
  simp only [State.classIs]; decide +kernel

theorem witness_AcceptedEraseBlanksItsRange :
    enabled.Listening ∧ enabled.fpx.guard = false
    ∧ (enabled.classIs 0x20 .eraseSector ∧ enabled.inWindow 0xFFF000 = false
        ∧ enabled.fpx.accepts .eraseSector ⟨sectorOf 0xFFF000, 4096⟩ true = true)
    ∧ (enabled.classIs 0xD8 .eraseBlock ∧ enabled.inWindow 0x01FFFF = false
        ∧ enabled.fpx.accepts .eraseBlock ⟨blockOf 0x01FFFF, 65536⟩ true = true)
    ∧ (enabled.classIs 0x60 .eraseChip ∧ enabled.fpx.accepts .eraseChip ⟨0, enabled.pins.fsize.bytes⟩ true = true
        ∧ enabled.meetsGuide ⟨0, enabled.pins.fsize.bytes⟩ = true) := by
  simp only [State.Listening, State.classIs]; decide +kernel

theorem witness_UnacceptedWritesAndStatusReads :
    heard.Listening ∧ heard.fpx.guard = false
    ∧ (heard.classIs 0x02 .program ∧ heard.inWindow 0x013040 = false
        ∧ heard.fpx.accepts .program ⟨pageOf 0x013040, 256⟩ (true && !([0x00] : List Byte).isEmpty) = false)
    ∧ (heard.classIs 0x20 .eraseSector ∧ heard.fpx.accepts .eraseSector ⟨sectorOf 0x013040, 4096⟩ true = false)
    ∧ (heard.classIs 0xD8 .eraseBlock ∧ heard.fpx.accepts .eraseBlock ⟨blockOf 0x013040, 65536⟩ true = false)
    ∧ (heard.classIs 0xC7 .eraseChip ∧ heard.fpx.accepts .eraseChip ⟨0, heard.pins.fsize.bytes⟩ true = false)
    ∧ (enabled.Listening ∧ enabled.classIs 0x01 .writeStatus
        ∧ enabled.fpx.accepts .writeStatus ⟨0, 0⟩ (true && !([] : List Byte).isEmpty) = false)
    ∧ (0 < 1 ∧ enabled.inWindow 0x013040 = false ∧ enabled.classIs 0x20 .eraseSector ∧ enabled.classIs 0xD8 .eraseBlock
        ∧ enabled.fpx.guard = false) ∧ heard.classIs 0x05 .readStatus := by
  simp only [State.Listening, State.classIs]; decide +kernel

theorem witness_GuardCancelsAnchorWrites :
    let s := { enabled with fpx := { enabled.fpx with guard := true } }
    s.Listening ∧ s.fpx.guard = true
    ∧ (s.classIs 0x02 .program ∧ s.inWindow 0xFFFFFF = false ∧ sectorOf 0xFFFFFF = s.anchorBase)
    ∧ (s.classIs 0x20 .eraseSector ∧ s.inWindow 0xFFF000 = false ∧ sectorOf 0xFFF000 = s.anchorBase)
    ∧ (s.classIs 0xD8 .eraseBlock ∧ s.inWindow 0xFF0000 = false ∧ blockOf 0xFF0000 = s.pins.fsize.anchorBlock)
    ∧ s.classIs 0xC7 .eraseChip := by
  simp only [State.Listening, State.classIs]; decide +kernel

theorem witness_WindowReadServesLiveState :
    heard.Listening ∧ heard.classIs 0x03 .read ∧ heard.classIs 0x0B .fastRead
    ∧ heard.inWindow 0x7E0109 = true ∧ heard.inWindow 0x7EFFFF = true
    ∧ ((planning heard).passedOver 0x109 1).rep.latch = 0 ∧ ((planning heard).passedOver 0x109 2).rep.latch = 280
    ∧ ((planning heard).passedOver 0x10B 6).pln.toggle = false ∧ ((planning heard).passedOver 0x10B 7).pln.toggle = true
    ∧ (heard.passedOver 0x100 28).pln.toggle = false := by
  simp only [State.Listening, State.classIs]; decide +kernel

theorem witness_ClockLatchAndToggleReads :
    heard.Listening ∧ heard.classIs 0x03 .read ∧ heard.inWindow 0x7E010A = true ∧ 0x7E010A % 65536 = 0x10A := by
  simp only [State.Listening, State.classIs]; decide +kernel

theorem witness_OutsideReadPassesToTheFlash :
    heard.Listening ∧ heard.classIs 0x03 .read ∧ heard.inWindow 0x7DFFFE = false
    ∧ 2 ≤ heard.beforeWindow 0x7DFFFE ∧ 258 = heard.beforeWindow 0x7DFFFE + 0x100
    ∧ 276 = heard.beforeWindow 0x7DFFFE + 0x112 := by
  simp only [State.Listening, State.classIs]; decide +kernel

/-- A queue of `n` notices. -/
def withNotices (n : Nat) : State :=
  { heard with rep := { heard.rep with notices := List.replicate n ⟨.planPublished, none, 0, 0, 0xFFFFFFFF, 1⟩ } }

theorem witness_PostsAndAttentionFollowTheQueue :
    (withNotices 31).rep.notices.length < 32 ∧ 32 ≤ (withNotices 32).rep.notices.length
    ∧ (withNotices 32).rep.sticky &&& 0x0261 = 0 ∧ (withNotices 32).StickyLaw := by
  simp only [State.StickyLaw]; decide +kernel

theorem witness_WindowProgramsAreCommandsOrIgnored :
    heard.Listening ∧ heard.fpx.classTable.firstOf .program = some programEntry
    ∧ heard.fpx.classTable.entryOf programEntry.code = some programEntry
    ∧ heard.rst.inForce.layout.window % 65536 = 0 ∧ heard.rst.inForce.layout.window < 16777216
    ∧ (heard.inWindow 0x7E0100 = true ∧ heard.classIs 0x02 .program ∧ 256 ≤ 0x7E0100 % 65536)
    ∧ heard.classIs 0x20 .eraseSector ∧ heard.classIs 0xD8 .eraseBlock
    ∧ heard.classIs 0x03 .read ∧ (0x7E : Byte).toNat = heard.rst.inForce.layout.window / 65536
    ∧ (0x7D : Byte).toNat ≠ heard.rst.inForce.layout.window / 65536 ∧ ([0x7E] : List Byte).length < 2 := by
  simp only [State.Listening, State.classIs]; decide +kernel

/-- R151, R152: a PROGRAM that ends after two address bytes in the window is withdrawn from the flash. -/
theorem test_short_window_address :
    (after (.otherInstruction 0x02 [0x7E, 0x00] true) heard).ports.flash = [.cut 0x02]
      ∧ (after (.otherInstruction 0x02 [0x7E] true) heard).ports.flash = [.forward 0x02] := by decide +kernel

theorem witness_FailedChecksAreAnswered :
    heard.Listening ∧ heard.fpx.classTable.firstOf .program = some programEntry
    ∧ (1 : Byte) ≠ 0 ∧ 256 < (List.replicate 257 (0x0E : Byte)).length
    ∧ (0x0E < (0x0F : Byte).toNat)
    ∧ (commandLength 0x05 = some 5 ∧ ([0x05, 0x7E, 0x17, 0x00] : List Byte).length ≠ 5)
    ∧ 32 < (33 : Byte).toNat ∧ 60000 < (60001 : BitVec 16).toNat :=
  ⟨heard_listening, heard_program, by decide +kernel⟩

theorem witness_AckNoticesRemovesTheOldest :
    heard.Listening ∧ heard.fpx.classTable.firstOf .program = some programEntry
    ∧ (1 ≤ (1 : Byte).toNat ∧ (32 : Byte).toNat ≤ 32) ∧ 32 < (33 : Byte).toNat :=
  ⟨heard_listening, heard_program, by decide +kernel⟩

theorem witness_ClearFlagsFollowsItsCompletion :
    heard.Listening ∧ heard.fpx.classTable.firstOf .program = some programEntry := ⟨heard_listening, heard_program⟩

theorem witness_MaskGuardAndRescan :
    heard.Listening ∧ heard.fpx.classTable.firstOf .program = some programEntry := ⟨heard_listening, heard_program⟩

theorem witness_ReplanCommandTriggers :
    heard.Listening ∧ heard.fpx.classTable.firstOf .program = some programEntry
    ∧ (heard.clk.valid = true ∧ heard.pln.snapshot = none) ∧ (planning heard).pln.snapshot.isSome = true
    ∧ (let s := { heard with clk := { heard.clk with valid := false } }
       s.Listening ∧ s.clk.valid = false) :=
  ⟨heard_listening, heard_program, by decide, by decide, heard_listening, rfl⟩

theorem witness_ConfirmStartAnswersByRef :
    (withRun run21 heard).Listening ∧ (withRun run21 heard).fpx.classTable.firstOf .program = some programEntry
    ∧ (withRun run21 heard).runOf (21 : BitVec 32).toNat = some run21 ∧ heard.runOf (21 : BitVec 32).toNat = none :=
  ⟨heard_listening, heard_program, by decide +kernel⟩

theorem witness_ReportFailureEndsTheRun :
    (let s := withRun run21 heard
     s.Listening ∧ s.fpx.classTable.firstOf .program = some programEntry ∧ s.runOf (21 : BitVec 32).toNat = some run21
     ∧ s.rst.deferred = none ∧ run21.kind = .manual 0)
    ∧ (withRun seriesRun heard).runOf (0x80001131 : BitVec 32).toNat = some seriesRun
    ∧ (let s := deferring (withRun run21 heard)
       s.Listening ∧ s.runOf (21 : BitVec 32).toNat = some run21 ∧ s.rst.deferred = some ⟨.single, 2, 3⟩
       ∧ ∀ x ∈ s.run.runs, x.ref = run21.ref)
    ∧ heard.runOf (21 : BitVec 32).toNat = none :=
  ⟨⟨heard_listening, heard_program, by decide +kernel⟩, by decide +kernel, ⟨heard_listening, by decide +kernel⟩,
    by decide +kernel⟩

theorem witness_KeepViewingDeclinesTheEntry :
    (let s := withWaiting entry21 heard
     s.Listening ∧ s.fpx.classTable.firstOf .program = some programEntry ∧ s.waitingOf (21 : BitVec 32).toNat = some entry21
     ∧ entry21.origin = none ∧ s.booking entry21.ref = some ⟨21, 0, 0x0100C0, 1, 72000, 3600, none, none, none, false⟩)
    ∧ ((withWaiting seriesEntry heard).waitingOf (0x80001131 : BitVec 32).toNat = some seriesEntry ∧ seriesEntry.origin ≠ none)
    ∧ ((withRun run21 heard).waitingOf 21 = none ∧ ((withRun run21 heard).runOf 21).isSome = true)
    ∧ (∀ h ∈ [(⟨21, .failed, some 75300, 75900⟩ : HistoryEntry), ⟨21, .declined, none, 75900⟩],
       let s := { heard with run := { heard.run with history := [h] } }
       s.waitingOf 21 = none ∧ s.runOf 21 = none ∧ s.historyOf 21 = some h)
    ∧ (heard.waitingOf 21 = none ∧ heard.runOf 21 = none ∧ heard.historyOf 21 = none) :=
  ⟨⟨heard_listening, heard_program, by decide +kernel⟩, by decide +kernel⟩

/-- Tuner A records service 1 and tuner B service 5. -/
def bothBusy : State := { heard with tun := ⟨⟨some 10, some 0, 1, none⟩, ⟨some 40, some 0, 1, none⟩, []⟩ }

theorem witness_ViewerHoldIsGrantedAndReleased :
    heard.Listening ∧ heard.fpx.classTable.firstOf .program = some programEntry
    ∧ ((1 : BitVec 16) ≠ 0 ∧ (0xFFFE : BitVec 16) ≠ 0xFFFF) ∧ heard.service (0xFFFE : BitVec 16).toNat = none
    ∧ (heard.service (1 : BitVec 16).toNat = some ⟨1, 0, 0x010000, 10, 0⟩ ∧ heard.chooseView 10 0 = some (.A, false)
        ∧ heard.tun.viewerTuner ≠ some .A)
    ∧ (bothBusy.service (4 : BitVec 16).toNat = some ⟨4, 0, 0x010040, 30, 2⟩ ∧ bothBusy.chooseView 30 2 = none)
    ∧ ((withViewer heard).service (4 : BitVec 16).toNat = some ⟨4, 0, 0x010040, 30, 2⟩
        ∧ (withViewer heard).chooseView 30 2 = some (.A, false) ∧ (withViewer heard).tun.viewerTuner = some .A
        ∧ ((withViewer heard).tun.get .A).multiplex = some 30)
    ∧ (heard.tun.viewerTuner = none ∧ (withViewer heard).Listening) :=
  ⟨heard_listening, heard_program, by decide, by decide +kernel, by decide +kernel, by decide +kernel, by decide +kernel,
    by decide +kernel, heard_listening⟩

/-- The tuners' conditions of R131 on three states: A can be joined, only B can be joined, and only B can be taken. -/
theorem witness_ViewerHoldIsGrantedAndReleased_choice :
    (let judged := fun T => (bothBusy.tun.get T).releaseViewer
     bothBusy.rst.inForce.tuner.mode = .twin ∧ bothBusy.tun.viewerTuner = none
     ∧ ((judged .A).state ≠ .idle ∧ (judged .A).multiplex = some 10)
     ∧ ((judged .A).multiplex ≠ some 40 ∧ (judged .B).state ≠ .idle ∧ (judged .B).multiplex = some 40)
     ∧ ((judged .A).multiplex ≠ some 30 ∧ (judged .B).multiplex ≠ some 30))
    ∧ (let s := withRun run21 heard
       ((s.tun.get .A).releaseViewer.state ≠ .idle ∧ (s.tun.get .A).releaseViewer.multiplex ≠ some 30)
       ∧ ((s.tun.get .B).releaseViewer.state = .idle ∧ s.run.waiting = []))
    ∧ ((heard.tun.get .A).releaseViewer.state = .idle ∧ heard.run.waiting = [])
    ∧ ({ heard with tun := ⟨TunerRec.idle, ⟨some 30, some 2, 0, some 4⟩, []⟩ } : State).tun.viewerTuner = some .B := by
  decide +kernel

/-- One sector of the guide is doubtful. -/
def doubting : State := { heard with rst := { heard.rst with verify := [0x100000] } }

theorem witness_LendAndStandbyGiveThePath :
    (doubting.Listening ∧ doubting.fpx.classTable.firstOf .program = some programEntry ∧ 1 ≤ (1 : BitVec 16).toNat
      ∧ (60000 : BitVec 16).toNat ≤ 60000 ∧ doubting.pwc.power = .run ∧ doubting.nextWork ≠ none)
    ∧ (heard.Listening ∧ heard.nextWork = none ∧ heard.fpx.lend = none) :=
  ⟨⟨heard_listening, heard_program, by decide, by decide, by decide, by decide +kernel⟩, heard_listening, by decide +kernel⟩

/-- START_A's event for entry 21. -/
def starting (s : State) : State := withEvent (.start .A) (withWaiting entry21 s)

theorem witness_StartEventTakesTheDueEntry :
    (let s := starting heard
     s.pins.vdd = true ∧ takeFirst (.start .A) s.clk.events = some (⟨.start .A, 71880, 1000000000, none⟩, [])
     ∧ s.run.dueStarts .A 71880 = [entry21] ∧ s.waitingOf entry21.ref = some entry21 ∧ entry21.origin = none
     ∧ (s.booking entry21.ref).isSome = true ∧ 71880 < entry21.wend
     ∧ s.service entry21.service = some ⟨1, 0, 0x010000, 10, 0⟩
     ∧ judgeRequest s.rst.inForce.tuner s.tun .A 10 0 = .granted)
    ∧ (let s := withEvent (.start .A) (withWaiting seriesEntry offering)
       s.run.dueStarts .A 71880 = [seriesEntry] ∧ s.waitingOf seriesEntry.ref = some seriesEntry
       ∧ (s.effectiveEvent (seriesEntry.ref - 0x80000000)).isSome = true
       ∧ judgeRequest s.rst.inForce.tuner s.tun .A 10 0 = .granted)
    ∧ (let s := starting (withViewer heard)
       s.run.dueStarts .A 71880 = [entry21] ∧ (s.tun.get .A).viewer = some 4
       ∧ judgeRequest s.rst.inForce.tuner s.tun .A 10 0 = .evicts)
    ∧ (let s := starting { heard with tun := ⟨⟨some 30, some 2, 1, none⟩, TunerRec.idle, []⟩ }
       s.run.dueStarts .A 71880 = [entry21] ∧ s.waitingOf entry21.ref = some entry21
       ∧ judgeRequest s.rst.inForce.tuner s.tun .A 10 0 = .refused .tuner)
    ∧ (let s := starting { heard with rst := { heard.rst with tables := ⟨[], [], [], []⟩ } }
       s.run.dueStarts .A 71880 = [entry21] ∧ s.service entry21.service = none)
    ∧ (let s := starting (withCounter 75900 heard)
       takeFirst (.start .A) s.clk.events = some (⟨.start .A, 75900, 1000000000, none⟩, [])
       ∧ s.run.dueStarts .A 75900 = [entry21] ∧ s.waitingOf entry21.ref = some entry21 ∧ entry21.wend ≤ 75900)
    ∧ (let w := { entry21 with tuner := .B }
       let s := inSingle (withEvent (.start .B) (withWaiting w (withCounter 75900 heard)))
       takeFirst (.start .B) s.clk.events = some (⟨.start .B, 75900, 1000000000, none⟩, [])
       ∧ s.run.dueStarts .B 75900 = [w] ∧ s.waitingOf w.ref = some w ∧ s.rst.inForce.tuner.mode = .single) := by
  decide +kernel

/-- Run 21 on tuner A meets the law of runs. -/
theorem run21_law : (withRun run21 heard).RunLaw where
  refs := by decide +kernel
  apart := by decide +kernel
  streams := by intro T; cases T <;> decide +kernel
  multiplex := by decide +kernel

/-- STOP_A's event at a run's window end. -/
def stopping (r : ActiveRun) : State := withEvent (.stop .A) (withCounter 75900 (withRun r heard))

/-- STOP_A's event at entry 21's window end, the entry blocked for the viewer. -/
def stoppingBlocked (T : Tuner) : State :=
  withEvent (.stop T) (withCounter 75900 (withWaiting { entry21 with tuner := T, blocked := some .viewer } heard))

theorem witness_StopEventEndsRunsAndBlockedEntries :
    ((stopping run21).pins.vdd = true
      ∧ takeFirst (.stop .A) (stopping run21).clk.events = some (⟨.stop .A, 75900, 1000000000, none⟩, [])
      ∧ (stopping run21).RunLaw ∧ (stopping run21).run.dueBlocked .A 75900 = []
      ∧ (planning (stopping run21)).pln.snapshot.isSome = true
      ∧ (stopping run21).run.dueStops .A 75900 = [run21] ∧ (stopping run21).rst.deferred = none ∧ run21.kind = .manual 0)
    ∧ ((stopping seriesRun).run.dueStops .A 75900 = [seriesRun] ∧ seriesRun.state = .recording)
    ∧ (let s := deferring { planning (stopping run21) with
         tun := ⟨⟨some 10, some 0, 1, none⟩, ⟨some 30, some 2, 0, some 4⟩, []⟩ }
       s.rst.deferred = some ⟨.single, 2, 3⟩ ∧ s.run.runs = [run21] ∧ s.pln.snapshot.isSome = true
       ∧ s.tun.b.viewer = some 4)
    ∧ (∀ T, let s := stoppingBlocked T
       s.pins.vdd = true ∧ takeFirst (.stop T) s.clk.events = some (⟨.stop T, 75900, 1000000000, none⟩, [])
       ∧ s.run.dueStops T 75900 = []
       ∧ (s.run.waiting.filter fun x => x.tuner = T && x.wend ≤ 75900) = [{ entry21 with tuner := T, blocked := some .viewer }]
       ∧ s.waitingOf 21 = some { entry21 with tuner := T, blocked := some .viewer })
    ∧ (inSingle (stoppingBlocked .B)).rst.inForce.tuner.mode = .single :=
  ⟨⟨rfl, by decide +kernel, ⟨run21_law.refs, run21_law.apart, run21_law.streams, run21_law.multiplex⟩, by decide +kernel⟩,
    by decide +kernel, by decide +kernel, fun T => by cases T <;> decide +kernel, rfl⟩

theorem witness_ConfirmEventMissesUnconfirmedRuns :
    let s := withEvent .confirm (withCounter 71910 (withRun run21 heard))
    s.pins.vdd = true ∧ takeFirst .confirm s.clk.events = some (⟨.confirm, 71910, 1000000000, none⟩, [])
    ∧ s.RunLaw ∧ (planning s).pln.snapshot.isSome = true ∧ s.run.dueConfirms 71910 = [run21] ∧ s.rst.deferred = none :=
  ⟨rfl, by decide +kernel, ⟨run21_law.refs, run21_law.apart, run21_law.streams, run21_law.multiplex⟩, by decide +kernel⟩

/-- WARN's event at entry 21's warning time, the viewer on its tuner. -/
def warning : State := withEvent .warn (withCounter 71820 (withViewer (withWaiting entry21 heard)))

theorem witness_WarnAndWakeEventsAreTaken :
    (warning.pins.vdd = true ∧ takeFirst .warn warning.clk.events = some (⟨.warn, 71820, 1000000000, none⟩, [])
      ∧ (warning.threatened.filter fun w => warning.warningTime w ≤ 71820) = [entry21] ∧ warning.threat entry21 = some .evict)
    ∧ (let s := { standing with clk := { standing.clk with events := [⟨.wake, 71880, 1000000000, some ⟨72060, 31, .A⟩⟩] } }
       s.pins.vdd = true
       ∧ takeFirst .wake s.clk.events = some (⟨.wake, 71880, 1000000000, some ⟨72060, 31, .A⟩⟩, [])
       ∧ s.pwc.power = .standby ∧ s.pwc.waking = none)
    ∧ heard.pwc.power ≠ .standby := by decide +kernel

theorem witness_PublishReplacesThePlan :
    heard.pins.vdd = true ∧ (planning heard).pln.snapshot = some heard.takeSnapshot
    ∧ ({ planning heard with pln := { (planning heard).pln with stale := true } } : State).pln.stale = true
    ∧ heard.clk.valid = true
    ∧ ({ planning heard with clk := { heard.clk with valid := false } } : State).clk.valid = false
    ∧ (let s := planning (withRun run21 heard)
       s.pln.stale = false ∧ s.run.runs = [run21] ∧ s.windowEndOf run21 = some 75900 ∧ s.clk.counter < 75900
       ∧ s.pln.published = false)
    ∧ (let q := { heard with rst := { heard.rst with tables := ⟨[], [], [], []⟩ }, pln := { heard.pln with published := true } }
       q.run.runs = [] ∧ q.pln.published = true ∧ q.takeSnapshot.plan = q.pln.plan) := by decide +kernel

/-- A snapshot whose plan holds an entry of each status. -/
def fullSnapshot : Snapshot :=
  { now := 70000, tuner := ⟨.twin, 1, 2⟩, prePad := 0, postPad := 0, horizon := 14
    services := [⟨1, 0, 0, 10, 0⟩, ⟨2, 0, 64, 20, 0⟩, ⟨3, 0, 128, 30, 0⟩]
    candidates :=
      [⟨1, 0, none, none, ⟨none, 2, 72000, 1000, 0, 0⟩, [], none⟩, ⟨2, 0, some 2, none, ⟨none, 3, 73000, 1000, 0, 0⟩, [], none⟩,
       ⟨0x80000003, 2, none, none, ⟨some 3, 3, 72100, 800, 0, 0⟩, [⟨some 4, 3, 80000, 800, 0, 0⟩],
         some ⟨5, .tagged 5 [0x45] 0⟩⟩,
       ⟨7, 3, none, none, ⟨none, 3, 72100, 800, 0, 0⟩, [], none⟩]
    pinned := [⟨{ run21 with actualStart := 71000, windowEnd := 74500 }, none⟩]
    viewer := none }

theorem witness_PlanWindowsFollowTheShowings :
    ∀ st ∈ [PlanStatus.placed, .moved, .trimmed, .pinned, .clash], ∃ e ∈ fullSnapshot.plan.entries, e.status = st := by
  decide +kernel

/-- The entry of the run that is pinned in it. -/
def pinnedEntry : Placed :=
  ⟨⟨21, .pinned, some .A, 71000, 74500, 71000, 74500, 1, none, 0, 0, none, 0⟩, 10, 0⟩

theorem fullSnapshot_pins : fullSnapshot.pins = [pinnedEntry] := by decide +kernel

theorem witness_PlanNeverExceedsTheTuners : ∀ t, withinTuners fullSnapshot.tuner fullSnapshot.pins t := by
  intro t
  rw [fullSnapshot_pins]
  have hb : pinnedEntry.presentOn .B t = false := rfl
  have hB : profile [pinnedEntry] .B t = [] := by simp [profile, hb]
  have hA : profile [pinnedEntry] .A t = [] ∨ profile [pinnedEntry] .A t = [pinnedEntry] := by
    cases h : pinnedEntry.presentOn .A t <;> simp [profile, h]
  refine ⟨fun T => ?_, fun T p hp q hq => ?_, ?_, fun h => absurd h (by decide)⟩
  · cases T with
    | A => obtain h | h := hA <;> rw [h] <;> decide
    | B => rw [hB]; decide
  · cases T with
    | A => obtain h | h := hA <;> rw [h] at hp hq <;> simp_all
    | B => rw [hB] at hp; simp at hp
  · obtain h | h := hA <;> rw [h, hB] <;> decide

theorem witness_RecordedEpisodesAreNotOffered :
    (⟨0x80001131, 4, none, none, ⟨some 4401, 1, 75600, 1800, 0, 0⟩, [], some ⟨5, .tagged 5 [0x45] 0⟩⟩ : Candidate)
      ∈ offering.seriesCandidates := by decide +kernel

theorem witness_EffectiveRecordsAreUnique :
    kept.rst.schedule.wf = true
    ∧ kept.schedRecords.map (fun p => p.2.2) = [.service ⟨1, 0, 0x010000, 10, 0⟩, .service ⟨3, 1, 0x010040, 20, 1⟩,
        .service ⟨3, 2, 0x010080, 30, 2⟩, .mark ⟨3, [0x45], 1, 0x0100C0⟩, .mark ⟨3, [0x45], 1, 0x010100⟩]
    ∧ ∃ x ∈ recomputeEffective offering.gmx.entries, ∃ y ∈ recomputeEffective offering.gmx.entries,
        x.effective = true ∧ y.effective = true ∧ x.event.id = y.event.id := by decide +kernel

/-- Of three slots of one event the doubtful one of highest version is passed over, and the higher address of the others wins. -/
theorem test_effective_of_an_event :
    let entry := fun (slot version : Nat) (doubtful : Bool) =>
      (⟨slot, ⟨4401, version, 1, 75600, 1800, true, 0, 0, [], []⟩, true, false, false, doubtful, false⟩ : MatchedEntry)
    (recomputeEffective [entry 0x100000 2 false, entry 0x100040 2 false, entry 0x101000 3 true]).map MatchedEntry.effective
      = [false, true, false] := by decide

/-! The record store and the guide matcher -/

/-- The K240 reads the anchor for a verification. -/
def readingAnchor (s : State) : State := { s with fpx := { s.fpx with owner := .k240, scan := .reading 0xFFF000 .mirror } }

/-- START-UP's last read, of a guide sector, and a read with another member left. -/
def lastRead (verify : List Nat) : State :=
  { readingAnchor kept with
    fpx := { (readingAnchor kept).fpx with scan := .reading 0x100000 .guideVerify }
    rst := { kept.rst with verify := verify }
    pwc := { kept.pwc with power := .startUp, socrst := true } }

/-- Before the anchor is first verified the part is as a reset leaves it. -/
theorem reset_startUp : (readingAnchor State.reset).StartUpLaw := fun _ =>
  ⟨rfl, rfl, rfl, rfl, rfl, rfl, rfl, by decide, fun x p h => by
    rcases h with h | h <;> simp [readingAnchor] at h
    exact ⟨h.1.symm, h.2.symm⟩, rfl, rfl, rfl, rfl, rfl, rfl⟩

theorem witness_AdoptionAndTheEndOfStartUp :
    ((readingAnchor State.reset).pins.vdd = true
      ∧ (readingAnchor State.reset).fpx.scan = .reading (readingAnchor State.reset).anchorBase .mirror
      ∧ (List.replicate 4096 (0xFF : Byte)).length = 4096 ∧ (readingAnchor State.reset).rst.adopted = false
      ∧ (readingAnchor State.reset).StartUpLaw ∧ (readingAnchor State.reset).ClassTableLaw)
    ∧ (let s := lastRead [0x100000]
       s.pins.vdd = true ∧ s.pwc.power = .startUp ∧ s.rst.adopted = true ∧ s.fpx.scan = .reading 0x100000 .guideVerify
       ∧ ∀ y ∈ s.rst.verify, y = 0x100000)
    ∧ (let s := lastRead [0x100000, 0x101000]
       0x101000 ∈ s.rst.verify ∧ 0x101000 ∈ s.watchedSectors ∧ s.fpx.attached = true ∧ s.fpx.asleep = false
       ∧ s.fpx.suspended = none) :=
  ⟨⟨rfl, rfl, List.length_replicate, rfl, reset_startUp, rfl⟩, by decide +kernel, by decide +kernel⟩

/-- A CONFIG record of revision 5 with the worked sequences' layout: its mode, warning lead and guide blocks. -/
def configBytes (mode lead blocks : Byte) : List Byte :=
  let record : List Byte := [0x3F, 0x10, 0x05, 0x00, mode, 0x02, 0x03, 0x02, 0x05, 0xB4, 0x00, 0x1E, 0x00, lead, 0x00,
    0x0E, 0x02, 0x00, 0x00, 0x01, 0x00, 0x00, 0x10, blocks, 0x00, 0x00, 0x7E]
  record ++ List.replicate (4096 - record.length) 0xFF

/-- The configuration that the anchor's bytes give. -/
def recordIn (data : List Byte) : Option ConfigRec :=
  State.resolveConfig { kept with rst := { kept.rst with anchor := kept.rst.anchor.replace 0 data } }

/-- The anchor holds the CONFIG of revision 5, in force, and a write is permitted. -/
def writable (verify : List Nat) : State :=
  planning { kept with
    fpx := { kept.fpx with wel := true }
    rst := { kept.rst with
      anchor := Memory.ofBytes 0 ((configBytes 0x01 0x3C 0x02).take 64), effConfig := some ⟨0xFFF000, 5, cfg⟩, verify := verify } }

theorem witness_ConfigurationChangesByWrites :
    (let s := writable []
     s.pins.vdd = true ∧ s.rst.adopted = true ∧ s.LayoutLaw ∧ s.TablesLaw ∧ s.ClassTableLaw ∧ s.pln.snapshot.isSome = true
     ∧ s.Listening)
    ∧ (let s := writable []
       s.fpx.guard = false ∧ s.inWindow 0xFFF000 = false ∧ s.doubtfulAt s.anchorBase = false ∧ s.run.runs = []
       ∧ s.fpx.classTable.classOf 0x02 = some .program ∧ s.inAnchor 0xFFF000 = true
       ∧ s.fpx.accepts .program ⟨pageOf 0xFFF000, 256⟩ true = true
       ∧ s.fpx.classTable.classOf 0x20 = some .eraseSector ∧ s.fpx.accepts .eraseSector ⟨s.anchorBase, 4096⟩ true = true
       ∧ (s.mirrorErase s.anchorBase 4096).rst.schedule = s.rst.schedule
       ∧ s.fpx.classTable.classOf 0xD8 = some .eraseBlock ∧ blockOf 0xFF0000 = s.pins.fsize.anchorBlock
       ∧ s.fpx.accepts .eraseBlock ⟨s.pins.fsize.anchorBlock, 65536⟩ true = true
       ∧ (s.mirrorErase s.pins.fsize.anchorBlock 65536).rst.schedule = s.rst.schedule
       ∧ s.fpx.classTable.classOf 0xC7 = some .eraseChip ∧ s.fpx.accepts .eraseChip s.wholeFlash true = true
       ∧ State.resolveConfig { s with rst := { s.rst with
           anchor := s.rst.anchor.program (pageOf 0xFFF000 - s.anchorBase) (appliedBytes 0xFFF000 [0x1F]) } } = none
       ∧ (s.mirrorErase s.anchorBase 4096).resolveConfig = none ∧ s.resolveConfig = s.rst.effConfig)
    ∧ (writable [0xFFF000]).doubtfulAt (writable [0xFFF000]).anchorBase = true :=
  ⟨⟨rfl, rfl, ⟨kept_layout.layout, fun _ h => by simp [writable, planning, kept, heard, Fpx.afterReset] at h⟩,
      ⟨by decide +kernel, by decide +kernel, by decide +kernel, by decide +kernel, by decide +kernel⟩, rfl, rfl, rfl, rfl, rfl⟩,
    by decide +kernel, by decide +kernel⟩

theorem witness_ConfigurationChangesGroupByGroup :
    (let s := planning (readingAnchor kept)
     s.pins.vdd = true ∧ s.fpx.scan = .reading s.anchorBase .mirror ∧ s.rst.adopted = true ∧ s.pln.snapshot.isSome = true
     ∧ s.run.runs = [] ∧ s.rst.deferred = none ∧ s.LayoutLaw ∧ s.TablesLaw ∧ s.ClassTableLaw)
    ∧ (planning (withRun run21 (readingAnchor kept))).run.runs ≠ []
    ∧ recordIn (List.replicate 4096 0xFF) = kept.rst.effConfig
    ∧ recordIn (configBytes 0x01 0x3C 0x02) = some ⟨0xFFF000, 5, cfg⟩
    ∧ recordIn (configBytes 0x01 0x78 0x02) = some ⟨0xFFF000, 5, { cfg with schedule := { cfg.schedule with warningLead := 120 } }⟩
    ∧ recordIn (configBytes 0x02 0x3C 0x02) = some ⟨0xFFF000, 5, { cfg with tuner := ⟨.twinLooped, 2, 3⟩ }⟩
    ∧ recordIn (configBytes 0x02 0x78 0x01) = some ⟨0xFFF000, 5, ⟨{ cfg.layout with guideBlocks := 1 }, ⟨.twinLooped, 2, 3⟩,
        { cfg.schedule with warningLead := 120 }⟩⟩ :=
  ⟨⟨rfl, rfl, rfl, rfl, rfl, rfl, ⟨kept_layout.layout, fun _ h => by simp [planning, readingAnchor] at h⟩,
      ⟨kept_tables.services, kept_tables.bookings, kept_tables.links, kept_tables.marks, kept_tables.leftOut⟩, rfl⟩,
    by decide, by decide +kernel, by decide +kernel, by decide +kernel, by decide +kernel, by decide +kernel⟩

theorem seriesRun_law : (withRun seriesRun offering).RunLaw where
  refs := by decide +kernel
  apart := by decide +kernel
  streams := by intro T; cases T <;> decide +kernel
  multiplex := by decide +kernel

theorem witness_RecordChangesReachTheRuns :
    (let s := planning (withRun run21 heard)
     s.pln.snapshot.isSome = true ∧ s.rst.deferred = none ∧ s.RunLaw ∧ s.runOf run21.ref = some run21 ∧ run21.kind = .manual 0
     ∧ s.windowEndOf run21 = some 75900 ∧ s.clk.counter < 75900 ∧ ¬ (withCounter 75900 s).clk.counter < 75900)
    ∧ (withRun run21 kept).windowEndOf run21 = none
    ∧ (let s := planning (withRun seriesRun offering)
       s.RunLaw ∧ s.runOf seriesRun.ref = some seriesRun ∧ seriesRun.kind = .series 4401 ⟨5, .tagged 5 [0x45] 0⟩
       ∧ seriesRun.ref = seriesRef 4401)
    ∧ ((withWaiting seriesEntry heard).waitingOf seriesEntry.ref = some seriesEntry
       ∧ (withWaiting seriesEntry heard).runOf seriesEntry.ref = none ∧ seriesEntry.ref = seriesRef 4401)
    ∧ (let s := planning { heard with run := { heard.run with changed := [21] } }
       21 ∈ s.run.changed ∧ (∀ w ∈ s.run.waiting, w.ref ≠ 21) ∧ exec .replanPublish s = .next (after .replanPublish s)) :=
  ⟨⟨rfl, rfl, ⟨run21_law.refs, run21_law.apart, run21_law.streams, run21_law.multiplex⟩, by decide +kernel⟩, by decide +kernel,
    ⟨⟨seriesRun_law.refs, seriesRun_law.apart, seriesRun_law.streams, seriesRun_law.multiplex⟩, by decide +kernel⟩,
    by decide +kernel, by decide, by decide, rfl⟩

/-- The slot of guide event 4401, version 2, series "H". -/
def eventSlot (state kind : Byte) : List Byte :=
  [state, kind, 0x31, 0x11, 0x00, 0x02, 0x01, 0x00, 0x50, 0x27, 0x01, 0x00, 0x08, 0x07, 0x00, 0x00, 0x01, 0x00, 0x00, 0x01, 0x48]
    ++ List.replicate 15 0xFF ++ [0x01, 0x45] ++ List.replicate 26 0xFF

def event4401 : Event := ⟨4401, 2, 1, 75600, 1800, true, 0, 0, [0x48], [0x45]⟩

/-- All 64 bytes of a slot at page offset 64, as applied. -/
def appliedSlot (bytes : List Byte) : List (Nat × Byte) := (bytes.zipIdx 64).map fun p => (p.2, p.1)

/-- No link reaches the event; an older version of it is held by name. -/
def named : State :=
  { heard with gmx := ⟨[⟨0x100000, { event4401 with version := 1 }, false, true, false, false, true⟩]⟩ }

/-- The table is full. -/
def crowded (s : State) : State :=
  { s with gmx := ⟨s.gmx.entries ++ List.replicate 384 ⟨0x110000, ⟨9, 0, 1, 75600, 1800, true, 0, 0, [], []⟩, false, true, false,
      false, true⟩⟩ }

theorem witness_GuideProgramsActOnTheirSlots :
    (let s := planning { offering with fpx := { heard.fpx with wel := true } }
     let page := pageOf 0x100040
     s.Listening ∧ s.classIs 0x02 .program ∧ s.inWindow 0x100040 = false ∧ s.fpx.guard = false
     ∧ s.fpx.accepts .program ⟨page, 256⟩ true = true ∧ s.meetsMirror ⟨page, 256⟩ = false
     ∧ s.rst.inForce.layout.inGuide page = true ∧ s.doubtfulAt page = false ∧ s.pln.snapshot.isSome = true
     ∧ ({ s with rst := { s.rst with verify := [0x100000] } } : State).doubtfulAt page = true)
    ∧ (let written := slotBytes (appliedSlot (eventSlot 0x3F 0x20)) 64
       written.length = 64 ∧ guideSlot (contentOf written) = .event event4401
       ∧ offering.held (0x100000 + 64) = false ∧ offering.isMatched event4401 = true ∧ offering.gmx.entries.length < 384
       ∧ (crowded offering).held (0x100000 + 64) = false ∧ ¬ (crowded offering).gmx.entries.length < 384
       ∧ named.held (0x100000 + 64) = false ∧ named.isMatched event4401 = false
       ∧ (∃ x ∈ named.gmx.entries, x.event.id = 4401 ∧ x.matched = true ∧ x.event.version < event4401.version)
       ∧ (∀ x ∈ heard.gmx.entries, ¬ (x.event.id = 4401 ∧ x.matched = true)))
    ∧ guideSlot (contentOf (slotBytes (appliedSlot (eventSlot 0x2F 0x20)) 64)) = .damaged
    ∧ guideSlot (contentOf (slotBytes (appliedSlot (eventSlot 0x1F 0x20)) 64)) = .nothing
    ∧ (offering.held (0x100000 + 0) = true
       ∧ (slotBytes [(0, 0x1F)] 0).filter (fun p => p.2 ≠ 0xFF) = [(0, 0x1F)] ∧ (0x3F : Byte) &&& 0x1F = 0x1F
       ∧ (0x3F : Byte) &&& 0x7F = 0x3F ∧ (0x3F : Byte) &&& 0x00 ≠ 0x3F ∧ (0x3F : Byte) &&& 0x00 ≠ 0x1F
       ∧ (slotBytes [(0, 0xFF)] 0).filter (fun p => p.2 ≠ 0xFF) = []) := by
  simp only [State.Listening, State.classIs]; decide +kernel

theorem witness_GuideSectorsAreTakenIn :
    let s := planning { offering with fpx := { heard.fpx with owner := .k240, scan := .reading 0x101000 .guideVerify } }
    let data := eventSlot 0x3F 0x20 ++ List.replicate 4032 0xFF
    s.pins.vdd = true ∧ data.length = 4096 ∧ 0x101000 % 4096 = 0 ∧ s.pln.snapshot.isSome = true
    ∧ s.gmx.entries.length + 64 ≤ 384 ∧ guideSlot (dataSlot data 0) = .event event4401 ∧ s.isMatched event4401 = true
    ∧ s.held 0x101000 = false ∧ (∃ m ∈ s.gmx.entries, sectorOf m.slot ≠ 0x101000 ∧ m.matched = true)
    ∧ s.run.runs = [] ∧ s.pwc.power ≠ .startUp ∧ s.fpx.lend = none := by decide +kernel

theorem witness_ScanEngineReadsTheNextSector :
    (State.reset.pins.vdd = true
      ∧ State.reset.fpx.classTable.ownOf .readStatus = some ⟨0x05, .readStatus, 0, 1⟩
      ∧ State.reset.fpx.classTable.ownOf .read = some ⟨0x03, .read, 0, 1⟩
      ∧ State.reset.scanOpen = true ∧ State.reset.fpx.scan = .idle ∧ State.reset.nextWork = some (0xFFF000, .mirror)
      ∧ State.reset.fpx.asleep = false ∧ (0x00 : Byte).getLsbD State.reset.fpx.classTable.busyBit = false
      ∧ (0x01 : Byte).getLsbD State.reset.fpx.classTable.busyBit = true ∧ State.reset.fpx.gaveUp = false)
    ∧ heard.scanOpen = false
    ∧ (let s := { doubting with fpx := { doubting.fpx with owner := .k240, asleep := true } }
       s.scanOpen = true ∧ s.fpx.scan = .idle ∧ s.nextWork = some (0x100000, .guideVerify) ∧ s.fpx.asleep = true
       ∧ s.releaseCode = some 0xAB)
    ∧ (standing.scanOpen = true ∧ standing.fpx.scan = .idle ∧ standing.nextWork = none)
    ∧ (let s := { State.reset with
         fpx := { State.reset.fpx with scan := .waiting 0xFFF000 .mirror, firstPoll := some 0 }
         clk := { State.reset.clk with crystal := 400 * 32768 } }
       s.pins.vdd = true ∧ s.scanOpen = true ∧ s.fpx.scan = .waiting 0xFFF000 .mirror ∧ s.fpx.firstPoll = some 0
       ∧ 0 + 400 * 32768 ≤ s.clk.crystal ∧ State.reset.clk.crystal < 0 + 400 * 32768)
    ∧ (let s := { State.reset with
         fpx := { State.reset.fpx with firstPoll := some 0 }
         clk := { State.reset.clk with crystal := 400 * 32768 } }
       s.pins.vdd = true ∧ s.scanOpen = true ∧ s.fpx.scan = .idle ∧ s.nextWork = some (0xFFF000, .mirror) ∧ s.fpx.asleep = false
       ∧ s.fpx.gaveUp = false ∧ s.fpx.firstPoll = some 0 ∧ 0 + 400 * 32768 ≤ s.clk.crystal) := by decide +kernel

/-- The K240 owns the path and reads a sector. -/
def reading (x : Nat) (p : Purpose) : State :=
  { doubting with fpx := { doubting.fpx with owner := .k240, scan := .reading x p } }

theorem witness_SectorReadsReachTheirOwners :
    ((reading 0xFFF000 .mirror).pins.vdd = true ∧ (reading 0xFFF000 .mirror).fpx.scan = .reading 0xFFF000 .mirror
      ∧ (List.replicate 4096 (0xFF : Byte)).length = 4096 ∧ (reading 0xFFF000 .mirror).rst.adopted = true
      ∧ 0xFFF000 = (reading 0xFFF000 .mirror).anchorBase)
    ∧ ((reading 0x01F000 .mirror).scheduleBase = some 0x010000 ∧ 0x01F000 ≠ (reading 0x01F000 .mirror).anchorBase)
    ∧ ((reading 0x100000 .guideVerify).fpx.scan = .reading 0x100000 .guideVerify ∧ 0x100000 % 4096 = 0)
    ∧ (let s := { reading 0x11F000 .guideScan with ser := ⟨[], some 31⟩ }
       s.fpx.scan = .reading 0x11F000 .guideScan ∧ s.ser.scanRequest = some 31
       ∧ ¬ 31 + 1 < s.rst.inForce.layout.guideSectors.length) := by decide +kernel

theorem witness_DeadlinesAndPollsActWhenDue :
    (let s := { heard with fpx := { heard.fpx with inFlight := some ⟨.program, ⟨0x010000, 256⟩, 1000000000⟩ } }
     s.pins.vdd = true ∧ s.fpx.inFlight = some ⟨.program, ⟨0x010000, 256⟩, 1000000000⟩ ∧ 1000000000 ≤ s.clk.crystal
     ∧ s.clk.crystal < 1000000001)
    ∧ ((lending 32768).fpx.lend = some ⟨999967232, 1000, 0, false⟩
        ∧ 1000 * 32768 ≤ ((lending 32768).clk.crystal - 999967232) * 1000 ∧ (lending 32768).fpx.scan = .idle)
    ∧ ((lending 32767).fpx.lend = some ⟨999967233, 1000, 0, false⟩
        ∧ ((lending 32767).clk.crystal - 999967233) * 1000 < 1000 * 32768)
    ∧ (let s := { lending 32768 with fpx := { (lending 32768).fpx with scan := .reading 0x100000 .guideVerify } }
       s.fpx.lend = some ⟨999967232, 1000, 0, false⟩ ∧ s.fpx.scan = .reading 0x100000 .guideVerify)
    ∧ (let s := { standing with pwc := { standing.pwc with waking := some ⟨1000000000, 31, 71880⟩, wakeLine := true } }
       s.pwc.waking = some ⟨1000000000, 31, 71880⟩ ∧ 1000000000 ≤ s.clk.crystal ∧ s.clk.crystal < 1000000001)
    ∧ (let s := { standing with fpx := { standing.fpx with inFlight := some ⟨.program, ⟨0x010000, 256⟩, 1000065536⟩ } }
       s.pins.vdd = true ∧ s.pwc.power = .standby ∧ s.fpx.scan = .idle ∧ s.fpx.inFlight ≠ none ∧ s.nextWork = none) := by
  decide +kernel

/-- VIEW 1 waits while run 21 is recorded. -/
def queued : State := { withRun run21 heard with pending := [.view 1] }

theorem queued_runLaw : queued.RunLaw := ⟨run21_law.refs, run21_law.apart, run21_law.streams, run21_law.multiplex⟩

theorem queued_startUp : queued.StartUpLaw := fun h => absurd h (by decide)

theorem queued_tunerLaw : queued.TunerLaw :=
  ⟨by intro T; cases T <;> decide, by decide, by decide, by decide, by decide, by intro T; cases T <;> decide⟩

theorem witness_EveryStepKeepsTheCapacities :
    queued.TablesFit ∧ step queued = .next (after (.view 1) (withRun run21 heard))
    ∧ queued.RunLaw ∧ queued.StartUpLaw ∧ queued.TunerLaw ∧ queued.ListsFit :=
  ⟨⟨by decide, by decide, by decide, by decide, by decide, by decide, by decide, by decide, by decide, by decide, by decide⟩,
    rfl, queued_runLaw, queued_startUp, queued_tunerLaw,
    ⟨by decide, fun _ h => by simp [queued, withRun, heard, State.reset, Pln.afterReset] at h, by decide, by decide, by decide,
      by decide, by decide, fun _ h => by simp [queued, withRun, heard, Rst.afterReset] at h,
      fun _ h => by simp [queued, withRun, heard, Rst.afterReset] at h⟩⟩

theorem witness_EveryStepKeepsClockMirrorsAndClassTable :
    queued.ClockInRange ∧ queued.MirrorsCanonical ∧ step queued = .next (after (.view 1) (withRun run21 heard))
    ∧ (let s := { kept with pending := [.rescan] }
       s.ClassTableLaw ∧ step s = .next (after .rescan kept)) :=
  ⟨⟨by decide, by decide, by decide⟩, ⟨rfl, rfl⟩, rfl, rfl, rfl⟩

theorem witness_EveryStepKeepsTheTables :
    let s := { kept with pending := [.rescan] }
    s.LayoutLaw ∧ s.TablesLaw ∧ step s = .next (after .rescan kept) :=
  ⟨⟨kept_layout.layout, kept_layout.scan⟩,
    ⟨kept_tables.services, kept_tables.bookings, kept_tables.links, kept_tables.marks, kept_tables.leftOut⟩, rfl⟩

theorem witness_EveryStepKeepsStickyAndEvents :
    queued.StickyLaw ∧ queued.EventsLaw ∧ step queued = .next (after (.view 1) (withRun run21 heard)) := ⟨rfl, rfl, rfl⟩

theorem witness_EveryStepKeepsThePathLaw :
    queued.PathLaw ∧ step queued = .next (after (.view 1) (withRun run21 heard)) :=
  ⟨⟨by decide, by decide, fun h => absurd h (by decide), by decide, by decide, by decide, by decide, by decide⟩,
    rfl⟩

theorem witness_EveryStepKeepsRunsOnTheirTuners :
    queued.RunLaw ∧ step queued = .next (after (.view 1) (withRun run21 heard)) := ⟨queued_runLaw, rfl⟩

theorem witness_EveryStepKeepsTheTunerLaw :
    queued.RunLaw ∧ queued.StartUpLaw ∧ queued.TunerLaw ∧ step queued = .next (after (.view 1) (withRun run21 heard)) :=
  ⟨queued_runLaw, queued_startUp, queued_tunerLaw, rfl⟩

end Sys2Proof.Tests
end

/-! PROOFS. What a heard window command answers whose block's work is `Calm`, what a replan's snapshot holds, and the planner's
command REPLAN. -/

namespace Sys2Proof.Machine

/-! ### A window command that is heard -/

/-- A heard command runs over the state its absorbed program leaves, and the end of the selection disarms (R148, R152). -/
theorem State.powered_windowCommand {s : State} {e : ClassEntry} (h : s.Listening)
    (he : s.fpx.classTable.firstOf .program = some e) (c : Command) :
    s.powered (fun s => s.windowCommand c) = ((s.clearPorts.cut e.code).runCommand c).disarm := by
  have hvdd : s.pins.vdd = true := h.1
  simp only [State.powered, hvdd, if_true, State.windowCommand]
  exact State.commandProgram_listening h he 0 (encodeCommand c) fun s => s.runCommand c

/-- Work that is `Calm` over the absorbed program, then the completion, is all that `CommandFrame` allows. -/
theorem Calm.commandFrame {s u : State} {program : Byte} (h : Calm (s.clearPorts.cut program) u) (code : Byte) (r : CmdResult) :
    s.CommandFrame ((u.complete code r).disarm) program code r := by
  have hmask : u.rep.mask = s.rep.mask := congrArg (fun s => s.rep.mask) h.still
  have hcount : u.rep.counter = s.rep.counter := congrArg (fun s => s.rep.counter) h.still
  rw [State.complete_eq]
  exact {
    ports := h.rework.ports
    fpx := congrArg (fun f : Fpx => { f with resetArm := false }) h.fpx
    pins := h.rework.pins
    pwc := h.rework.pwc
    anchor := h.rework.anchor
    schedule := h.rework.schedule
    tables := h.tables
    verify := h.verify
    plan := h.rework.plan
    mask := hmask
    code := rfl
    result := rfl
    count := congrArg (· + 1) hcount
    done := by by_cases hr : r = .ok <;> simp [hr] }

/-! ### The trigger and the snapshot -/

/-- A replan that starts takes its snapshot at the counter, of the horizon in force and the service table: the purges before it
are `Calm` (R65, R84). -/
theorem State.startReplan_snapshot (s : State) :
    ∃ sn, s.startReplan.pln.snapshot = some sn ∧ sn.now = s.clk.counter ∧ sn.horizon = s.rst.inForce.schedule.horizon
      ∧ sn.services = s.rst.tables.services := by
  have h := ((State.guidePurge_calm State.markStale_calm { s with pln := { s.pln with stale := false } }).trans
    (State.historyPurge_calm _)).trans (State.removeUntagged_calm _)
  exact ⟨_, rfl, h.rework.counter, congrArg (fun s => s.rst.inForce.schedule.horizon) h.still,
    congrArg Records.services h.tables⟩

theorem State.trigger_running (s : State) (h : s.pln.snapshot.isSome = true) : s.trigger = s.markStale := by
  simp only [State.trigger, h, if_true]

theorem State.trigger_idle (s : State) (h : s.pln.snapshot = none) (hv : s.clk.valid = true) : s.trigger = s.startReplan := by
  simp [State.trigger, h, hv]

/-! ### REPLAN -/

section
variable {s : State} {e : ClassEntry}

theorem exec_replan_heard (h : s.Listening) (he : s.fpx.classTable.firstOf .program = some e) :
    exec .replan s = .next (((s.clearPorts.cut e.code).runCommand .replan).disarm) :=
  congrArg Host.Outcome.next (State.powered_windowCommand h he .replan)

/-- REPLAN while UNSET has no work (R88). -/
theorem exec_replan_unset (h : s.Listening) (he : s.fpx.classTable.firstOf .program = some e) (hv : s.clk.valid = false) :
    exec .replan s = .next (s.answered e.code 0x0C .notNow) := by
  have hw : (s.clearPorts.cut e.code).commandWork .replan = (.notNow, s.clearPorts.cut e.code) := by
    simp [State.commandWork, hv]
  rw [exec_replan_heard h he, State.runCommand_ok rfl, hw, ← State.complete_disarm]
  rfl

/-- REPLAN while VALID is a trigger, completed with OK (R88). -/
theorem exec_replan_valid (h : s.Listening) (he : s.fpx.classTable.firstOf .program = some e) (hv : s.clk.valid = true) :
    exec .replan s = .next (((s.clearPorts.cut e.code).trigger.complete 0x0C .ok).disarm) := by
  have hw : (s.clearPorts.cut e.code).commandWork .replan = (.ok, (s.clearPorts.cut e.code).trigger) := by
    simp [State.commandWork, hv]
  rw [exec_replan_heard h he, State.runCommand_ok rfl, hw]
  rfl

end

/-- Settles O30, by the planner's state: REPLAN is the trigger of R83 while VALID, and has no work while UNSET. -/
theorem replanCommandTriggers : Obligations.ReplanCommandTriggers := by
  intro s e h he
  refine ⟨exec_replan_unset h he, fun hv hrun => ?running, fun hv hidle => ?idle⟩
  case running =>
    rw [exec_replan_valid h he hv, State.trigger_running (s.clearPorts.cut e.code) hrun, ← State.complete_disarm]
    rfl
  case idle =>
    have hcalm := (State.trigger_calm (s.clearPorts.cut e.code)).commandFrame 0x0C .ok
    obtain ⟨sn, hsn, hnow, hhorizon, hservices⟩ := State.startReplan_snapshot (s.clearPorts.cut e.code)
    refine ⟨_, sn, exec_replan_valid h he hv, ?_, hnow, hhorizon, hservices, hcalm⟩
    rw [State.trigger_idle (s.clearPorts.cut e.code) hidle hv, State.complete_eq]
    exact hsn

end Sys2Proof.Machine

/-! PROOFS. The clock after an advance of the counter, up to its channels and events, and the lengths of seconds over a whole
window of 256 counter values. -/

namespace Sys2Proof.Machine

/-! ### The clock after an advance of the counter -/

theorem Calm.clkStill {s t : State} (h : Calm s t) : t.clk.still = s.clk.still := congrArg (fun u => u.clk.still) h.still

theorem State.dormantTest_clk (s : State) : s.dormantTest.clk = s.clk := by
  rcases State.dormantTest_cases s with h | ⟨-, h⟩ | ⟨_, _, -, -, h⟩ <;> rw [h]

theorem State.dormantReturn_clk (s : State) : s.dormantReturn.clk = s.clk := by
  rcases State.dormantReturn_cases s with ⟨-, h⟩ | ⟨-, -, h⟩ | ⟨_, -, -, h⟩ <;> rw [h]

/-- With VDD present the channels, the notices, the hourly trigger and DORMANT leave the advanced clock as it is, but for its
channels and events. -/
theorem State.advancePowered_still (s : State) : s.advancePowered.clk.still = s.clk.advance.still := by
  have hcheck : ({ s with clk := s.clk.advance } : State).checkChannels.clk.still = s.clk.advance.still :=
    (State.checkChannels_calm _).clkStill
  simp only [State.advancePowered]
  split
  case isTrue => rw [State.postNow_clk]
  case isFalse =>
    split
    case isTrue =>
      rw [State.dormantTest_clk]
      split
      case isTrue => rw [(State.trigger_calm _).clkStill, State.dormantReturn_clk, hcheck]
      case isFalse => rw [State.dormantReturn_clk, hcheck]
    case isFalse => exact hcheck

theorem State.advanceCounter_still (s : State) : s.advanceCounter.clk.still = s.clk.advance.still := by
  unfold State.advanceCounter
  split
  · exact s.advancePowered_still
  · rfl

/-! ### The second in progress -/

/-- The second in progress is at its beginning, its length that of the counter value and the trim (R91). -/
def Clk.Begun (k : Clk) : Prop := k.prescaler = 0 ∧ k.secondLen = secondLength k.counter k.trim

theorem Clk.beginSecond_begun (k : Clk) (n : Nat) : (k.beginSecond n).Begun := ⟨rfl, rfl⟩

/-- `Begun` reads only what `still` keeps. -/
theorem Clk.begun_still (k : Clk) : k.still.Begun ↔ k.Begun := Iff.rfl

/-- An advance and a wrap both begin a second (R90, R97). -/
theorem Clk.advance_begun (k : Clk) : k.advance.Begun := by
  unfold Clk.advance
  split
  · exact k.runOut.beginSecond_begun 0
  · exact k.runOut.beginSecond_begun (k.counter + 1)

theorem State.advanceCounter_begun (s : State) : s.advanceCounter.clk.Begun := by
  rw [← Clk.begun_still, s.advanceCounter_still, Clk.begun_still]
  exact s.clk.advance_begun

/-! ### The table of lengths (R91) -/

theorem secondLength_long {n : Nat} {k : Int} (h : n % 256 < k.natAbs) (hk : 0 < k) : secondLength n k = 32769 := by
  simp [secondLength, h, hk, Config.secondPeriods]

theorem secondLength_short {n : Nat} {k : Int} (h : n % 256 < k.natAbs) (hk : k < 0) : secondLength n k = 32767 := by
  simp [secondLength, h, Int.not_lt.2 hk.le, Config.secondPeriods]

theorem secondLength_ordinary {n : Nat} {k : Int} (h : k.natAbs ≤ n % 256) : secondLength n k = 32768 := by
  simp [secondLength, Nat.not_lt.2 h, Config.secondPeriods]

/-- A second of length other than 32768 is one the trim adjusts: the low byte of its counter value is below |k|. -/
theorem secondLength_ne_iff (n : Nat) (k : Int) : secondLength n k ≠ 32768 ↔ n % 256 < k.natAbs := by
  refine ⟨fun hne => Nat.lt_of_not_le fun h => hne (secondLength_ordinary h), fun h => ?_⟩
  rcases lt_trichotomy k 0 with hk | rfl | hk
  · simp [secondLength_short h hk]
  · simp at h
  · simp [secondLength_long h hk]

/-- Each adjusted second is off by the sign of the trim. -/
theorem secondLength_eq_sign (n : Nat) (k : Int) :
    (secondLength n k : Int) = 32768 + if secondLength n k ≠ 32768 then k.sign else 0 := by
  by_cases h : secondLength n k ≠ 32768
  · have hlow := (secondLength_ne_iff n k).1 h
    rcases lt_trichotomy k 0 with hk | rfl | hk
    · simp [secondLength_short hlow hk, Int.sign_eq_neg_one_of_neg hk]
    · simp at hlow
    · simp [secondLength_long hlow hk, Int.sign_eq_one_of_pos hk]
  · rw [if_neg h, not_not.1 h]
    rfl

/-! ### Consecutive seconds -/

/-- Among `p` consecutive numbers, wherever they begin, exactly `m` leave a remainder below `m`: the window from `n` and the
window from 0 complete the same count up to `n + p`. -/
theorem count_mod_lt_window {m p : Nat} (h : m ≤ p) (n : Nat) : Nat.count (fun i => (n + i) % p < m) p = m := by
  have hwindow := Nat.count_add (fun i => i % p < m) n p
  have hperiod := Nat.count_add (fun i => i % p < m) p n
  have hbelow : Nat.count (fun i => i % p < m) m = m :=
    Nat.count_iff_forall.2 fun i hi => by rwa [Nat.mod_eq_of_lt (hi.trans_le h)]
  have habove : Nat.count (fun i => (m + i) % p < m) (p - m) = 0 :=
    Nat.count_iff_forall_not.2 fun i hi => by rw [Nat.mod_eq_of_lt (by omega)]; omega
  have hfirst := Nat.count_add (fun i => i % p < m) m (p - m)
  rw [Nat.add_sub_cancel' h, hbelow, habove] at hfirst
  simp only [Nat.add_mod_left] at hperiod
  rw [Nat.add_comm p n] at hperiod
  omega

/-- 256 consecutive seconds hold exactly |k| adjusted ones (R91). -/
theorem length_adjustedSeconds (n : Nat) {k : Int} (h : k.natAbs ≤ 256) :
    ((List.range 256).filter fun i => secondLength (n + i) k ≠ 32768).length = k.natAbs := by
  rw [← List.countP_eq_length_filter]
  simp only [secondLength_ne_iff]
  exact count_mod_lt_window h n

/-- Seconds together last 32768 periods each, and the sign of the trim more for each adjusted one. -/
theorem sum_secondLengths (n : Nat) (k : Int) (is : List Nat) :
    (((is.map fun i => secondLength (n + i) k).sum : Nat) : Int)
      = is.length * 32768 + k.sign * (is.filter fun i => secondLength (n + i) k ≠ 32768).length := by
  induction is with
  | nil => simp
  | cons i is ih =>
    rw [List.map_cons, List.sum_cons, Nat.cast_add, ih, secondLength_eq_sign, List.filter_cons]
    by_cases h : secondLength (n + i) k ≠ 32768
    · rw [if_pos h, if_pos (decide_eq_true h), List.length_cons, List.length_cons]
      push_cast
      ring
    · rw [if_neg h, if_neg (mt of_decide_eq_true h), List.length_cons]
      push_cast
      ring

/-- Settles O8: an advance leaves the clock at the beginning of a second, the table is read off `secondLength`, and a window of
256 seconds meets every low byte of the counter once. -/
theorem secondLengthsFollowTheTrim : Obligations.SecondLengthsFollowTheTrim := by
  refine ⟨fun s => ?_, fun n k hlow hhigh => ?_⟩
  · obtain ⟨hprescaler, hlength⟩ := s.clearPorts.advanceCounter_begun
    exact ⟨_, rfl, hprescaler, hlength⟩
  · have hadjusted := length_adjustedSeconds n (k := k) (by omega)
    refine ⟨secondLength_long, secondLength_short, secondLength_ordinary, hadjusted, ?_⟩
    rw [sum_secondLengths, hadjusted, Int.sign_mul_natAbs, List.length_range]
    rfl

end Sys2Proof.Machine

/-! PROOFS. The two commands whose work is the report unit's alone: ACK_NOTICES, which takes notices off the queue before its
completion, and CLEAR_FLAGS, which clears sticky flags after it. -/

namespace Sys2Proof.Machine

/-! ### A heard row of the window commands -/

/-- Every row that names a window command runs it over the state its absorbed program leaves. -/
theorem exec_row_heard {s : State} {e : ClassEntry} (h : s.Listening) (he : s.fpx.classTable.firstOf .program = some e)
    (c : Command) : exec c.row s = .next (((s.clearPorts.cut e.code).runCommand c).disarm) := by
  rw [← State.powered_windowCommand h he c]
  cases c <;> rfl

/-- A heard row whose argument is out of range is answered BAD_ARG, with no work (R167, R168). -/
theorem exec_row_badArg {s : State} {e : ClassEntry} (h : s.Listening) (he : s.fpx.classTable.firstOf .program = some e)
    {c : Command} (hc : argOk c = false) : exec c.row s = .next (s.answered e.code (commandCode c) .badArg) := by
  rw [exec_row_heard h he, State.runCommand_bad hc, State.complete_disarm]

/-! ### ACK_NOTICES -/

theorem argOk_ackNotices_iff (n : Byte) : argOk (.ackNotices n) = true ↔ 1 ≤ n.toNat ∧ n.toNat ≤ 32 := by
  simp [argOk]

theorem argOk_ackNotices_of_outside {n : Byte} (hn : n = 0 ∨ 32 < n.toNat) : argOk (.ackNotices n) = false := by
  rw [Bool.eq_false_iff, ne_eq, argOk_ackNotices_iff]
  rintro ⟨hlow, hhigh⟩
  rcases hn with rfl | hn
  · exact absurd hlow (by decide)
  · omega

/-- Settles O27, by the check of R164: in range the work is the removal, completed with OK; outside it there is none. -/
theorem ackNoticesRemovesTheOldest : Obligations.AckNoticesRemovesTheOldest := by
  intro s e n h he
  refine ⟨fun hlow hhigh => ?removed, fun hn => exec_row_badArg h he (argOk_ackNotices_of_outside hn)⟩
  case removed =>
    have hexec := exec_row_heard h he (.ackNotices n)
    rw [State.runCommand_ok ((argOk_ackNotices_iff n).2 ⟨hlow, hhigh⟩)] at hexec
    rw [← State.complete_disarm]
    exact hexec

/-! ### CLEAR_FLAGS -/

/-- CLEAR_FLAGS has no work of its own: it is answered OK, and the clearing follows the completion (R170). -/
theorem exec_clearFlags_heard {s : State} {e : ClassEntry} (h : s.Listening)
    (he : s.fpx.classTable.firstOf .program = some e) (mask : BitVec 16) :
    exec (.clearFlags mask) s = .next ((s.answered e.code 0x02 .ok).clearSticky mask) := by
  have hexec := exec_row_heard h he (.clearFlags mask)
  rw [State.runCommand_ok rfl] at hexec
  rw [← State.complete_disarm]
  exact hexec

/-- COMMAND_DONE's bit is bit 3 and no other. -/
theorem getLsbD_commandDone (i : Nat) : (0x0008 : BitVec 16).getLsbD i = decide (i = 3) := by
  have hbit : (0x0008 : BitVec 16) = BitVec.twoPow 16 3 := by decide
  rw [hbit, BitVec.getLsbD_twoPow]
  simp [eq_comm]

theorem State.answered_ok_sticky (s : State) (program code : Byte) (i : Nat) :
    (s.answered program code .ok).rep.sticky.getLsbD i = (s.rep.sticky.getLsbD i || decide (i = 3)) := by
  rw [← getLsbD_commandDone, ← BitVec.getLsbD_or]
  rfl

theorem State.clearSticky_sticky (s : State) (mask : BitVec 16) (i : Nat) :
    (s.clearSticky mask).rep.sticky.getLsbD i = (s.rep.sticky.getLsbD i && !mask.getLsbD i) := by
  rw [State.clearSticky, BitVec.getLsbD_and, BitVec.getLsbD_not]
  by_cases hi : i < 16
  · simp [hi]
  · simp [BitVec.getLsbD_of_ge s.rep.sticky i (by omega)]

/-- Settles O28: the completion raises COMMAND_DONE first, and the clearing then names its bits. -/
theorem clearFlagsFollowsItsCompletion : Obligations.ClearFlagsFollowsItsCompletion := by
  intro s e mask h he
  refine ⟨_, exec_clearFlags_heard h he mask, rfl, fun i => ?_⟩
  rw [State.clearSticky_sticky, State.answered_ok_sticky]

end Sys2Proof.Machine

/-! PROOFS. The record tables: a state that keeps both laws of the tables, and a step out of it that breaks one. -/

namespace Sys2Proof.Machine

/-! ### A schedule mirror that reaches into the guide partition

Nothing in `LayoutLaw` or `TablesLaw` bounds the offsets of the schedule mirror's cells. A service record at mirror offset 10000h
stands at the flash address where the guide partition begins, and the verification of that guide sector, which recomputes no
table, takes the record out of doubt. -/

/-- A service record, id 1, at offset 10000h. -/
def strayMirror : Memory :=
  [(0x10000, 0x3F), (0x10001, 0x01), (0x10002, 0x01), (0x10003, 0x00), (0x10004, 0x01), (0x10005, 0x00), (0x10006, 0x01),
    (0x10007, 0x00), (0x10008, 0x00)]

/-- STANDBY, the guide's first sector doubtful and being read for its verification. -/
def strayState : State :=
  { State.reset with
    fpx := { Fpx.afterReset with scan := .reading 0x110000 .guideVerify }
    rst := { Rst.afterReset .mib16 with
      schedule := strayMirror
      verify := [0x110000]
      inForce := { unconfigured .mib16 with layout := ⟨some 0x100000, some 0x110000, 1, 0x200000⟩ } }
    pwc := { Pwc.afterReset true with power := .standby, socrst := false }
    pending := [.guideSectorVerify []] }

/-- The state its step answers. -/
def strayAfter : State :=
  match step strayState with
  | .next t => t
  | _ => strayState

theorem step_strayState : step strayState = .next strayAfter := rfl

theorem strayState_layoutLaw : strayState.LayoutLaw where
  layout := .inr ⟨0x100000, 0x110000, 1, 0x200000, rfl, by decide⟩
  scan := by
    rintro x (h | h)
    · cases h
    · cases h
      decide

/-- While the sector is doubtful the stray record is no contender. -/
theorem strayState_effectiveRecords : strayState.effectiveRecords = ⟨[], [], [], []⟩ := by decide

theorem strayState_tablesLaw : strayState.TablesLaw where
  services := by rw [strayState_effectiveRecords]; rfl
  bookings := by rw [strayState_effectiveRecords]; rfl
  links := by rw [strayState_effectiveRecords]; rfl
  marks := by rw [strayState_effectiveRecords]; rfl
  leftOut := by rw [strayState_effectiveRecords]; rfl

theorem strayAfter_effective : strayAfter.effectiveRecords.services.length = 1 := by decide

theorem strayAfter_table : strayAfter.rst.tables.services = [] := by decide

/-- Refutes O56: the verification of a guide sector makes the stray record effective while the service table stays empty. -/
theorem not_everyStepKeepsTheTables : ¬ Obligations.EveryStepKeepsTheTables := by
  rintro ⟨htables, -⟩
  obtain ⟨-, law⟩ := htables _ _ strayState_layoutLaw strayState_tablesLaw step_strayState
  have hlength := congrArg List.length law.services
  rw [strayAfter_table, List.length_take, strayAfter_effective] at hlength
  exact absurd hlength (by decide)

end Sys2Proof.Machine

/-! PROOFS. What a step can do to the runs, the waiting list, the tuner records, the plan, the configuration of the tuners and the
class table, as a chain of moves, and the operations that make no move. -/

namespace Sys2Proof.Machine

/-! ### The core of a state, and what is sound beside it -/

/-- The part of the state the moves speak of, the rest at fixed values. -/
def State.core (s : State) : State :=
  { State.reset with
    fpx := { Fpx.afterReset with classTable := s.fpx.classTable }
    rst := { Rst.afterReset .mib16 with
      effConfig := s.rst.effConfig, effOpcodes := s.rst.effOpcodes, deferred := s.rst.deferred
      inForce := { unconfigured .mib16 with tuner := s.rst.inForce.tuner } }
    pln := { Pln.afterReset with snapshot := s.pln.snapshot, plan := s.pln.plan }
    run := { RunEngine.afterReset with runs := s.run.runs, waiting := s.run.waiting }
    tun := s.tun }

/-- The laws that every single operation but a reset keeps by itself. -/
structure Sound (s t : State) : Prop where
  fit : s.TablesFit → t.TablesFit
  clock : s.ClockInRange → t.ClockInRange
  mirrors : s.MirrorsCanonical → t.MirrorsCanonical
  sticky : s.StickyLaw → t.StickyLaw
  adopted : s.rst.adopted = true → t.rst.adopted = true
  queue : t.pending = s.pending

theorem Sound.refl (s : State) : Sound s s := ⟨id, id, id, id, id, rfl⟩

theorem Sound.trans {s t u : State} (h : Sound s t) (k : Sound t u) : Sound s u :=
  ⟨fun x => k.fit (h.fit x), fun x => k.clock (h.clock x), fun x => k.mirrors (h.mirrors x), fun x => k.sticky (h.sticky x),
    fun x => k.adopted (h.adopted x), k.queue.trans h.queue⟩

theorem Rework.sound {s t : State} (h : Rework s t) (hs : s.StickyLaw → t.StickyLaw) : Sound s t where
  fit := h.fit
  clock := fun c => ⟨h.counter ▸ c.counter, h.trim ▸ c.low, h.trim ▸ c.high⟩
  mirrors := fun m => ⟨h.anchor ▸ m.anchor, h.schedule ▸ m.schedule⟩
  sticky := hs
  adopted := fun a => h.adopted.trans a
  queue := h.pending

theorem Calm.sound {s t : State} (h : Calm s t) (hs : s.StickyLaw → t.StickyLaw) : Sound s t := h.rework.sound hs

/-- An operation that makes no move. -/
structure Quiet (s t : State) : Prop extends Sound s t where
  core : t.core = s.core

theorem Quiet.refl (s : State) : Quiet s s := ⟨Sound.refl s, rfl⟩

theorem Quiet.trans {s t u : State} (h : Quiet s t) (k : Quiet t u) : Quiet s u :=
  ⟨h.toSound.trans k.toSound, k.core.trans h.core⟩

theorem Quiet.ite {s a b : State} {c : Prop} [Decidable c] (ha : Quiet s a) (hb : Quiet s b) : Quiet s (if c then a else b) := by
  split
  · exact ha
  · exact hb

theorem Quiet.foldl {α : Type} {f : State → α → State} (hf : ∀ s a, Quiet s (f s a)) (xs : List α) (s : State) :
    Quiet s (xs.foldl f s) := by
  induction xs generalizing s with
  | nil => exact Quiet.refl s
  | cons x xs ih => exact (hf s x).trans (ih _)

/-- A calm update that shows in the core and raises no flag. -/
theorem Calm.quiet {s t : State} (h : Calm s t) (hcore : t.core = s.core) (hs : t.rep.sticky = s.rep.sticky) : Quiet s t :=
  ⟨h.sound fun x => by rwa [State.StickyLaw, hs], hcore⟩

/-! ### Flags -/

theorem stickyLaw_or {x y : BitVec 16} (hx : x &&& ~~~0x0D9E = 0) (hy : y &&& ~~~0x0D9E = 0) :
    (x ||| y) &&& ~~~0x0D9E = 0 := by
  ext i hi
  have hx' := congrArg (fun v => v.getLsbD i) hx
  have hy' := congrArg (fun v => v.getLsbD i) hy
  simp only [BitVec.getLsbD_and] at hx' hy'
  simp only [← BitVec.getLsbD_eq_getElem, BitVec.getLsbD_and, BitVec.getLsbD_or, Bool.and_or_distrib_right, hx', hy',
    Bool.or_self]

theorem State.raise_sticky {s : State} {f : Flag} (hf : f.bit &&& ~~~0x0D9E = 0) (h : s.StickyLaw) : (s.raise f).StickyLaw :=
  stickyLaw_or h hf

/-! ### Operations that make no move -/

theorem State.raise_quiet (s : State) {f : Flag} (hf : f.bit &&& ~~~0x0D9E = 0) : Quiet s (s.raise f) :=
  ⟨(State.raise_calm s f).sound (State.raise_sticky hf), rfl⟩

theorem State.post_quiet (s : State) (n : Notice) : Quiet s (s.post n) := by
  have hc := State.post_calm s n
  rcases State.post_eq s n with ⟨-, h⟩ | ⟨-, h⟩
  · rw [h] at hc ⊢
    exact hc.quiet rfl rfl
  · rw [h] at hc ⊢
    exact ⟨hc.sound fun x => stickyLaw_or x (by decide), rfl⟩

theorem State.postNow_quiet (s : State) (k : NoticeKind) (t : Option Tuner) (d : Int) (r : Nat) (a : Int) :
    Quiet s (s.postNow k t d r a) := State.post_quiet s _

theorem State.reloadChannel_quiet (s : State) (c : Channel) (v : Option Nat) : Quiet s (s.reloadChannel c v) :=
  (State.reloadChannel_calm s c v).quiet (by cases v <;> rfl) (by cases v <;> rfl)

theorem State.disableChannel_quiet (s : State) (c : Channel) : Quiet s (s.disableChannel c) := State.reloadChannel_quiet s c none

theorem State.loadChannel_quiet (s : State) (c : Channel) (v : Nat) : Quiet s (s.loadChannel c v) :=
  State.reloadChannel_quiet s c (some v)

theorem State.checkChannels_quiet (s : State) : Quiet s s.checkChannels :=
  (State.checkChannels_calm s).quiet (by unfold State.checkChannels; rfl) (by unfold State.checkChannels; rfl)

theorem State.reloadRunChannels_quiet (s : State) : Quiet s s.reloadRunChannels := by
  unfold State.reloadRunChannels
  exact ((((State.reloadChannel_quiet _ _ _).trans (State.reloadChannel_quiet _ _ _)).trans
    (State.reloadChannel_quiet _ _ _)).trans (State.reloadChannel_quiet _ _ _)).trans (State.reloadChannel_quiet _ _ _)

theorem State.reloadWarn_quiet (s : State) : Quiet s s.reloadWarn := State.reloadChannel_quiet _ _ _

theorem State.addHistory_quiet (s : State) (e : HistoryEntry) : Quiet s (s.addHistory e) :=
  (State.addHistory_calm s e).quiet rfl rfl

theorem State.addEndState_quiet (s : State) (e : EndState) : Quiet s (s.addEndState e) :=
  (State.addEndState_calm s e).quiet rfl rfl

theorem State.clearEndState_quiet (s : State) (b : BookingRec) : Quiet s (s.clearEndState b) :=
  (State.clearEndState_calm s b).quiet rfl rfl

theorem State.addPending_quiet (s : State) (k : PendingKey) : Quiet s (s.addPending k) :=
  (State.addPending_calm s k).quiet rfl rfl

theorem State.removeUntagged_quiet (s : State) : Quiet s s.removeUntagged := (State.removeUntagged_calm s).quiet rfl rfl

theorem State.markEntered_quiet (s : State) (m : MarkRec) : Quiet s (s.markEntered m) := (State.markEntered_calm s m).quiet rfl rfl

theorem State.historyPurge_quiet (s : State) : Quiet s s.historyPurge := (State.historyPurge_calm s).quiet rfl rfl

theorem State.holdBack_quiet (s : State) (ref : Nat) : Quiet s (s.holdBack ref) := (State.holdBack_calm s ref).quiet rfl rfl

theorem State.markStale_quiet (s : State) : Quiet s s.markStale := (State.markStale_calm s).quiet rfl rfl

theorem State.setEntries_quiet {s : State} {es : List MatchedEntry} (h : s.gmx.entries.length ≤ 384 → es.length ≤ 384) :
    Quiet s (s.setEntries es) := (State.setEntries_calm h).quiet rfl rfl

theorem State.manualEnd_quiet (s : State) (b v : Nat) (o : RunOutcome) : Quiet s (s.manualEnd b v o) :=
  Quiet.ite (Quiet.refl s) (State.addEndState_quiet _ _)

theorem State.markEnd_quiet (s : State) (r : ActiveRun) (o : RunOutcome) : Quiet s (s.markEnd r o) := by
  unfold State.markEnd
  split
  · exact State.manualEnd_quiet _ _ _ _
  · exact Quiet.ite (State.addPending_quiet _ _) (Quiet.refl s)

/-! ### The guide matcher, up to its reports -/

theorem State.refuseEvent_quiet (s : State) (slot : Nat) (e : Event) (notice : Bool) : Quiet s (s.refuseEvent slot e notice) := by
  have hraise : Quiet s (s.raise .tableFull) := State.raise_quiet s (by decide)
  exact Quiet.ite (hraise.trans (State.postNow_quiet _ _ _ _ _ _)) hraise

theorem Taking.takeMatched_quiet (t : Taking) (mode : TakeMode) (slot : Nat) (e : Event) :
    Quiet t.st (t.takeMatched mode slot e).st := by
  unfold Taking.takeMatched
  by_cases h : t.st.gmx.entries.length < Config.matchedCap
  · simp only [if_pos h]
    exact State.setEntries_quiet fun _ => by rw [insertEntry, length_insertBy]; exact h
  · simp only [if_neg h]
    exact State.refuseEvent_quiet _ _ _ _

theorem Taking.takeUnmatched_quiet (t : Taking) (mode : TakeMode) (slot : Nat) (e : Event) :
    Quiet t.st (t.takeUnmatched mode slot e).st := by
  unfold Taking.takeUnmatched
  by_cases hd : displaces t.st.gmx.entries slot e = true
  · simp only [if_pos hd]
    by_cases h : t.st.gmx.entries.length < Config.matchedCap
    · simp only [if_pos h]
      exact State.setEntries_quiet fun _ => by rw [insertEntry, length_insertBy]; exact h
    · simp only [if_neg h]
      refine Quiet.trans (State.setEntries_quiet fun hl => ?_) (State.refuseEvent_quiet _ _ _ _)
      split
      · exact hl
      · exact ((length_pruneDisplacingOf _ _).trans (List.length_filter_le _ _)).trans hl
  · simp only [if_neg hd]
    exact Quiet.refl _

theorem Taking.foldl_quiet {f : Taking → Nat × Event → Taking} (hf : ∀ t p, Quiet t.st (f t p).st) (xs : List (Nat × Event))
    (t : Taking) : Quiet t.st (xs.foldl f t).st := by
  induction xs generalizing t with
  | nil => exact Quiet.refl _
  | cons x xs ih => exact (hf t x).trans (ih _)

theorem State.takeSector_quiet (s : State) (mode : TakeMode) (slots : List (Nat × Event)) : Quiet s (s.takeSector mode slots) :=
  (Taking.foldl_quiet (fun t p => t.takeMatched_quiet mode p.1 p.2) (slots.filter fun p => s.isMatched p.2) ⟨s, false⟩).trans
    (Taking.foldl_quiet (fun t p => t.takeUnmatched_quiet mode p.1 p.2) _ _)

/-- A change of the record store alone that leaves the mirrors and the tables, and does not show in the core. -/
theorem Quiet.of_rst {s : State} {r : Rst} (ha : r.anchor = s.rst.anchor) (hs : r.schedule = s.rst.schedule)
    (hd : r.adopted = s.rst.adopted) (ht : r.tables = s.rst.tables) (hc : ({ s with rst := r } : State).core = s.core) :
    Quiet s { s with rst := r } :=
  ⟨(Rework.of_rst' ha hs hd ht).sound id, hc⟩

/-- A change of the scan request alone. -/
theorem Quiet.of_scan (s : State) (r : Option Nat) : Quiet s { s with ser := { s.ser with scanRequest := r } } :=
  ⟨(Rework.of_scan s r).sound id, rfl⟩

theorem State.raiseScan_quiet (s : State) : Quiet s s.raiseScan := Quiet.ite (Quiet.of_scan s _) (Quiet.refl s)

theorem State.doubtGuideSector_quiet (s : State) (sector : Nat) : Quiet s (s.doubtGuideSector sector) :=
  (Quiet.of_rst (r := { s.rst with verify := insertNat sector s.rst.verify }) rfl rfl rfl rfl rfl).trans (State.setEntries_quiet fun h => by simpa using h)

theorem State.programHeld_quiet (s : State) (slot : Nat) (bytes : List (Nat × Byte)) : Quiet s (s.programHeld slot bytes) := by
  unfold State.programHeld
  split
  · exact Quiet.refl s
  · exact Quiet.ite
      (State.setEntries_quiet fun h => (length_pruneDisplacing _).trans ((List.length_filter_le _ _).trans h))
      (Quiet.ite (Quiet.refl s) (State.doubtGuideSector_quiet _ _))
  · exact State.doubtGuideSector_quiet _ _

theorem State.programWhole_quiet (s : State) (slot : Nat) (f : Nat → Byte) : Quiet s (s.programWhole slot f) := by
  unfold State.programWhole
  split
  · exact Quiet.ite (Taking.takeMatched_quiet ⟨s, false⟩ _ _ _) (Taking.takeUnmatched_quiet ⟨s, false⟩ _ _ _)
  · exact State.postNow_quiet _ _ _ _ _ _
  · exact Quiet.refl s

theorem State.programSlot_quiet (s : State) (page : Nat) (applied : List (Nat × Byte)) (off : Nat) :
    Quiet s (s.programSlot page applied off) :=
  Quiet.ite (Quiet.refl s) (Quiet.ite (State.programHeld_quiet _ _ _)
    (Quiet.ite (State.programWhole_quiet _ _ _) (Quiet.refl s)))

/-! ### The record store, up to its hand-offs -/

theorem State.recomputeTables_quiet (s : State) : Quiet s s.recomputeTables :=
  ⟨(State.recomputeTables_rework s).sound id, rfl⟩

theorem State.reportDamaged_quiet (s : State) : Quiet s s.reportDamaged := by
  unfold State.reportDamaged
  simp only
  refine Quiet.trans ?_ (Quiet.foldl (fun s _ => State.postNow_quiet s _ _ _ _ _) _ _)
  exact Quiet.of_rst rfl rfl rfl rfl rfl

theorem State.reportRejected_quiet (s : State) : Quiet s s.reportRejected := by
  unfold State.reportRejected
  simp only
  refine Quiet.trans ?_ (Quiet.foldl (fun s _ => State.postNow_quiet s _ _ _ _ _) _ _)
  exact Quiet.of_rst rfl rfl rfl rfl rfl

theorem State.reportLeft_quiet (s : State) (kind : Nat) (fresh : List (Nat × Nat)) : Quiet s (s.reportLeft kind fresh) :=
  Quiet.foldl (fun s _ => (State.raise_quiet s (by decide)).trans (State.postNow_quiet _ _ _ _ _ _)) _ _

theorem State.reportLeftOut_quiet (before : Records) (s : State) : Quiet s (s.reportLeftOut before) :=
  (((State.reportLeft_quiet _ _ _).trans (State.reportLeft_quiet _ _ _)).trans (State.reportLeft_quiet _ _ _)).trans
    (State.reportLeft_quiet _ _ _)

theorem State.postConfig_quiet (s : State) (o : ConfigOutcome) : Quiet s (s.postConfig o) := by
  have h := fun c [Decidable c] (d : Int) => Quiet.ite (c := c)
    (State.postNow_quiet s .configApplied none d s.configRef.1 (s.configRef.2 : Nat)) (Quiet.refl s)
  exact Quiet.ite ((h _ _).trans (State.postNow_quiet _ _ _ _ _ _)) (h _ _)

end Sys2Proof.Machine

/-! PROOFS. The moves, and the chains of them that the run engine, the arbiter, the guide matcher's reports and the replan trigger
make. -/

namespace Sys2Proof.Machine

/-! ### The moves -/

/-- A run stands in the run table under this ref, on this tuner and multiplex. -/
def State.Active (s : State) (r : ActiveRun) : Prop :=
  ∃ x ∈ s.run.runs, x.ref = r.ref ∧ x.tuner = r.tuner ∧ x.multiplex = r.multiplex

/-- What the laws of the runs read of a run. -/
def ActiveRun.key (r : ActiveRun) : Nat × Tuner × Nat := (r.ref, r.tuner, r.multiplex)

/-- The tuner group of the record: the effective CONFIG's, or the default (1.8). -/
def State.recordTuner (s : State) : TunerGroup :=
  match s.rst.effConfig with
  | some r => r.cfg.tuner
  | none => defaultTunerGroup

theorem State.recordCfg_tuner (s : State) : s.recordCfg.tuner = s.recordTuner := by
  unfold State.recordCfg State.recordTuner
  cases s.rst.effConfig <;> rfl

/-- The tuner's record once the judgment of a start request is carried out (R129, R130). -/
def State.Starts (s : State) (r : ActiveRun) (new : TunerRec) : Prop :=
  (judgeRequest s.rst.inForce.tuner s.tun r.tuner r.multiplex r.feed = .granted
      ∧ new = (s.tun.get r.tuner).grant r.multiplex r.feed)
    ∨ (judgeRequest s.rst.inForce.tuner s.tun r.tuner r.multiplex r.feed = .evicts
      ∧ new = (s.tun.get r.tuner).evict r.multiplex r.feed)

/-- The tuner records a granted VIEW leaves (R132). -/
def Tun.viewed (t : Tun) (T : Tuner) (service m f : Nat) : Tun :=
  let t1 := if t.viewerTuner = some (otherTuner T) then t.set (otherTuner T) (t.get (otherTuner T)).releaseViewer else t
  t1.set T ((t1.get T).takeViewer service m f)

/-- One change of the core. `Q` is what is known at an adoption: the law of start-up. -/
inductive Move (Q : Prop) : State → State → Prop
  | idle (s : State) : Move Q s { s with pln := { s.pln with snapshot := none } }
  | replan (s : State) (sn : Snapshot) (h : sn.pinned.length = s.run.runs.length) :
      Move Q s { s with pln := { s.pln with snapshot := some sn } }
  | publish (s : State) (sn : Snapshot) (g : BitVec 32) (h : s.pln.snapshot = some sn) :
      Move Q s { s with pln := { s.pln with plan := sn.plan.stamp g } }
  | thin (s : State) (w : List WaitingEntry) (h : (w.map WaitingEntry.ref).Sublist (s.run.waiting.map WaitingEntry.ref)) :
      Move Q s { s with run := { s.run with waiting := w } }
  | rebuild (s : State) (w : List WaitingEntry) (hlength : w.length ≤ s.pln.plan.entries.length)
      (hapart : ∀ e ∈ w, ∀ r ∈ s.run.runs, e.ref ≠ r.ref) : Move Q s { s with run := { s.run with waiting := w } }
  | revise (s : State) (rs : List ActiveRun)
      (h : (s.run.runs.map ActiveRun.ref).Nodup → rs.map ActiveRun.key = s.run.runs.map ActiveRun.key) :
      Move Q s { s with run := { s.run with runs := rs } }
  | release (s : State) (r : ActiveRun) (h : s.Active r) : Move Q s (s.releaseRun r)
  | start (s : State) (e : WaitingEntry) (r : ActiveRun) (new : TunerRec) (he : e ∈ s.run.waiting) (href : r.ref = e.ref)
      (h : s.Starts r new) :
      Move Q s { s with
        tun := s.tun.set r.tuner new
        run := { s.run with waiting := s.run.waiting.filter fun x => x.ref ≠ e.ref, runs := s.run.runs ++ [r] } }
  | unview (s : State) (T : Tuner) : Move Q s { s with tun := s.tun.set T (s.tun.get T).releaseViewer }
  | view (s : State) (T : Tuner) (joined : Bool) (service m f : Nat) (h : s.chooseView m f = some (T, joined)) :
      Move Q s { s with tun := s.tun.viewed T service m f }
  | unwarn (s : State) : Move Q s s.emptyWarned
  | warn (s : State) (ref : Nat) (h : ∃ e ∈ s.run.waiting, e.ref = ref) : Move Q s (s.addWarned ref)
  | resolve (s : State) (c : Option ConfigRec) (o : Option OpcodesRec) (h : ∀ r, c = some r → r.cfg.tuner.total ≤ 6) :
      Move Q s { s with
        rst := { s.rst with effConfig := c, effOpcodes := o }
        fpx := { s.fpx with classTable := if o = s.rst.effOpcodes then s.fpx.classTable else classTableOf o } }
  | defer (s : State) (d : Option TunerGroup) (h : ∀ g, d = some g → g = s.recordTuner) :
      Move Q s { s with rst := { s.rst with deferred := d } }
  | apply (s : State) (g : TunerGroup) (t : Tun) (hruns : s.run.runs = []) (hg : s.rst.deferred = some g ∨ g = s.recordTuner)
      (ht : (t = s.tun ∧ (g.mode = .single → s.tun.b.viewer = none)) ∨ t = { s.tun with b := s.tun.b.releaseViewer }) :
      Move Q s { s with
        rst := { s.rst with deferred := none, inForce := { s.rst.inForce with tuner := g } }
        tun := t }
  | adopt (s : State) (h : Q → s.run.runs = [] ∧ s.tun.a = TunerRec.idle ∧ s.tun.b = TunerRec.idle) :
      Move Q s { s with rst := { s.rst with inForce := { s.rst.inForce with tuner := s.recordTuner } } }

/-- One sound operation of the part: what shows in the core is a chain of moves. -/
def Link (Q : Prop) (s t : State) : Prop :=
  Sound s t ∧ ∃ u, Relation.ReflTransGen (Move Q) s u ∧ t.core = u.core

/-- A chain of operations. -/
abbrev Moves (Q : Prop) : State → State → Prop := Relation.ReflTransGen (Link Q)

section
variable {Q : Prop} {s t u : State}

theorem Moves.refl (s : State) : Moves Q s s := Relation.ReflTransGen.refl

theorem Moves.trans (h : Moves Q s t) (k : Moves Q t u) : Moves Q s u := Relation.ReflTransGen.trans h k

theorem Moves.ite {a b : State} {c : Prop} [Decidable c] (ha : Moves Q s a) (hb : Moves Q s b) :
    Moves Q s (if c then a else b) := by
  split
  · exact ha
  · exact hb

theorem Moves.foldl {α : Type} {f : State → α → State} (hf : ∀ s a, Moves Q s (f s a)) (xs : List α) (s : State) :
    Moves Q s (xs.foldl f s) := by
  induction xs generalizing s with
  | nil => exact Moves.refl s
  | cons x xs ih => exact (hf s x).trans (ih _)

theorem Move.moves_core (m : Move Q s u) (hs : Sound s t) (hc : t.core = u.core) : Moves Q s t :=
  Relation.ReflTransGen.single ⟨hs, u, Relation.ReflTransGen.single m, hc⟩

theorem Move.moves (m : Move Q s t) (hs : Sound s t) : Moves Q s t := m.moves_core hs rfl

theorem Quiet.moves (h : Quiet s t) : Moves Q s t :=
  Relation.ReflTransGen.single ⟨h.toSound, s, Relation.ReflTransGen.refl, h.core⟩

theorem Moves.quiet (h : Moves Q s t) (k : Quiet t u) : Moves Q s u := h.trans k.moves

theorem Moves.sound (h : Moves Q s t) : Sound s t := by
  induction h with
  | refl => exact Sound.refl s
  | tail _ l ih => exact ih.trans l.1

/-- A law that shows in the core and that every move keeps is kept by every chain. -/
theorem Moves.keeps {P : State → Prop} (hcore : ∀ u, P u ↔ P u.core) (hmove : ∀ u v, Move Q u v → P u → P v)
    (h : Moves Q s t) : P s → P t := by
  intro hs
  induction h with
  | refl => exact hs
  | tail _ l ih =>
    obtain ⟨-, u, hchain, hu⟩ := l
    rw [hcore, hu, ← hcore]
    clear hu
    induction hchain with
    | refl => exact ih
    | tail _ m ih => exact hmove _ _ m ih

end

/-! ### The run table and the waiting list -/

/-- A change of the run table and the waiting list alone. -/
theorem Sound.of_run (s : State) (rs : List ActiveRun) (w : List WaitingEntry) :
    Sound s { s with run := { s.run with runs := rs, waiting := w } } :=
  ⟨fun f => { f with }, fun c => { c with }, fun m => { m with }, id, id, rfl⟩

section
variable {Q : Prop}

theorem State.thin_moves (s : State) {w : List WaitingEntry}
    (h : (w.map WaitingEntry.ref).Sublist (s.run.waiting.map WaitingEntry.ref)) :
    Moves Q s { s with run := { s.run with waiting := w } } :=
  (Move.thin s w h).moves (Sound.of_run s s.run.runs w)

theorem State.dropWaiting_moves (s : State) (ref : Nat) : Moves Q s (s.dropWaiting ref) :=
  s.thin_moves (List.filter_sublist.map _)

theorem State.clearBlocked_moves (s : State) : Moves Q s { s with run := s.run.clearBlocked } :=
  s.thin_moves (by rw [List.map_map]; exact List.Sublist.refl _)

theorem State.releaseRun_moves {s : State} {r : ActiveRun} (h : s.Active r) : Moves Q s (s.releaseRun r) :=
  (Move.release s r h).moves ((State.releaseRun_calm s r).sound id)

/-- A record that keeps ref, tuner and multiplex of a run whose ref is the run's alone replaces that run's only. -/
theorem map_key_replace {rs : List ActiveRun} {r x : ActiveRun} (hn : (rs.map ActiveRun.ref).Nodup) (hx : x ∈ rs)
    (hk : r.key = x.key) : (rs.map fun y => if y.ref = r.ref then r else y).map ActiveRun.key = rs.map ActiveRun.key := by
  rw [List.map_map]
  refine List.map_congr_left fun y hy => ?_
  simp only [Function.comp_apply]
  split
  case isTrue hyr =>
    have hxr : x.ref = r.ref := (congrArg Prod.fst hk).symm
    have hyx : y = x := List.inj_on_of_nodup_map hn hy hx (hyr.trans hxr.symm)
    rw [hk, hyx]
  case isFalse => rfl

theorem State.Active.key {s : State} {r : ActiveRun} (h : s.Active r) : ∃ x ∈ s.run.runs, r.key = x.key := by
  obtain ⟨x, hx, href, htuner, hmultiplex⟩ := h
  exact ⟨x, hx, by rw [ActiveRun.key, ActiveRun.key, href, htuner, hmultiplex]⟩

theorem State.setRun_moves {s : State} {r : ActiveRun} (h : s.Active r) : Moves Q s (s.setRun r) := by
  obtain ⟨x, hx, hk⟩ := h.key
  exact (Move.revise s _ fun hn => map_key_replace hn hx hk).moves ((State.setRun_calm s r).sound id)

/-- After its record is replaced the run is active under that record. -/
theorem State.Active.setRun {s : State} {r : ActiveRun} (h : s.Active r) : (s.setRun r).Active r := by
  obtain ⟨x, hx, href, -⟩ := h
  exact ⟨r, List.mem_map.2 ⟨x, hx, if_pos href⟩, rfl, rfl, rfl⟩

theorem State.active_of_runOf {s : State} {ref : Nat} {r : ActiveRun} (h : s.runOf ref = some r) : s.Active r :=
  ⟨r, List.mem_of_find?_eq_some h, rfl, rfl, rfl⟩

theorem State.mem_of_waitingOf {s : State} {ref : Nat} {e : WaitingEntry} (h : s.waitingOf ref = some e) :
    e ∈ s.run.waiting := List.mem_of_find?_eq_some h

/-! ### Sorted lists -/

theorem insertBy_perm {α : Type} (le : α → α → Bool) (x : α) (xs : List α) : (insertBy le x xs).Perm (x :: xs) := by
  induction xs with
  | nil => exact List.Perm.refl _
  | cons y ys ih =>
    simp only [insertBy]
    split
    · exact List.Perm.refl _
    · exact (ih.cons y).trans (List.Perm.swap x y ys)

theorem sortBy_perm {α : Type} (le : α → α → Bool) (xs : List α) : (sortBy le xs).Perm xs := by
  induction xs with
  | nil => exact List.Perm.refl _
  | cons x xs ih => exact (insertBy_perm le x _).trans (ih.cons x)

/-! ### The arbiter -/

theorem State.viewerHoldChanged_moves (s : State) : Moves Q s s.viewerHoldChanged :=
  s.clearBlocked_moves.quiet (State.reloadRunChannels_quiet _)

theorem State.emptyWarned_moves (s : State) : Moves Q s s.emptyWarned :=
  (Move.unwarn s).moves ((State.emptyWarned_calm s).sound id)

/-- A viewer's hold was made, changed or released: the blocked marks, the warned list and WARN follow. -/
theorem State.holdFollowed_moves (s : State) : Moves Q s s.viewerHoldChanged.emptyWarned.reloadWarn :=
  (s.viewerHoldChanged_moves.trans (State.emptyWarned_moves _)).quiet (State.reloadWarn_quiet _)

/-- A tuner group that has taken effect with no run active, the arbiter's part included (R137). -/
theorem State.applyTunerMode_moves {s u : State} {g : TunerGroup} (hruns : s.run.runs = [])
    (hg : s.rst.deferred = some g ∨ g = s.recordTuner) (hs : Sound s u)
    (hc : u.core = ({ s with rst := { s.rst with deferred := none, inForce := { s.rst.inForce with tuner := g } } } : State).core) :
    Moves Q s u.applyTunerMode := by
  have hmode : u.rst.inForce.tuner = g := congrArg (fun c => c.rst.inForce.tuner) hc
  have htun : u.tun = s.tun := congrArg (fun c => c.tun) hc
  have kept (h : g.mode = .single → s.tun.b.viewer = none) : Moves Q s u :=
    (Move.apply s g s.tun hruns hg (.inl ⟨rfl, h⟩)).moves_core hs hc
  unfold State.applyTunerMode
  split
  case h_1 v hm hv =>
    refine Moves.trans ?_ (State.holdFollowed_moves _)
    refine Moves.quiet ?_ (State.postNow_quiet _ _ _ _ _ _)
    refine (Move.apply s g _ hruns hg (.inr rfl)).moves_core (hs.trans ?_) ?_
    · have hb := (State.disableChannel_calm u (.start .B)).trans (State.disableChannel_calm _ (.stop .B))
      exact (hb.trans (Calm.of_tun _ _)).sound id
    · have hcore := congrArg (fun c : State => { c with tun := { u.tun with b := u.tun.b.releaseViewer } }) hc
      rw [← htun]
      exact hcore
  case h_2 hm hv =>
    have hb := (State.disableChannel_quiet u (.start .B)).trans (State.disableChannel_quiet _ (.stop .B))
    exact (kept fun _ => htun ▸ hv).quiet (hb.trans (State.reloadWarn_quiet _))
  case h_3 hne hne' =>
    refine (kept fun hsingle => ?_).quiet (State.reloadWarn_quiet _)
    rw [← hmode] at hsingle
    exact absurd hsingle (fun hsingle => by
      cases hv : u.tun.b.viewer with
      | none => exact hne' hsingle hv
      | some v => exact hne v hsingle hv)

end

/-! ### The run engine, for any trigger that makes moves -/

section Engine

variable {Q : Prop} {trig : Trigger} (ht : ∀ s, Moves Q s (trig s))

theorem Quiet.recordTuner {s t : State} (h : Quiet s t) : t.recordTuner = s.recordTuner := by
  have := congrArg (fun c => c.rst.effConfig) h.core
  unfold State.recordTuner
  change (match t.core.rst.effConfig with | some r => r.cfg.tuner | none => defaultTunerGroup) = _
  rw [h.core]
  rfl

include ht

theorem State.applyDeferred_moves {s : State} (hruns : s.run.runs = []) : Moves Q s (s.applyDeferred trig) := by
  unfold State.applyDeferred
  split
  · exact Moves.refl s
  · rename_i g hg
    simp only
    refine Moves.trans ?_ (ht _)
    have hq := State.postNow_quiet
      { s with rst := { s.rst with deferred := none, inForce := { s.rst.inForce with tuner := g } } } .configApplied none 2
    have hs : Sound s { s with rst := { s.rst with deferred := none, inForce := { s.rst.inForce with tuner := g } } } :=
      ⟨fun f => { f with }, fun c => { c with }, fun m => { m with }, id, id, rfl⟩
    exact State.applyTunerMode_moves hruns (.inl hg) (hs.trans (hq _ _).toSound) (hq _ _).core

theorem State.endRun_moves {s : State} {r : ActiveRun} (h : s.Active r) (o : RunOutcome) (stop : Nat) :
    Moves Q s (s.endRun trig r o stop) := by
  unfold State.endRun
  simp only
  refine Moves.trans (Moves.quiet ?_ (State.reloadRunChannels_quiet _)) (ht _)
  have hend := (((State.releaseRun_moves (Q := Q) h).quiet
    (((State.addHistory_quiet _ ⟨r.ref, o, some stop, r.windowEnd⟩).trans (State.markEnd_quiet _ r o)).trans
      (State.post_quiet _ ⟨.stop, some r.tuner, o.detail, stop, r.ref, (r.actualStart : Nat)⟩)))).trans
    (State.clearBlocked_moves _)
  split
  case isTrue he => exact hend.trans (State.applyDeferred_moves ht (List.isEmpty_iff.1 he))
  case isFalse => exact hend

theorem State.endWaiting_moves (e : WaitingEntry) (reason : MissReason) (at_ : Nat) (s : State) :
    Moves Q s (s.endWaiting trig e reason at_) := by
  unfold State.endWaiting
  simp only
  refine Moves.trans (Moves.quiet ?_ ((State.post_quiet _ _).trans (State.reloadRunChannels_quiet _))) (ht _)
  exact ((s.dropWaiting_moves e.ref).quiet (State.addHistory_quiet _ ⟨e.ref, .missed reason, some at_, e.wend⟩)).trans
    (Moves.ite (State.manualEnd_quiet _ _ _ _).moves (Moves.refl _))

theorem State.recomputeEnd_moves {s : State} {r : ActiveRun} (h : s.Active r) : Moves Q s (s.recomputeEnd trig r) := by
  unfold State.recomputeEnd
  split
  · exact Moves.refl s
  · exact Moves.ite (State.endRun_moves ht h _ _) (State.setRun_moves (r := { r with windowEnd := _ }) h)

theorem State.followRecord_moves {s : State} {r : ActiveRun} (h : s.Active r) (sv st : Nat) :
    Moves Q s (s.followRecord trig r sv st) :=
  Moves.ite (State.endRun_moves ht h _ _) (State.recomputeEnd_moves ht h)

theorem State.runBookingChange_moves {s : State} {r : ActiveRun} (h : s.Active r) (c : Change) (b : Option BookingRec) :
    Moves Q s (s.runBookingChange trig r c b) := by
  have follow (b : BookingRec) : Moves Q s ((s.setRun { r with kind := .manual b.revision }).followRecord trig
      { r with kind := .manual b.revision } b.service b.start) := by
    have hactive : s.Active { r with kind := .manual b.revision } := h
    exact (State.setRun_moves hactive).trans (State.followRecord_moves ht hactive.setRun _ _)
  unfold State.runBookingChange
  split
  · exact State.endRun_moves ht h _ _
  · exact follow _
  · exact follow _
  · exact Moves.refl s

theorem State.runEventChange_moves {s : State} {r : ActiveRun} (h : s.Active r) (c : Change) (e : Option Event) :
    Moves Q s (s.runEventChange trig r c e) := by
  unfold State.runEventChange
  split
  · exact State.followRecord_moves ht h _ _
  · exact State.followRecord_moves ht h _ _
  · exact Moves.refl s

omit ht in
theorem State.waitingChange_moves (s : State) (ref : Nat) : Moves Q s (s.waitingChange ref) := by
  unfold State.waitingChange
  split
  · exact (s.dropWaiting_moves ref).quiet ((State.holdBack_quiet _ _).trans (State.reloadRunChannels_quiet _))
  · exact Moves.refl s

theorem State.bookingChange_moves (id : Nat) (c : Change) (b : Option BookingRec) (s : State) :
    Moves Q s (s.bookingChange trig id c b) := by
  have engine (u : State) : Moves Q u (match u.runOf id with
      | some r => (u.runBookingChange trig r c b).reloadRunChannels
      | none => u) := by
    split
    · rename_i r hr
      exact (State.runBookingChange_moves ht (State.active_of_runOf hr) c b).quiet (State.reloadRunChannels_quiet _)
    · exact Moves.refl u
  unfold State.bookingChange
  cases b with
  | some b => exact ((State.clearEndState_quiet s b).moves.trans (engine _)).trans (State.waitingChange_moves _ _)
  | none => exact (engine s).trans (State.waitingChange_moves _ _)

theorem State.eventChange_moves (id : Nat) (c : Change) (e : Option Event) (s : State) :
    Moves Q s (s.eventChange trig id c e) := by
  unfold State.eventChange
  simp only
  refine Moves.trans ?_ (State.waitingChange_moves _ _)
  split
  · rename_i r hr
    exact (State.runEventChange_moves ht (State.active_of_runOf hr) c e).quiet (State.reloadRunChannels_quiet _)
  · exact Moves.refl s

theorem State.reportEvents_moves (request : Bool) (before : List MatchedEntry) (s : State) :
    Moves Q s (s.reportEvents trig request before) := by
  have h := Moves.foldl (fun s (p : Nat × Change × Option Event) => State.eventChange_moves ht p.1 p.2.1 p.2.2 s)
    (eventChanges before s.gmx.entries) s
  exact Moves.ite (h.trans (ht _)) h

theorem State.refuseStart_moves (e : WaitingEntry) (cause : Cause) (s : State) :
    Moves Q s (s.refuseStart trig e cause) := by
  refine Moves.trans (s.thin_moves ?_) (ht _)
  rw [List.map_map]
  refine (List.map_congr_left fun x _ => ?_ : _ = s.run.waiting.map WaitingEntry.ref) ▸ List.Sublist.refl _
  simp only [Function.comp_apply]
  split <;> rfl

omit ht in
theorem State.post_sticky (s : State) (n : Notice) (h : s.StickyLaw) : (s.post n).emptyWarned.StickyLaw :=
  (State.post_quiet s n).sticky h

omit ht in
/-- A granted or evicting request leaves the run table and the waiting list; of the core it writes the tuner's record, and an
eviction empties the warned list (R128 to R130). -/
theorem State.requestStream_core (s : State) (T : Tuner) (ref m fd f : Nat) :
    ((s.requestStream T ref m fd f).1 = .granted ∧ judgeRequest s.rst.inForce.tuner s.tun T m fd = .granted
        ∧ (s.requestStream T ref m fd f).2 = { s with tun := s.tun.set T ((s.tun.get T).grant m fd) })
    ∨ ((s.requestStream T ref m fd f).1 = .evicts ∧ judgeRequest s.rst.inForce.tuner s.tun T m fd = .evicts
        ∧ (s.requestStream T ref m fd f).2.run = s.run
        ∧ (s.requestStream T ref m fd f).2.core
          = (State.emptyWarned { s with tun := s.tun.set T ((s.tun.get T).evict m fd) }).core)
    ∨ (∃ c, (s.requestStream T ref m fd f).1 = .refused c ∧ (s.requestStream T ref m fd f).2 = s) := by
  unfold State.requestStream
  simp only
  cases hj : judgeRequest s.rst.inForce.tuner s.tun T m fd with
  | granted => exact .inl ⟨rfl, rfl, rfl⟩
  | evicts =>
    refine .inr (.inl ⟨rfl, rfl, by simp, (State.reloadWarn_quiet _).core.trans ?_⟩)
    have hpost := (State.post_quiet { s with tun := s.tun.set T ((s.tun.get T).evict m fd) }
      ⟨.viewLost, some T, 1, f, ref, ((s.tun.get T).viewer.getD 0 : Nat)⟩).core
    exact congrArg (fun c : State => { c with tun := { c.tun with warned := [] } }) hpost
  | refused c => exact .inr (.inr ⟨c, rfl, rfl⟩)

/-- A granted or evicting request and the run it starts are one operation; its notices follow. -/
theorem State.startGranted_moves {s : State} {e : WaitingEntry} (he : e ∈ s.run.waiting) (sv : ServiceRec) (f : Nat)
    (h : ∀ c, (s.requestStream e.tuner e.ref sv.multiplex sv.feed f).1 ≠ .refused c) :
    Moves Q s ((s.requestStream e.tuner e.ref sv.multiplex sv.feed f).2.enterRun trig e sv f) := by
  have hsound : Sound s (s.requestStream e.tuner e.ref sv.multiplex sv.feed f).2 := by
    refine (State.requestStream_calm s e.tuner e.ref sv.multiplex sv.feed f).sound ?_
    unfold State.requestStream
    simp only
    split
    · exact id
    · exact fun hs => (State.reloadWarn_quiet _).sticky (State.post_sticky { s with tun := _ } _ hs)
    · exact id
  have hcases := s.requestStream_core e.tuner e.ref sv.multiplex sv.feed f
  generalize s.requestStream e.tuner e.ref sv.multiplex sv.feed f = p at *
  unfold State.enterRun
  simp only
  refine Moves.trans (Moves.quiet ?_ (State.post_quiet _ _)) (ht _)
  have hadd := hsound.trans (Sound.of_run p.2 (p.2.run.runs ++ [p.2.newRun e sv f])
    (p.2.run.waiting.filter fun x => x.ref ≠ e.ref))
  rcases hcases with ⟨-, hj, hp⟩ | ⟨-, hj, hrun, hcore⟩ | ⟨c, hc, -⟩
  · refine (Move.start s e (p.2.newRun e sv f) _ he rfl (.inl ⟨hj, rfl⟩)).moves_core hadd ?_
    rw [State.dropWaiting, hp]
    rfl
  · refine Relation.ReflTransGen.single ⟨hadd, _, (Relation.ReflTransGen.single
      (Move.start s e (p.2.newRun e sv f) _ he rfl (.inr ⟨hj, rfl⟩))).tail (Move.unwarn _), ?_⟩
    rw [State.dropWaiting, hrun]
    exact congrArg (fun c : State => { c with run := { c.run with
      waiting := s.run.waiting.filter fun x => x.ref ≠ e.ref, runs := s.run.runs ++ [p.2.newRun e sv f] } }) hcore
  · exact absurd hc (h c)

theorem State.startEntry_moves {s : State} {e : WaitingEntry} (he : e ∈ s.run.waiting) (f : Nat) :
    Moves Q s (s.startEntry trig f e) := by
  unfold State.startEntry
  refine Moves.ite (Moves.ite (State.endWaiting_moves ht _ _ _ _) (Moves.refl s)) ?_
  split
  · exact State.refuseStart_moves ht _ _ _
  · rename_i sv _
    have hgranted := State.startGranted_moves ht he sv f
    have hcases := s.requestStream_core e.tuner e.ref sv.multiplex sv.feed f
    generalize s.requestStream e.tuner e.ref sv.multiplex sv.feed f = p at *
    obtain ⟨answer, s1⟩ := p
    cases answer with
    | granted => exact hgranted fun c => nofun
    | evicts => exact hgranted fun c => nofun
    | refused c =>
      rcases hcases with ⟨h, -⟩ | ⟨h, -⟩ | ⟨_, -, rfl⟩
      · cases h
      · cases h
      · exact State.refuseStart_moves ht _ _ _

theorem State.startDue_moves (T : Tuner) (f : Nat) (s : State) : Moves Q s (s.startDue trig T f) := by
  refine Moves.quiet (Moves.foldl (fun s e => ?_) _ _) (State.reloadRunChannels_quiet _)
  unfold State.startIfWaiting
  split
  · rename_i e he
    exact Moves.ite (State.startEntry_moves ht (State.mem_of_waitingOf he) _) (Moves.refl _)
  · exact Moves.refl _

theorem State.endIfActive_moves (ref : Nat) (o : ActiveRun → RunOutcome) (stop : Nat) (s : State) :
    Moves Q s (s.endIfActive trig ref o stop) := by
  unfold State.endIfActive
  split
  · exact State.endRun_moves ht (State.active_of_runOf ‹_›) _ _
  · exact Moves.refl _

theorem State.endIfWaiting_moves (ref : Nat) (reason : MissReason) (f : Nat) (s : State) :
    Moves Q s (s.endIfWaiting trig ref reason f) := by
  unfold State.endIfWaiting
  split
  · exact Moves.ite (State.endWaiting_moves ht _ _ _ _) (Moves.refl _)
  · exact Moves.refl _

theorem State.stopDue_moves (T : Tuner) (f : Nat) (s : State) : Moves Q s (s.stopDue trig T f) :=
  ((Moves.foldl (fun s _ => State.endIfActive_moves ht _ _ _ s) _ _).trans
    (Moves.foldl (fun s _ => State.endIfWaiting_moves ht _ _ _ s) _ _)).quiet (State.reloadRunChannels_quiet _)

theorem State.confirmDue_moves (f : Nat) (s : State) : Moves Q s (s.confirmDue trig f) :=
  (Moves.foldl (fun s _ => State.endIfActive_moves ht _ _ _ s) _ _).quiet (State.reloadRunChannels_quiet _)

omit ht in
/-- The list rebuilt from a plan holds no active run's ref, and no more entries than the plan (R110). -/
theorem State.rebuildWaiting_moves (s : State) : Moves Q s s.rebuildWaiting := by
  refine (Move.rebuild s _ ?_ ?_).moves (Sound.of_run s s.run.runs _)
  · exact (List.length_filterMap_le _ _).trans (List.length_filter_le _ _)
  · intro e he r hr href
    obtain ⟨p, hp, hpe⟩ := List.mem_filterMap.1 he
    have hwaits := (List.mem_filter.1 hp).2
    split at hpe
    · cases hpe
    · cases hpe
      simp only [State.waits, Bool.and_eq_true, Bool.not_eq_true', List.any_eq_false, decide_eq_true_eq] at hwaits
      exact hwaits.1.1.1.1.2 r hr href.symm

theorem State.reconcile_moves (s : State) : Moves Q s (s.reconcile trig) := by
  refine Moves.quiet (Moves.trans (Moves.foldl (fun s r => ?_) _ _) (State.rebuildWaiting_moves _))
    (State.reloadRunChannels_quiet _)
  unfold State.recomputeIfActive
  split
  · exact State.recomputeEnd_moves ht (State.active_of_runOf ‹_›)
  · exact Moves.refl _

/-! ### The guide matcher's reports -/

theorem State.guideProgram_moves (addr : Nat) (data : List Byte) (s : State) : Moves Q s (s.guideProgram trig addr data) :=
  Moves.ite (Moves.refl s)
    ((Quiet.foldl (fun s off => State.programSlot_quiet s _ _ off) _ _).moves.trans (State.reportEvents_moves ht _ _ _))

theorem State.guideErase_moves (lo len : Nat) (s : State) : Moves Q s (s.guideErase trig lo len) :=
  (State.setEntries_quiet fun h => (length_pruneDisplacing _).trans ((List.length_filter_le _ _).trans h)).moves.trans
    (State.reportEvents_moves ht _ _ _)

theorem State.guideRetest_moves (s : State) : Moves Q s (s.guideRetest trig) := by
  unfold State.guideRetest
  exact (State.setEntries_quiet fun h =>
    (length_pruneDisplacing _).trans ((List.length_filter_le _ _).trans (by simpa using h))).moves.trans
    (State.reportEvents_moves ht _ _ _)

theorem State.guidePurge_moves (s : State) : Moves Q s (s.guidePurge trig) := by
  unfold State.guidePurge
  exact (State.setEntries_quiet fun h => (length_pruneDisplacing _).trans ((List.length_filter_le _ _).trans h)).moves.trans
    (State.reportEvents_moves ht _ _ _)

theorem State.guideVerify_moves (sector : Nat) (data : List Byte) (s : State) :
    Moves Q s (s.guideVerify trig sector data) := by
  unfold State.guideVerify
  simp only
  refine Moves.trans ?_ (State.reportEvents_moves ht _ _ _)
  have htaken := ((State.setEntries_quiet (s := s) (es := s.gmx.entries.filter fun e => sectorOf e.slot ≠ sector)
      fun h => (List.length_filter_le _ _).trans h).trans
      (State.takeSector_quiet _ .verify (sectorEvents sector data))).trans
      (State.setEntries_quiet fun h => (length_pruneDisplacing _).trans h)
  refine Quiet.moves (Quiet.trans (htaken.trans ?_) (Quiet.of_rst rfl rfl rfl rfl rfl))
  exact Quiet.ite (State.postNow_quiet _ _ _ _ _ _) (Quiet.refl _)

theorem State.guideScan_moves (sector : Nat) (data : List Byte) (s : State) : Moves Q s (s.guideScan trig sector data) :=
  ((State.takeSector_quiet s .scan _).moves.trans (State.reportEvents_moves ht _ _ _)).quiet (Quiet.of_scan _ _)

end Engine

/-! ### The replan trigger -/

section
variable {Q : Prop}

theorem State.markStale_moves (s : State) : Moves Q s s.markStale := (State.markStale_quiet s).moves

theorem State.length_takeSnapshot_pinned (s : State) : s.takeSnapshot.pinned.length = s.run.runs.length := by
  simp [State.takeSnapshot]

theorem State.startReplan_moves (s : State) : Moves Q s s.startReplan := by
  have hstart : Quiet s { s with pln := { s.pln with stale := false } } :=
    ⟨⟨fun f => { f with }, fun c => { c with }, fun m => { m with }, id, id, rfl⟩, rfl⟩
  have hpurged := (hstart.moves.trans (State.guidePurge_moves (Q := Q) State.markStale_moves _)).quiet
    ((State.historyPurge_quiet _).trans (State.removeUntagged_quiet _))
  refine hpurged.trans ?_
  exact (Move.replan _ _ (State.length_takeSnapshot_pinned _)).moves_core
    ⟨fun f => { f with }, fun c => { c with }, fun m => { m with }, id, id, rfl⟩ rfl

theorem State.trigger_moves (s : State) : Moves Q s s.trigger :=
  Moves.ite (State.markStale_moves s) (Moves.ite (State.startReplan_moves s) (Moves.refl s))

/-! ### The viewer and the warnings -/

theorem State.grantView_moves {s : State} {T : Tuner} {joined : Bool} {m f : Nat} (h : s.chooseView m f = some (T, joined))
    (service : Nat) : Moves Q s (s.grantView T joined service m f) := by
  have hview : Moves Q s { s with tun := s.tun.viewed T service m f } :=
    (Move.view s T joined service m f h).moves ((Calm.of_tun s _).sound id)
  have hgranted := hview.quiet (State.postNow_quiet _ .viewGranted (some T) (if joined then 1 else 2) service (m : Nat))
  have hchanged := hgranted.trans (State.holdFollowed_moves _)
  exact Moves.ite ((Moves.ite hchanged hgranted).trans (State.trigger_moves _)) (Moves.ite hchanged hgranted)

theorem State.doView_moves (s : State) (service : Nat) : Moves Q s (s.doView service) := by
  unfold State.doView
  split
  · exact (State.postNow_quiet _ _ _ _ _ _).moves
  · split
    · exact State.grantView_moves ‹_› _
    · exact (State.postNow_quiet _ _ _ _ _ _).moves

theorem State.doViewEnd_moves (s : State) : Moves Q s s.doViewEnd := by
  unfold State.doViewEnd
  split
  · exact Moves.refl s
  · rename_i T _
    exact (((Move.unview s T).moves ((Calm.of_tun s _).sound id)).trans (State.holdFollowed_moves _)).trans
      (State.trigger_moves _)

theorem State.addWarned_moves {s : State} {ref : Nat} (h : ∃ e ∈ s.run.waiting, e.ref = ref) : Moves Q s (s.addWarned ref) :=
  (Move.warn s ref h).moves ((State.addWarned_calm s ref).sound id)

/-- The due entries of WARN all wait, and no warning changes the waiting list. -/
theorem State.warnDue_moves (f : Nat) (s : State) : Moves Q s (s.warnDue f) := by
  have fold (es : List WaitingEntry) (u : State) (h : ∀ e ∈ es, e ∈ u.run.waiting) :
      Moves Q u (es.foldl (fun s e => match s.threat e with
        | some t => (s.post ⟨.handoverWarning, s.tun.viewerTuner, t.detail, f, e.ref, (e.wstart : Nat)⟩).addWarned e.ref
        | none => s) u) := by
    induction es generalizing u with
    | nil => exact Moves.refl u
    | cons e es ih =>
      have he := h e List.mem_cons_self
      have hes := fun x hx => h x (List.mem_cons_of_mem e hx)
      rw [List.foldl_cons]
      cases u.threat e with
      | none => exact ih u hes
      | some t =>
        refine ((State.post_quiet u _).moves.trans (State.addWarned_moves ⟨e, ?_, rfl⟩)).trans (ih _ ?_)
        · rwa [State.post_run]
        · simpa using hes
  refine (fold _ s fun e he => ?_).quiet (State.reloadWarn_quiet _)
  have hdue := (sortBy_perm _ _).mem_iff.1 he
  exact (List.mem_filter.1 (List.mem_filter.1 hdue).1).1

end

end Sys2Proof.Machine

/-! PROOFS. The chains of moves of the record store, the flash path, the window commands, the scan engine and the power controller,
and so of every row and every step. -/

namespace Sys2Proof.Machine

/-! ### Quiet updates of single blocks -/

/-- The board, the path but for its class table, the power controller, the ports and the free values. -/
theorem Quiet.of_outer {s : State} {pins : Pins} {fpx : Fpx} {pwc : Pwc} {ports : Ports} {freeCount : Nat}
    (h : fpx.classTable = s.fpx.classTable) :
    Quiet s { s with
      pins := pins, fpx := fpx, pwc := pwc, ports := ports, freeCount := freeCount } :=
  ⟨⟨fun f => { f with }, fun c => { c with }, fun m => { m with }, id, id, rfl⟩,
    congrArg (fun t => { s.core with fpx := { Fpx.afterReset with classTable := t } }) h⟩

theorem Quiet.of_clk {s : State} {k : Clk} (h : s.ClockInRange → k.counter ≤ 0xFFFFFFFF ∧ -255 ≤ k.trim ∧ k.trim ≤ 255) :
    Quiet s { s with clk := k } :=
  ⟨⟨fun f => { f with }, fun c => ⟨(h c).1, (h c).2.1, (h c).2.2⟩, fun m => { m with }, id, id, rfl⟩, rfl⟩

theorem Quiet.of_rep {s : State} {r : Rep} (hn : r.notices.length ≤ s.rep.notices.length)
    (hs : s.StickyLaw → r.sticky &&& ~~~0x0D9E = 0) : Quiet s { s with rep := r } :=
  ⟨⟨fun f => { f with notices := hn.trans f.notices }, fun c => { c with }, fun m => { m with }, hs, id, rfl⟩, rfl⟩

theorem Quiet.of_mirrors {s : State} {a m : Memory} {v : List Nat} (ha : s.rst.anchor.wf = true → a.wf = true)
    (hm : s.rst.schedule.wf = true → m.wf = true) :
    Quiet s { s with rst := { s.rst with anchor := a, schedule := m, verify := v } } :=
  ⟨⟨fun f => { f with }, fun c => { c with }, fun x => ⟨ha x.anchor, hm x.schedule⟩, id, id, rfl⟩, rfl⟩

/-! ### The record store -/

theorem clampTo_le {lo hi : Nat} (v : Nat) (h : lo ≤ hi) : clampTo lo hi v ≤ hi := by
  unfold clampTo
  omega

theorem parseConfig_total {fs : FlashSize} {f : Nat → Byte} {slot : Nat} {r : ConfigRec} (h : parseConfig fs f slot = some r) :
    r.cfg.tuner.total ≤ 6 := by
  unfold parseConfig at h
  simp only at h
  split at h
  · cases h
  · split at h
    · cases h
      exact clampTo_le _ (by decide)
    · cases h

/-- The effective CONFIG is a valid one: its fields are clamped (R12, R15). -/
theorem State.resolveConfig_total {s : State} {r : ConfigRec} (h : s.resolveConfig = some r) : r.cfg.tuner.total ≤ 6 := by
  have hmem := (List.mem_filter.1 (List.mem_of_head? h)).1
  obtain ⟨p, hp, hpr⟩ := List.mem_filterMap.1 hmem
  obtain ⟨c, -, hc⟩ := List.mem_filterMap.1 hp
  split at hc
  · cases hc
    simp only at hpr
    split at hpr
    · rename_i hslot
      cases hpr
      unfold anchorSlot at hslot
      split at hslot
      · split at hslot
        · cases hslot
          exact parseConfig_total ‹_›
        · cases hslot
      · split at hslot <;> cases hslot
      · cases hslot
    · cases hpr
  · cases hc
    cases hpr
  · cases hc

/-- The record's tuner group is not the one in force (R22). -/
def State.tunerDiffers (s : State) : Bool := decide (s.recordTuner ≠ s.rst.inForce.tuner)

section
variable {Q : Prop}

theorem State.resolveAnchor_moves (s : State) : Moves Q s s.resolveAnchor := by
  have hs : s.StickyLaw → s.resolveAnchor.StickyLaw := by
    unfold State.resolveAnchor
    simp only
    split
    · exact id
    · split <;> exact id
  have hsound := (State.resolveAnchor_rework s).sound hs
  unfold State.resolveAnchor at hsound ⊢
  simp only at hsound ⊢
  split
  · exact Moves.refl s
  · rename_i hd
    rw [if_neg hd] at hsound
    refine (Move.resolve s s.resolveConfig s.resolveOpcodes fun r => State.resolveConfig_total).moves_core hsound ?_
    by_cases h : s.resolveOpcodes = s.rst.effOpcodes
    · simp only [if_pos h]
    · simp only [if_neg h]

/-- A changed CONFIG is deferred or kept out, or, with no run active, its tuner group takes effect (R22, R23). -/
theorem State.changeConfig_cases (s : State) :
    (s.changeConfig.2.tunerApplied = false ∧ Moves Q s s.changeConfig.1)
    ∨ (s.changeConfig.2.tunerApplied = true ∧ s.run.runs = [] ∧ Sound s s.changeConfig.1
      ∧ s.changeConfig.1.core = ({ s with rst := { s.rst with
          deferred := none, inForce := { s.rst.inForce with tuner := s.recordTuner } } } : State).core) := by
  have hsticky : s.StickyLaw → s.changeConfig.1.StickyLaw := by
    unfold State.changeConfig
    simp only
    split
    · exact State.raise_sticky (by decide)
    · exact id
  have hsound := (State.changeConfig_rework s).sound hsticky
  have hcore : s.changeConfig.1.core = ({ s with
      rst := { s.rst with
        deferred := if s.tunerDiffers && !s.run.runs.isEmpty then some s.recordTuner else none
        inForce := { s.rst.inForce with
          tuner := if s.tunerDiffers && !!s.run.runs.isEmpty then s.recordTuner else s.rst.inForce.tuner } } } : State).core := by
    rw [State.tunerDiffers, ← State.recordCfg_tuner]
    unfold State.changeConfig
    simp only
    split <;> rfl
  have happlied : s.changeConfig.2.tunerApplied = (s.tunerDiffers && !!s.run.runs.isEmpty) := by
    rw [State.tunerDiffers, ← State.recordCfg_tuner]
    rfl
  by_cases ha : (s.tunerDiffers && !!s.run.runs.isEmpty) = true
  · have hruns : s.run.runs.isEmpty = true := by simpa using (Bool.and_eq_true_iff.1 ha).2
    refine .inr ⟨happlied.trans ha, List.isEmpty_iff.1 hruns, hsound, ?_⟩
    rw [hcore, if_pos ha, hruns]
    simp
  · refine .inl ⟨happlied.trans (Bool.eq_false_iff.2 ha), ?_⟩
    rw [if_neg ha] at hcore
    refine (Move.defer s _ ?_).moves_core hsound hcore
    intro g hg
    split at hg
    · cases hg
      rfl
    · cases hg

section RecordStore

variable {trig : Trigger} (ht : ∀ s, Moves Q s (trig s))
include ht

theorem State.handOff_moves (before : Records) (s : State) : Moves Q s (s.handOff trig before) := by
  unfold State.handOff
  simp only
  refine Moves.quiet ?_ (Quiet.foldl (fun s m => State.markEntered_quiet s m) _ _)
  have h1 := fun c [Decidable c] => Moves.ite (c := c) (State.guideRetest_moves ht s) (Moves.refl s)
  have h2 := fun c [Decidable c] (xs : List (Nat × Change × Option BookingRec)) => (h1 c).trans
    (Moves.foldl (fun s (p : Nat × Change × Option BookingRec) => State.bookingChange_moves ht p.1 p.2.1 p.2.2 s) xs _)
  refine Moves.ite (Moves.quiet ?_ (State.reloadWarn_quiet _)) ?_
  all_goals exact Moves.ite ((h2 _ _).quiet (State.raiseScan_quiet _)) (h2 _ _)

/-- The work of R4 after a quiet write: the tables, the anchor's records, the configuration and the hand-offs. -/
theorem State.storeUpdate_moves (s : State) : Moves Q s (s.storeUpdate trig) := by
  have hresolved : Moves Q s s.recomputeTables.resolveAnchor :=
    (State.recomputeTables_quiet s).moves.trans (State.resolveAnchor_moves _)
  have hconfig : ∀ p : State × ConfigOutcome,
      p = (if decide (s.recomputeTables.resolveAnchor.rst.effConfig ≠ s.rst.effConfig) = true then
        s.recomputeTables.resolveAnchor.changeConfig else (s.recomputeTables.resolveAnchor, ⟨false, false, false⟩)) →
      (p.2.tunerApplied = false ∧ Moves Q s p.1)
      ∨ (p.2.tunerApplied = true ∧ ∀ u, Quiet p.1 u → Moves Q s u.applyTunerMode) := by
    rintro p rfl
    split
    · rcases State.changeConfig_cases (Q := Q) s.recomputeTables.resolveAnchor with ⟨ha, hm⟩ | ⟨ha, hruns, hsound, hcore⟩
      · exact .inl ⟨ha, hresolved.trans hm⟩
      · exact .inr ⟨ha, fun u hu => hresolved.trans (State.applyTunerMode_moves hruns (.inr rfl)
          (hsound.trans hu.toSound) (hu.core.trans hcore))⟩
    · exact .inl ⟨rfl, hresolved⟩
  unfold State.storeUpdate
  simp only
  generalize hp : (if decide (s.recomputeTables.resolveAnchor.rst.effConfig ≠ s.rst.effConfig) = true then
      s.recomputeTables.resolveAnchor.changeConfig else (s.recomputeTables.resolveAnchor, ⟨false, false, false⟩)) = p
  have hq := (((State.reportDamaged_quiet p.1).trans (State.reportRejected_quiet _)).trans
    (State.reportLeftOut_quiet s.rst.leftOut _)).trans (State.postConfig_quiet _ p.2)
  have happlied : Moves Q s (if p.2.tunerApplied = true then
      (((p.1.reportDamaged.reportRejected).reportLeftOut s.rst.leftOut).postConfig p.2).applyTunerMode
      else ((p.1.reportDamaged.reportRejected).reportLeftOut s.rst.leftOut).postConfig p.2) := by
    rcases hconfig p hp.symm with ⟨ha, hm⟩ | ⟨ha, hm⟩
    · rw [if_neg (by rw [ha]; decide)]
      exact hm.quiet hq
    · rw [if_pos ha]
      exact hm _ hq
  have hhanded := happlied.trans (State.handOff_moves ht s.rst.tables _)
  exact Moves.ite (hhanded.trans (ht _)) hhanded

theorem State.joinVerify_moves (sectors : List Nat) (s : State) : Moves Q s (s.joinVerify trig sectors) := by
  have hjoin : Quiet s { s with rst := { s.rst with verify := natSet (sectors ++ s.rst.verify) } } :=
    Quiet.of_rst rfl rfl rfl rfl rfl
  exact ((hjoin.moves.trans (State.storeUpdate_moves ht _)).quiet (State.setEntries_quiet fun h => by simpa using h)).trans
    (State.reportEvents_moves ht _ _ _)

end RecordStore

theorem State.joinSectors_moves (s : State) (sectors : List Nat) : Moves Q s (s.joinSectors sectors) :=
  Moves.ite (Moves.refl s) (State.joinVerify_moves State.trigger_moves _ _)

theorem State.mirrorProgram_quiet (s : State) (addr : Nat) (data : List Byte) : Quiet s (s.mirrorProgram addr data) := by
  unfold State.mirrorProgram
  simp only
  split
  · exact Quiet.of_mirrors (fun h => Memory.wf_program h _ _) id
  · split
    · split
      · exact Quiet.of_mirrors id (fun h => Memory.wf_program h _ _)
      · exact Quiet.refl s
    · exact Quiet.refl s

theorem State.mirrorErase_quiet (s : State) (lo len : Nat) : Quiet s (s.mirrorErase lo len) := by
  unfold State.mirrorErase
  simp only
  split
  · exact Quiet.of_mirrors (fun h => Memory.wf_erase h _ _) (fun h => Memory.wf_erase h _ _)
  · exact Quiet.of_mirrors (fun h => Memory.wf_erase h _ _) id

theorem State.replaceSector_quiet (s : State) (sector : Nat) (data : List Byte) : Quiet s (s.replaceSector sector data) := by
  unfold State.replaceSector
  simp only
  split
  · exact Quiet.of_mirrors (fun h => Memory.wf_replace h _ _) id
  · split
    · exact Quiet.of_mirrors id (fun h => Memory.wf_replace h _ _)
    · exact Quiet.of_rst rfl rfl rfl rfl rfl

theorem State.resolveAnchor_run (s : State) : s.resolveAnchor.run = s.run := by
  unfold State.resolveAnchor
  simp only
  split
  · rfl
  · split <;> rfl

theorem State.resolveAnchor_tun (s : State) : s.resolveAnchor.tun = s.tun := by
  unfold State.resolveAnchor
  simp only
  split
  · rfl
  · split <;> rfl

/-- The adoption, with the tuners at rest where the law of start-up says so (R21). -/
theorem State.adopt_moves {s : State} (h : Q → s.run.runs = [] ∧ s.tun.a = TunerRec.idle ∧ s.tun.b = TunerRec.idle) :
    Moves Q s s.adopt := by
  have hrest : Q → s.resolveAnchor.run.runs = [] ∧ s.resolveAnchor.tun.a = TunerRec.idle
      ∧ s.resolveAnchor.tun.b = TunerRec.idle := by
    rwa [State.resolveAnchor_run, State.resolveAnchor_tun]
  refine (State.resolveAnchor_moves s).trans ((Move.adopt s.resolveAnchor hrest).moves_core
    ⟨fun f => { f with }, fun c => { c with }, fun m => { m with }, id, fun _ => rfl, rfl⟩ ?_)
  rw [← State.recordCfg_tuner]
  rfl

theorem State.replaceSector_run (s : State) (sector : Nat) (data : List Byte) : (s.replaceSector sector data).run = s.run := by
  unfold State.replaceSector
  simp only
  split
  · rfl
  · split <;> rfl

theorem State.replaceSector_tun (s : State) (sector : Nat) (data : List Byte) : (s.replaceSector sector data).tun = s.tun := by
  unfold State.replaceSector
  simp only
  split
  · rfl
  · split <;> rfl

theorem State.mirrorVerify_moves {trig : Trigger} (ht : ∀ s, Moves Q s (trig s)) {s : State}
    (h : Q → s.rst.adopted = false → s.run.runs = [] ∧ s.tun.a = TunerRec.idle ∧ s.tun.b = TunerRec.idle) (sector : Nat)
    (data : List Byte) : Moves Q s (s.mirrorVerify trig sector data) := by
  have hcorrected : Quiet s (if (s.replaceSector sector data).rst.anchor ≠ s.rst.anchor
        ∨ (s.replaceSector sector data).rst.schedule ≠ s.rst.schedule then
      (s.replaceSector sector data).postNow .mirrorCorrected none (if sector = s.anchorBase then 1 else 2) sector 0
      else s.replaceSector sector data) :=
    Quiet.ite ((State.replaceSector_quiet s sector data).trans (State.postNow_quiet _ _ _ _ _ _))
      (State.replaceSector_quiet s sector data)
  have hread := s.replaceSector_run sector data
  have hread' := s.replaceSector_tun sector data
  unfold State.mirrorVerify
  simp only
  split
  · rename_i hadopt
    have hrest := fun q => h q (by simpa using hadopt.2)
    refine (hcorrected.moves.trans (State.adopt_moves ?_)).trans (State.storeUpdate_moves ht _)
    split <;> simpa only [State.postNow_run, State.postNow_tun, hread, hread'] using hrest
  · exact hcorrected.moves.trans (State.storeUpdate_moves ht _)

end

end Sys2Proof.Machine

/-! PROOFS. The chains of moves of the flash path, the window commands, publishing, the scan engine and the power controller, and so
of every step. -/

namespace Sys2Proof.Machine

section
variable {Q : Prop}

/-! ### DORMANT, lends and the power controller -/

theorem State.dormantTest_quiet (s : State) : Quiet s s.dormantTest := by
  rcases s.dormantTest_cases with h | ⟨-, h⟩ | ⟨_, _, -, -, h⟩ <;> rw [h]
  · exact Quiet.refl s
  · exact Quiet.of_outer (by rfl)
  · exact Quiet.of_outer (by rfl)

theorem State.dormantReturn_quiet (s : State) : Quiet s s.dormantReturn := by
  rcases s.dormantReturn_cases with ⟨-, h⟩ | ⟨-, -, h⟩ | ⟨_, -, -, h⟩ <;> rw [h]
  · exact Quiet.refl s
  · exact Quiet.of_outer (by rfl)
  · exact Quiet.of_outer (by rfl)

theorem State.endLend_quiet (s : State) (why : LendEnd) : Quiet s (s.endLend why) := by
  cases hl : s.fpx.lend with
  | none =>
    rw [State.endLend, hl]
    exact Quiet.refl s
  | some l =>
    rw [State.endLend_eq hl]
    exact (Quiet.of_outer (by rfl)).trans (State.post_quiet _ _)

theorem State.reloadWake_quiet (s : State) : Quiet s s.reloadWake := by
  unfold State.reloadWake
  split
  · exact (Quiet.of_outer (by rfl)).trans (State.disableChannel_quiet _ _)
  · exact (Quiet.of_outer (by rfl)).trans (State.loadChannel_quiet _ _ _)

theorem State.takePath_quiet (s : State) : Quiet s s.takePath := Quiet.of_outer (by rfl)

theorem State.enterStandby_quiet (s : State) : Quiet s s.enterStandby := by
  have hpath := Quiet.ite (c := s.fpx.lend.isSome = true) (State.endLend_quiet s .standby) s.takePath_quiet
  exact ((hpath.trans (Quiet.of_outer (by rfl))).trans (State.reloadWake_quiet _)).trans (State.dormantTest_quiet _)

theorem State.endWake_quiet (s : State) : Quiet s s.endWake := Quiet.of_outer (by rfl)

theorem State.finishHandBack_quiet (s : State) : Quiet s s.finishHandBack := Quiet.of_outer (by rfl)

theorem State.startHandBack_quiet (s : State) : Quiet s s.startHandBack := by
  rcases s.startHandBack_cases with ⟨_, _, -, h⟩ | ⟨-, h⟩ <;> rw [h]
  · exact Quiet.of_outer (by rfl)
  · exact Quiet.of_outer (by rfl)

theorem State.endStartUp_quiet (s : State) : Quiet s s.endStartUp := by
  have hrun : Quiet s { s with fpx := { s.fpx with owner := .soc }, pwc := { s.pwc with power := .run, socrst := false } } :=
    Quiet.of_outer (by rfl)
  have hstandby : Quiet s { s with pwc := { s.pwc with power := .standby, socrst := false } } := Quiet.of_outer (by rfl)
  have done (u : State) (d : Int) (r : Nat) (a : Int) : Quiet u ((u.postNow .startupDone none d r a).raise .startupDone) :=
    (State.postNow_quiet u _ _ _ _ _).trans (State.raise_quiet _ (by decide))
  unfold State.endStartUp
  by_cases hp : s.pins.pwrgood = true
  · simp only [hp, if_true]
    exact hrun.trans (done _ _ _ _)
  · simp only [hp]
    exact (hstandby.trans (done _ _ _ _)).trans (State.reloadWake_quiet _)

theorem State.afterWork_quiet (s : State) : Quiet s s.afterWork := by
  rcases s.afterWork_cases with h | ⟨-, -, h⟩ | ⟨_, -, -, ⟨-, h⟩ | ⟨-, -, h⟩⟩ | ⟨-, -, h⟩ <;> rw [h]
  · exact Quiet.refl s
  · exact s.endStartUp_quiet
  · exact s.endLend_quiet _
  · exact s.endLend_quiet _
  · exact s.finishHandBack_quiet

theorem State.beginLend_quiet (s : State) (ms : Nat) : Quiet s (s.beginLend ms) :=
  (s.takePath_quiet.trans (Quiet.of_outer (by rfl))).trans (State.afterWork_quiet _)

theorem State.pwrgoodUp_quiet (s : State) : Quiet s s.pwrgoodUp := by
  refine Quiet.ite (Quiet.refl s) ?_
  have hpins : Quiet s { s with pins := { s.pins with pwrgood := true } } := Quiet.of_outer (by rfl)
  simp only
  split
  · exact hpins
  · exact hpins
  · exact ((hpins.trans (State.dormantReturn_quiet _)).trans (State.endWake_quiet _)).trans (State.startHandBack_quiet _)

theorem State.pwrgoodDown_quiet (s : State) : Quiet s s.pwrgoodDown := by
  refine Quiet.ite ?_ (Quiet.refl s)
  have hpins : Quiet s { s with pins := { s.pins with pwrgood := false } } := Quiet.of_outer (by rfl)
  simp only
  split
  · exact hpins.trans (State.enterStandby_quiet _)
  · exact hpins

theorem State.wakeFired_quiet (e : CompareEvent) (s : State) : Quiet s (s.wakeFired e) := by
  unfold State.wakeFired
  split
  · exact State.reloadWake_quiet s
  · refine Quiet.ite ?_ ((Quiet.of_outer (by rfl)).trans (State.reloadWake_quiet _))
    exact ((Quiet.of_outer (by rfl)).trans (State.post_quiet _ _)).trans (State.reloadWake_quiet _)

theorem State.wakeExpired_quiet (s : State) : Quiet s s.wakeExpired := by
  unfold State.wakeExpired
  split
  · exact Quiet.refl s
  · exact Quiet.ite (s.endWake_quiet.trans (State.postNow_quiet _ _ _ _ _ _)) (Quiet.refl s)

/-! ### The clock -/

/-- The channels, each disabled, its value kept (R99). -/
def Channels.disabled (cs : Channels) : Channels :=
  ⟨{ cs.startA with enabled := false }, { cs.startB with enabled := false }, { cs.stopA with enabled := false },
    { cs.stopB with enabled := false }, { cs.confirm with enabled := false }, { cs.warn with enabled := false },
    { cs.wake with enabled := false }⟩

theorem Clk.disableAll_eq (k : Clk) : k.disableAll = { k with channels := k.channels.disabled } := by
  obtain ⟨_, _, _, _, _, _, _, ⟨⟩, _⟩ := k
  rfl

theorem Clk.advance_range (k : Clk) (hc : k.counter ≤ 0xFFFFFFFF) : k.advance.counter ≤ 0xFFFFFFFF ∧ k.advance.trim = k.trim := by
  unfold Clk.advance
  split
  · rw [Clk.disableAll_eq]
    exact ⟨Nat.zero_le _, rfl⟩
  · rename_i h
    refine ⟨?_, rfl⟩
    change k.counter + 1 ≤ _
    simp only [timeMax] at h
    omega

theorem Quiet.of_advance (s : State) : Quiet s { s with clk := s.clk.advance } :=
  Quiet.of_clk fun h => by
    obtain ⟨hcounter, htrim⟩ := s.clk.advance_range h.counter
    exact ⟨hcounter, htrim ▸ h.low, htrim ▸ h.high⟩

theorem State.advanceCounter_moves (s : State) : Moves Q s s.advanceCounter := by
  have hadvance := Quiet.of_advance s
  refine Moves.ite ?_ hadvance.moves
  refine Moves.ite (hadvance.trans (State.postNow_quiet _ _ _ _ _ _)).moves ?_
  have hchecked := hadvance.trans (State.checkChannels_quiet _)
  have hreturned := hchecked.trans (State.dormantReturn_quiet _)
  refine Moves.ite ?_ hchecked.moves
  exact Moves.quiet (Moves.ite (hreturned.moves.trans (State.trigger_moves _)) hreturned.moves) (State.dormantTest_quiet _)

theorem clampTrim_range (k : Int) : -255 ≤ clampTrim k ∧ clampTrim k ≤ 255 := by
  unfold clampTrim
  omega

/-- A SET_TIME loads a schedule time and keeps the trim in its range (R94, R96). -/
theorem Clk.load_trim (k : Clk) (limit tn : Nat) (h : -255 ≤ k.trim ∧ k.trim ≤ 255) :
    -255 ≤ (k.load limit tn).trim ∧ (k.load limit tn).trim ≤ 255 := by
  have hestimate (c : Int) : -255 ≤ k.estimate c ∧ k.estimate c ≤ 255 := by
    unfold Clk.estimate
    split
    · exact h
    · split
      · exact clampTrim_range _
      · exact h
  change -255 ≤ (if isSmall limit (correction k.counter tn) then k.estimate _ else k.trim) ∧ (if _ then _ else _) ≤ _
  split
  · exact hestimate _
  · exact h

theorem State.setTime_moves (s : State) (tn : BitVec 32) : Moves Q s (s.setTime tn.toNat) := by
  have hload : Quiet s { s with clk := s.clk.load s.rst.inForce.schedule.stepLimit tn.toNat } :=
    Quiet.of_clk fun h => ⟨Nat.le_of_lt_succ tn.isLt, s.clk.load_trim _ _ ⟨h.low, h.high⟩⟩
  exact ((Quiet.ite hload (hload.trans (State.postNow_quiet _ _ _ _ _ _))).trans (State.checkChannels_quiet _)).moves.trans
    (State.trigger_moves _)

theorem State.takeEvent_moves {act : CompareEvent → State → State} (h : ∀ e s, Moves Q s (act e s)) (s : State) (c : Channel) :
    Moves Q s (s.takeEvent c act) := by
  unfold State.takeEvent
  split
  · exact Moves.refl s
  · rename_i e rest _
    exact (Quiet.of_clk (k := { s.clk with events := rest }) fun h => ⟨h.counter, h.low, h.high⟩).moves.trans (h _ _)

/-! ### Publishing -/

theorem Snapshot.plan_clashes (sn : Snapshot) : sn.plan.clashes.length ≤ 128 := List.length_take_le _ _

/-- Every clash record the placement makes keeps at most four opponents (R79). -/
theorem Snapshot.build_opponents (sn : Snapshot) : ∀ c ∈ sn.build.clashes, c.opponents.length ≤ 4 := by
  have place (b : Building) (c : Candidate) (h : ∀ x ∈ b.clashes, x.opponents.length ≤ 4) :
      ∀ x ∈ (placeCandidate sn b c).clashes, x.opponents.length ≤ 4 := by
    unfold placeCandidate
    simp only
    split
    · exact h
    · split
      · exact h
      · split
        · exact h
        · split
          · exact h
          · intro x hx
            rcases List.mem_append.1 hx with hx | hx
            · exact h x hx
            · rw [List.mem_singleton.1 hx]
              exact List.length_take_le _ _
  have fold (cs : List Candidate) (b : Building) (h : ∀ x ∈ b.clashes, x.opponents.length ≤ 4) :
      ∀ x ∈ (cs.foldl (placeCandidate sn) b).clashes, x.opponents.length ≤ 4 := by
    induction cs generalizing b with
    | nil => exact h
    | cons c cs ih => exact ih _ (place b c h)
  exact fold _ _ (by simp)

theorem State.replacePlan_moves {s : State} {sn : Snapshot} (h : s.pln.snapshot = some sn) :
    Moves Q s (s.replacePlan sn.plan) := by
  have hplan : Moves Q s { s with pln := { s.pln with
      plan := sn.plan.stamp (s.pln.generation + 1), generation := s.pln.generation + 1, published := true } } := by
    refine (Move.publish s sn (s.pln.generation + 1) h).moves_core
      ⟨fun f => { f with clashes := ?_, opponents := ?_ }, fun c => { c with }, fun m => { m with }, id, id, rfl⟩ rfl
    · simpa [Plan.stamp] using sn.plan_clashes
    · intro c hc
      obtain ⟨c', hc', rfl⟩ := List.mem_map.1 hc
      exact sn.build_opponents c' (List.mem_of_mem_take hc')
  have hraised := hplan.quiet (State.raise_quiet _ (f := .planNew) (by decide))
  exact Moves.ite (hraised.quiet (State.postNow_quiet _ _ _ _ _ _)) hraised

theorem State.finishPublish_moves (s : State) : Moves Q s s.finishPublish := by
  have hidle : Moves Q s { s with pln := { s.pln with snapshot := none } } :=
    (Move.idle s).moves ⟨fun f => { f with }, fun c => { c with }, fun m => { m with }, id, id, rfl⟩
  refine Moves.ite (Moves.ite (hidle.trans (State.startReplan_moves _)) ?_) hidle
  exact (Move.idle s).moves_core ⟨fun f => { f with }, fun c => { c with }, fun m => { m with }, id, id, rfl⟩ rfl

theorem State.publish_moves (s : State) : Moves Q s s.publish := by
  unfold State.publish
  split
  · exact Moves.refl s
  · exact ((((State.replacePlan_moves ‹_›).trans (State.reconcile_moves State.trigger_moves _)).quiet
      (State.reloadWarn_quiet _)).quiet (State.reloadWake_quiet _)).trans (State.finishPublish_moves _)

/-! ### Window commands -/

theorem State.complete_quiet (s : State) (code : Byte) (r : CmdResult) : Quiet s (s.complete code r) := by
  rw [State.complete_eq]
  refine Quiet.of_rep (Nat.le_refl _) fun h => stickyLaw_or h ?_
  split <;> decide

theorem State.doConfirm_moves (s : State) (ref : Nat) : Moves Q s (s.doConfirm ref).2 := by
  unfold State.doConfirm
  split
  · rename_i r hr
    have hfound := State.active_of_runOf hr
    have hactive : s.Active { r with state := .recording, deadline := none } := hfound
    exact (State.setRun_moves hactive).quiet (State.reloadRunChannels_quiet _)
  · exact Moves.refl s

theorem State.doFailure_moves (s : State) (ref : Nat) : Moves Q s (s.doFailure ref).2 := by
  unfold State.doFailure
  split
  · exact State.endRun_moves State.trigger_moves (State.active_of_runOf ‹_›) _ _
  · exact Moves.refl s

theorem State.decline_moves (s : State) (e : WaitingEntry) : Moves Q s (s.decline e) := by
  have hdropped := (s.dropWaiting_moves (Q := Q) e.ref).quiet (State.addHistory_quiet _ ⟨e.ref, .declined, none, e.wend⟩)
  exact ((hdropped.trans (Moves.ite (State.manualEnd_quiet _ _ _ _).moves (Moves.refl _))).quiet
    (State.reloadRunChannels_quiet _)).trans (State.trigger_moves _)

theorem State.doKeep_moves (s : State) (ref : Nat) : Moves Q s (s.doKeep ref).2 := by
  unfold State.doKeep
  split
  · exact State.decline_moves _ _
  · split
    · exact Moves.refl s
    · split
      · split
        · exact (State.reloadRunChannels_quiet s).moves
        · exact Moves.refl s
      · exact Moves.refl s

theorem State.commandWork_moves (s : State) (c : Command) : Moves Q s (s.commandWork c).2 := by
  cases c with
  | ackNotices n =>
    have hdrop : (s.rep.notices.drop n.toNat).length ≤ s.rep.notices.length := List.length_drop ▸ Nat.sub_le _ _
    exact (Quiet.of_rep (r := { s.rep with notices := s.rep.notices.drop n.toNat }) hdrop id).moves
  | setAttnMask m => exact (Quiet.of_rep (r := { s.rep with mask := m }) (Nat.le_refl _) id).moves
  | setTime t => exact State.setTime_moves s t
  | confirmStart r => exact State.doConfirm_moves s _
  | reportFailure r => exact State.doFailure_moves s _
  | view v => exact State.doView_moves s _
  | viewEnd => exact State.doViewEnd_moves s
  | keepViewing r => exact State.doKeep_moves s _
  | replan =>
    simp only [State.commandWork]
    split
    · exact State.trigger_moves s
    · exact Moves.refl s
  | guardAnchor => exact (Quiet.of_outer (by rfl) (fpx := { s.fpx with guard := true })).moves
  | rescan => exact State.joinSectors_moves s s.watchedSectors
  | clearFlags m => exact Moves.refl s
  | lend ms => exact Moves.refl s
  | standby => exact Moves.refl s

theorem stickyLaw_and {x : BitVec 16} (hx : x &&& ~~~0x0D9E = 0) (mask : BitVec 16) : x &&& mask &&& ~~~0x0D9E = 0 := by
  rw [BitVec.and_assoc, BitVec.and_comm mask, ← BitVec.and_assoc, hx]
  exact BitVec.zero_and

theorem State.clearSticky_quiet (s : State) (mask : BitVec 16) : Quiet s (s.clearSticky mask) := by
  have hsticky (h : s.StickyLaw) : s.rep.sticky &&& ~~~mask &&& ~~~0x0D9E = 0 :=
    stickyLaw_and (x := s.rep.sticky) h (~~~mask)
  exact Quiet.of_rep (r := { s.rep with sticky := s.rep.sticky &&& ~~~mask }) (Nat.le_refl _) hsticky

theorem State.afterCommand_quiet (s : State) (c : Command) : Quiet s (s.afterCommand c) := by
  cases c with
  | clearFlags m => exact State.clearSticky_quiet s m
  | lend ms => exact State.beginLend_quiet s ms.toNat
  | standby => exact State.enterStandby_quiet s
  | _ => exact Quiet.refl s

theorem State.runCommand_moves (s : State) (c : Command) : Moves Q s (s.runCommand c) :=
  Moves.ite ((s.commandWork_moves c).quiet ((State.complete_quiet _ _ _).trans (State.afterCommand_quiet _ _)))
    (State.complete_quiet _ _ _).moves

theorem State.takeCommand_moves (s : State) (offset : Byte) (sent : List Byte) : Moves Q s (s.takeCommand offset sent) := by
  unfold State.takeCommand
  split
  · exact State.runCommand_moves _ _
  · unfold State.failCommand
    split
    · exact (State.complete_quiet _ _ _).moves
    · exact ((Quiet.of_outer (by rfl)).trans (State.complete_quiet _ _ _)).moves

/-! ### Selections -/

theorem State.forward_quiet (s : State) (sel : Selection) : Quiet s (s.forward sel) := Quiet.of_outer (by rfl)

theorem State.cut_quiet (s : State) (code : Byte) : Quiet s (s.cut code) := Quiet.of_outer (by rfl)

theorem State.socPort_quiet (s : State) (bytes : List (Option Byte)) : Quiet s (s.socPort bytes) := Quiet.of_outer (by rfl)

theorem State.flashPort_quiet (s : State) (op : FlashOp) : Quiet s (s.flashPort op) := Quiet.of_outer (by rfl)

theorem State.disarm_quiet (s : State) : Quiet s s.disarm := Quiet.of_outer (by rfl)

theorem State.dropSelection_quiet (s : State) (sel : Selection) : Quiet s (s.dropSelection sel) :=
  Quiet.ite ((s.socPort_quiet _).trans (State.raise_quiet _ (f := .lendViolation) (by decide))) (s.socPort_quiet _)

theorem State.served_quiet (s : State) (off : Nat) : Quiet s (s.served off) := by
  refine Quiet.ite (Quiet.of_rep (Nat.le_refl _) id) (Quiet.ite ?_ (Quiet.refl s))
  exact Quiet.ite ⟨⟨fun f => { f with }, fun c => { c with }, fun m => { m with }, id, id, rfl⟩, rfl⟩ (Quiet.refl s)

theorem State.serve_quiet (s : State) (off n : Nat) : Quiet s (s.serve off n).2 := by
  induction n generalizing s off with
  | zero => exact Quiet.refl s
  | succ n ih => exact (s.served_quiet off).trans (ih _ _)

theorem State.readFlash_quiet (s : State) (sel : Selection) (addr n : Nat) : Quiet s (s.readFlash sel addr n) :=
  Quiet.ite (((s.serve_quiet _ _).trans (State.cut_quiet _ _)).trans (State.socPort_quiet _ _))
    (((s.serve_quiet _ _).trans (State.flashPort_quiet _ _)).trans (State.socPort_quiet _ _))

theorem State.enterWrite_quiet (s : State) (kind : WriteKind) (r : FlashRange) : Quiet s (s.enterWrite kind r) :=
  Quiet.of_outer (by rfl)

theorem State.handProgram_moves (s : State) (addr : Nat) (data : List Byte) : Moves Q s (s.handProgram addr data) := by
  have hmirror : Moves Q s (if s.meetsMirror ⟨pageOf addr, Config.pageSize⟩ then
      (s.mirrorProgram addr data).storeUpdate State.trigger else s) :=
    Moves.ite ((State.mirrorProgram_quiet s addr data).moves.trans (State.storeUpdate_moves State.trigger_moves _)) (Moves.refl s)
  exact Moves.ite (hmirror.trans (State.guideProgram_moves State.trigger_moves _ _ _)) hmirror

theorem State.handErase_moves (s : State) (r : FlashRange) : Moves Q s (s.handErase r) := by
  have hmirror : Moves Q s (if s.meetsMirror r then (s.mirrorErase r.lo r.len).storeUpdate State.trigger else s) :=
    Moves.ite ((State.mirrorErase_quiet s _ _).moves.trans (State.storeUpdate_moves State.trigger_moves _)) (Moves.refl s)
  exact Moves.ite (hmirror.trans (State.guideErase_moves State.trigger_moves _ _ _)) hmirror

theorem State.judgeProgram_moves (s : State) (addr : Nat) (data : List Byte) (whole : Bool) :
    Moves Q s (s.judgeProgram addr data whole) :=
  Moves.ite ((s.enterWrite_quiet _ _).moves.trans (State.handProgram_moves _ _ _)) (Moves.refl s)

theorem State.judgeErase_moves (s : State) (kind : WriteKind) (r : FlashRange) (ended : Bool) :
    Moves Q s (s.judgeErase kind r ended) :=
  Moves.ite ((s.enterWrite_quiet _ _).moves.trans (State.handErase_moves _ _)) (Moves.refl s)

theorem State.judgeStatusWrite_quiet (s : State) (ended : Bool) : Quiet s (s.judgeStatusWrite ended) :=
  Quiet.ite (s.enterWrite_quiet _ _) (Quiet.refl s)

theorem State.guardCancel_quiet (s : State) (sel : Selection) (cls : InstrClass) (ref : Nat) :
    Quiet s (s.guardCancel sel cls ref) := (s.cut_quiet _).trans (State.postNow_quiet _ _ _ _ _ _)

theorem State.statusResponse_quiet (s : State) (b : Byte) : Quiet s (s.statusResponse b) :=
  Quiet.ite (Quiet.refl s) (Quiet.of_outer (by rfl))

theorem State.flashResetTaken_moves (s : State) : Moves Q s s.flashResetTaken :=
  (Quiet.of_outer (by rfl)).moves.trans (State.joinSectors_moves _ _)

theorem State.doReset_moves (s : State) : Moves Q s s.doReset := Moves.ite s.flashResetTaken_moves (Moves.refl s)

theorem State.doSuspend_quiet (s : State) : Quiet s s.doSuspend := by
  unfold State.doSuspend
  split
  · exact Quiet.of_outer (by rfl)
  · exact Quiet.refl s

theorem State.doResume_quiet (s : State) : Quiet s s.doResume := by
  unfold State.doResume
  split
  · exact Quiet.of_outer (by rfl)
  · exact Quiet.refl s

theorem State.countedEffect_moves (s : State) (cls : InstrClass) : Moves Q s (s.countedEffect cls) := by
  unfold State.countedEffect
  split
  · exact (Quiet.of_outer (by rfl)).moves
  · exact (Quiet.of_outer (by rfl)).moves
  · exact s.doSuspend_quiet.moves
  · exact s.doResume_quiet.moves
  · exact (Quiet.of_outer (by rfl)).moves
  · exact s.doReset_moves
  · exact (Quiet.of_outer (by rfl)).moves
  · exact (Quiet.of_outer (by rfl)).moves
  · exact (Quiet.of_outer (by rfl)).moves
  · exact Moves.refl s

theorem State.selectProgram_moves (s : State) (sel : Selection) (addr : Nat) (data : List Byte) :
    Moves Q s (s.selectProgram sel addr data) := by
  refine Moves.ite (Moves.ite ((s.cut_quiet _).moves.trans (State.takeCommand_moves _ _ _)) (s.cut_quiet _).moves) ?_
  exact Moves.ite (s.guardCancel_quiet _ _ _).moves ((s.forward_quiet _).moves.trans (State.judgeProgram_moves _ _ _ _))

theorem State.selectErase_moves (s : State) (sel : Selection) (cls : InstrClass) (kind : WriteKind) (addr : Nat) (r : FlashRange)
    (guarded ended : Bool) : Moves Q s (s.selectErase sel cls kind addr r guarded ended) :=
  Moves.ite (s.cut_quiet _).moves
    (Moves.ite (s.guardCancel_quiet _ _ _).moves ((s.forward_quiet _).moves.trans (State.judgeErase_moves _ _ _ _)))

theorem State.cutShort_quiet (s : State) (sel : Selection) : Quiet s (s.cutShort sel) := by
  rcases s.cutShort_cases sel with ⟨h, -⟩ | h <;> rw [h]
  · exact s.cut_quiet _
  · exact s.forward_quiet _

theorem State.selectClass_moves (s : State) (sel : Selection) (e : ClassEntry) : Moves Q s (s.selectClass sel e) := by
  unfold State.selectClass
  split
  · exact (s.readFlash_quiet _ _ _).moves
  · exact (s.readFlash_quiet _ _ _).moves
  · exact s.selectProgram_moves _ _ _
  · exact s.selectErase_moves _ _ _ _ _ _ _
  · exact s.selectErase_moves _ _ _ _ _ _ _
  · exact (s.cutShort_quiet _).moves
  · exact (s.cutShort_quiet _).moves
  · exact (s.cutShort_quiet _).moves
  · exact (s.cutShort_quiet _).moves
  · exact (s.cutShort_quiet _).moves
  · exact Moves.ite (s.guardCancel_quiet _ _ _).moves ((s.forward_quiet _).moves.trans (State.judgeErase_moves _ _ _ _))
  · exact ((s.forward_quiet _).trans (State.judgeStatusWrite_quiet _ _)).moves
  · exact ((s.forward_quiet _).trans (Quiet.foldl State.statusResponse_quiet _ _)).moves
  · exact Moves.ite ((s.forward_quiet _).moves.trans (State.countedEffect_moves _ _)) (s.forward_quiet _).moves

theorem State.select_moves (s : State) (sel : Selection) : Moves Q s (s.select sel) := by
  unfold State.select
  split
  · exact (s.dropSelection_quiet _).moves
  · refine Moves.ite ?_ ?_
    · unfold State.selectAttached
      split
      · exact ((s.forward_quiet _).trans (State.disarm_quiet _)).moves
      · exact (s.selectClass_moves _ _).trans (Moves.ite (Moves.refl _) (State.disarm_quiet _).moves)
    · unfold State.selectDetached
      simp only
      split
      · exact ((s.forward_quiet _).trans (Quiet.of_outer (by rfl))).moves
      · exact ((s.forward_quiet sel).moves.trans (State.doReset_moves _)).quiet (State.disarm_quiet _)
      · exact ((s.forward_quiet _).trans (State.disarm_quiet _)).moves

theorem State.serveAlone_quiet (s : State) (off : Nat) : Quiet s (s.serveAlone off) :=
  Quiet.ite (((s.serve_quiet _ _).trans (State.socPort_quiet _ _)).trans (State.disarm_quiet _)) (Quiet.refl s)

theorem State.commandProgram_moves {act : State → State} (h : ∀ s, Moves Q s (act s)) (s : State) (offset : Byte)
    (sent : List Byte) : Moves Q s (s.commandProgram offset sent act) := by
  unfold State.commandProgram
  split
  · exact Moves.refl s
  · simp only
    split
    · exact (s.dropSelection_quiet _).moves
    · exact Moves.ite (((s.cut_quiet _).moves.trans (h _)).quiet (State.disarm_quiet _))
        ((s.forward_quiet _).trans (State.disarm_quiet _)).moves

/-! ### The scan engine -/

theorem State.pollFlash_quiet (s : State) : Quiet s s.pollFlash := by
  have hport : Quiet s (match s.fpx.classTable.ownOf .readStatus with
      | some e => s.flashPort (.own e.code none e.dummy 1)
      | none => s) := by
    split
    · exact s.flashPort_quiet _
    · exact Quiet.refl s
  unfold State.pollFlash
  simp only
  split
  · exact hport
  · exact hport.trans (Quiet.of_outer (by rfl))

theorem State.beginRead_quiet (s : State) (x : Nat) (p : Purpose) : Quiet s (s.beginRead x p) := by
  unfold State.beginRead
  simp only
  split
  · exact (s.flashPort_quiet _).trans (Quiet.of_outer (by rfl))
  · exact Quiet.of_outer (by rfl)

theorem State.pollFor_quiet (s : State) (x : Nat) (p : Purpose) (bs : List Byte) : Quiet s (s.pollFor x p bs) := by
  induction bs generalizing s with
  | nil => exact Quiet.of_outer (by rfl)
  | cons b bs ih =>
    have hpoll := s.pollFlash_quiet.trans (State.statusResponse_quiet _ b)
    exact Quiet.ite (hpoll.trans (State.beginRead_quiet _ _ _)) (hpoll.trans (ih _))

theorem State.wakeForRead_quiet (s : State) : Quiet s s.wakeForRead := by
  unfold State.wakeForRead
  split
  · exact Quiet.of_outer (by rfl)
  · exact Quiet.refl s

theorem State.startSector_quiet (s : State) (responses : List Byte) : Quiet s (s.startSector responses) := by
  refine Quiet.ite ?_ (Quiet.refl s)
  split
  · split
    · exact s.wakeForRead_quiet.trans (State.pollFor_quiet _ _ _ _)
    · exact Quiet.refl s
  · exact s.pollFor_quiet _ _ _
  · exact Quiet.refl s

theorem State.busyTimeout_quiet (s : State) : Quiet s s.busyTimeout := by
  unfold State.busyTimeout
  split
  · exact (Quiet.of_outer (by rfl)).trans (State.beginRead_quiet _ _ _)
  · exact Quiet.refl s

theorem State.countSector_quiet (s : State) : Quiet s s.countSector := Quiet.of_outer (by rfl)

theorem State.finishSector_moves {s : State} {p : Purpose} {act : Nat → State → State}
    (h : ∀ x, s.fpx.scan = .reading x p → Moves Q s.countSector (act x s.countSector)) : Moves Q s (s.finishSector p act) := by
  unfold State.finishSector
  split
  · rename_i x q hscan
    by_cases hpq : p = q
    · subst hpq
      rw [if_pos rfl]
      exact (s.countSector_quiet.moves.trans (h x hscan)).quiet ((State.afterWork_quiet _).trans (State.dormantTest_quiet _))
    · rw [if_neg hpq]
  · exact Moves.refl s

theorem State.expireWrite_moves (s : State) : Moves Q s s.expireWrite := by
  unfold State.expireWrite
  split
  · exact ((Quiet.of_outer (by rfl)).moves.trans (State.joinSectors_moves _ _)).quiet (State.dormantTest_quiet _)
  · exact Moves.refl s

theorem State.expireLend_quiet (s : State) : Quiet s s.expireLend := by
  unfold State.expireLend
  split
  · exact Quiet.of_outer (by rfl)
  · exact (Quiet.of_outer (by rfl)).trans (State.endLend_quiet _ _)
  · exact Quiet.refl s

theorem State.pollWrite_quiet (s : State) (bs : List Byte) : Quiet s (s.pollWrite bs) := by
  induction bs generalizing s with
  | nil => exact Quiet.refl s
  | cons b bs ih =>
    have hpoll := s.pollFlash_quiet.trans (State.statusResponse_quiet _ b)
    exact Quiet.ite hpoll (hpoll.trans (ih _))

theorem State.standbyPoll_quiet (s : State) (bs : List Byte) : Quiet s (s.standbyPoll bs) :=
  Quiet.ite ((s.pollWrite_quiet bs).trans (State.dormantTest_quiet _)) (Quiet.refl s)

/-! ### Every row and every step -/

theorem State.powered_moves {act : State → State} (s : State) (h : Moves Q s.clearPorts (act s.clearPorts)) :
    Moves Q s (s.powered act) := by
  have hclear : Quiet s s.clearPorts := Quiet.of_outer (by rfl)
  exact Moves.ite (hclear.moves.trans h) hclear.moves

theorem stickyLaw_zero : (0 : BitVec 16) &&& ~~~0x0D9E = 0 := by decide

/-- A reset: the core is that of the reset state, and what is sound beside it is at its reset value or kept. -/
structure Resets (s t : State) : Prop where
  core : t.core = State.reset.core
  fit : t.TablesFit
  clock : s.ClockInRange → t.ClockInRange
  mirrors : t.MirrorsCanonical
  sticky : t.StickyLaw

theorem State.resetBlocks_resets (s : State) {k : Clk} {p : Pwc} {o : Ports}
    (hk : s.ClockInRange → k.counter ≤ 0xFFFFFFFF ∧ -255 ≤ k.trim ∧ k.trim ≤ 255) :
    Resets s { s.resetBlocks with clk := k, pwc := p, ports := o } where
  core := by
    simp only [State.core, State.resetBlocks, State.reset, Rst.afterReset]
    rfl
  fit := ⟨Nat.zero_le _, Nat.zero_le _, Nat.zero_le _, Nat.zero_le _, Nat.zero_le _, Nat.zero_le _, Nat.zero_le _,
    Nat.zero_le _, Nat.zero_le _, Nat.zero_le _, List.forall_mem_nil _⟩
  clock h := ⟨(hk h).1, (hk h).2.1, (hk h).2.2⟩
  mirrors := ⟨rfl, rfl⟩
  sticky := stickyLaw_zero

theorem State.coldReset_resets (s : State) : Resets s s.coldReset :=
  s.resetBlocks_resets fun _ => ⟨Nat.zero_le _, by simp [Clk.afterCold], by simp [Clk.afterCold]⟩

theorem State.warmReset_resets (s : State) : Resets s s.warmReset :=
  s.resetBlocks_resets fun h => ⟨h.counter, h.low, h.high⟩

/-- What every row but a reset can do, the law of start-up known where an adoption takes place. -/
theorem exec_moves {c : Instr} {s t : State} (hQ : Q → s.StartUpLaw) (hcold : c ≠ .coldReset) (hwarm : c ≠ .warmReset)
    (h : exec c s = .next t) : Moves Q s t := by
  have hselect (sel : Selection) : Moves Q s (s.powered fun s => s.select sel) := s.powered_moves (State.select_moves _ _)
  have hcommand (c : Command) : Moves Q s (s.powered fun s => s.windowCommand c) :=
    s.powered_moves (State.commandProgram_moves (fun u => u.runCommand_moves c) _ _ _)
  have hevent {ch : Channel} {act : CompareEvent → State → State} (hact : ∀ e u, Moves Q u (act e u)) :
      Moves Q s (s.powered fun s => (s.takeEvent ch act).dormantTest) :=
    s.powered_moves ((State.takeEvent_moves hact _ _).quiet (State.dormantTest_quiet _))
  have hclear : Quiet s s.clearPorts := Quiet.of_outer (by rfl)
  cases c with
  | coldReset => exact absurd rfl hcold
  | warmReset => exact absurd rfl hwarm
  | vddFall =>
    cases h
    refine s.powered_moves ?_
    simp only [Clk.disableAll_eq]
    have hpins : Quiet s.clearPorts { s.clearPorts with pins := { s.pins with vdd := false } } := Quiet.of_outer (by rfl)
    exact (hpins.trans (Quiet.of_clk (k := { s.clk with channels := s.clk.channels.disabled })
      fun h => ⟨h.counter, h.low, h.high⟩)).moves
  | pwrgoodRise =>
    cases h
    exact Moves.ite (hclear.trans ((State.pwrgoodUp_quiet _).trans (State.dormantTest_quiet _))).moves
      (Quiet.of_outer (by rfl)).moves
  | pwrgoodFall => cases h; exact Moves.ite (hclear.trans (State.pwrgoodDown_quiet _)).moves (Quiet.of_outer (by rfl)).moves
  | counterAdvance => cases h; exact hclear.moves.trans (State.advanceCounter_moves _)
  | clockLatchRead => cases h; exact s.powered_moves (State.serveAlone_quiet _ _).moves
  | replanToggleRead => cases h; exact s.powered_moves (State.serveAlone_quiet _ _).moves
  | read | program | eraseSector | eraseBlock | eraseChip | writeStatus | readStatus | writeEnable | writeDisable | suspend
  | resume | resetArm | flashReset | powerDown | release | detaching | otherInstruction => cases h; exact hselect _
  | ackNotices | clearFlags | setAttnMask | setTime | confirmStart | reportFailure | view | viewEnd | keepViewing | lend
  | standby | replan | guardAnchor | rescan => cases h; exact hcommand _
  | invalidCommand offset sent =>
    cases h
    exact s.powered_moves (State.commandProgram_moves (fun u => u.takeCommand_moves offset sent) _ _ _)
  | startEvent T => cases h; exact hevent fun e u => u.startDue_moves State.trigger_moves T e.time
  | stopEvent T => cases h; exact hevent fun e u => u.stopDue_moves State.trigger_moves T e.time
  | confirmEvent => cases h; exact hevent fun e u => u.confirmDue_moves State.trigger_moves e.time
  | warnEvent => cases h; exact hevent fun e u => u.warnDue_moves e.time
  | wakeEvent => cases h; exact hevent fun e u => (u.wakeFired_quiet e).moves
  | replanPublish => cases h; exact s.powered_moves ((State.publish_moves _).quiet (State.dormantTest_quiet _))
  | sectorReadStart responses => cases h; exact s.powered_moves (State.startSector_quiet _ _).moves
  | busyWaitTimeout => cases h; exact s.powered_moves (State.busyTimeout_quiet _).moves
  | mirrorSectorVerify data =>
    cases h
    refine s.powered_moves (State.finishSector_moves fun x _ => State.mirrorVerify_moves State.trigger_moves (fun q ha => ?_) _ _)
    obtain ⟨-, -, -, -, -, -, -, -, -, -, -, hruns, -, hA, hB⟩ := hQ q ha
    exact ⟨hruns, hA, hB⟩
  | guideSectorVerify data =>
    cases h
    exact s.powered_moves (State.finishSector_moves fun x _ => State.guideVerify_moves State.trigger_moves _ _ _)
  | guideSectorScan data =>
    cases h
    exact s.powered_moves (State.finishSector_moves fun x _ => State.guideScan_moves State.trigger_moves _ _ _)
  | writeDeadlineExpiry => cases h; exact s.powered_moves (State.expireWrite_moves _)
  | lendExpiry => cases h; exact s.powered_moves (State.expireLend_quiet _).moves
  | wakeDeadlineExpiry => cases h; exact s.powered_moves ((State.wakeExpired_quiet _).trans (State.dormantTest_quiet _)).moves
  | standbyStatusPoll bs => cases h; exact s.powered_moves (State.standbyPoll_quiet _ _).moves

/-- What every step can do, up to the queue: a chain of moves, or a reset. -/
theorem step_moves {s t : State} (hQ : Q → s.StartUpLaw) (h : step s = .next t) :
    (∃ q r u, Moves Q { s with pending := q } u ∧ t = { u with pending := r }) ∨ Resets s t := by
  unfold step at h
  split at h
  · cases h
    have hcounted : Quiet s { s with clk := { s.clk with crystal := s.clk.crystal + 1, prescaler := s.clk.prescaler + 1 } } :=
      Quiet.of_clk fun h => ⟨h.counter, h.low, h.high⟩
    have hports : Quiet s { s with
        ports := ⟨[], []⟩, clk := { s.clk with crystal := s.clk.crystal + 1, prescaler := s.clk.prescaler + 1 } } :=
      hcounted.trans (Quiet.of_outer (by rfl))
    exact .inl ⟨s.pending, _, _, hports.moves, rfl⟩
  · rename_i c rest _
    by_cases hcold : c = .coldReset
    · subst hcold
      cases h
      have hr := State.coldReset_resets { s with pending := rest }
      exact .inr { hr with clock := fun c => hr.clock { c with } }
    by_cases hwarm : c = .warmReset
    · subst hwarm
      cases h
      have hr := State.warmReset_resets { s with pending := rest }
      exact .inr { hr with clock := fun c => hr.clock { c with } }
    exact .inl ⟨rest, t.pending, t, exec_moves (fun q => hQ q) hcold hwarm h, rfl⟩

/-- A law of the core that every move keeps and the reset state meets is kept by every step. -/
theorem step_keeps {P : State → Prop} (hcore : ∀ u, P u ↔ P u.core) (hmove : ∀ u v, Move Q u v → P u → P v)
    (hreset : P State.reset) {s t : State} (hQ : Q → s.StartUpLaw) (h : step s = .next t) (hs : P s) : P t := by
  rcases step_moves hQ h with ⟨q, r, u, hm, rfl⟩ | hr
  · have hbefore : P { s with pending := q } := (hcore _).2 ((hcore s).1 hs)
    exact (hcore _).2 ((hcore u).1 (hm.keeps hcore hmove hbefore))
  · rwa [hcore, hr.core, ← hcore]

/-- What is sound along every chain, and of a reset, is kept by every step. -/
theorem step_sound {s t : State} (h : step s = .next t) :
    (s.TablesFit → t.TablesFit) ∧ (s.ClockInRange → t.ClockInRange) ∧ (s.MirrorsCanonical → t.MirrorsCanonical)
      ∧ (s.StickyLaw → t.StickyLaw) := by
  rcases step_moves (Q := False) False.elim h with ⟨q, r, u, hm, rfl⟩ | hr
  · have hsound := hm.sound
    exact ⟨fun f => { hsound.fit { f with } with }, fun c => { hsound.clock { c with } with },
      fun m => { hsound.mirrors { m with } with }, hsound.sticky⟩
  · exact ⟨fun _ => hr.fit, hr.clock, fun _ => hr.mirrors, fun _ => hr.sticky⟩

/-- Settles O2: every row answers, and every operation leaves the queue alone. -/
theorem everyCommandAnswersNextState : Obligations.EveryCommandAnswersNextState := by
  intro c s
  have hanswers : ∃ t, exec c s = .next t := by cases c <;> exact ⟨_, rfl⟩
  obtain ⟨t, ht⟩ := hanswers
  refine ⟨t, ht, ?_⟩
  by_cases hcold : c = .coldReset
  · subst hcold
    cases ht
    rfl
  by_cases hwarm : c = .warmReset
  · subst hwarm
    cases ht
    rfl
  exact (exec_moves (Q := False) False.elim hcold hwarm ht).sound.queue

end

end Sys2Proof.Machine

/-! PROOFS. Every step keeps the stream counts equal to the active runs (laws 1 and 2). -/

namespace Sys2Proof.Machine

/-! ### Tuner records -/

@[simp] theorem Tun.get_set_same (t : Tun) (T : Tuner) (r : TunerRec) : (t.set T r).get T = r := by cases T <;> rfl

theorem Tun.get_set_ne (t : Tun) {T T' : Tuner} (h : T' ≠ T) (r : TunerRec) : (t.set T r).get T' = t.get T' := by
  cases T <;> cases T' <;> first | rfl | exact absurd rfl h

@[simp] theorem Tun.set_warned (t : Tun) (T : Tuner) (r : TunerRec) : (t.set T r).warned = t.warned := by cases T <;> rfl

theorem TunerRec.state_eq_idle (r : TunerRec) : r.state = .idle ↔ r.streams = 0 ∧ r.viewer = none := by
  unfold TunerRec.state
  cases r.viewer <;> by_cases h : r.streams = 0 <;> simp [h]

theorem TunerRec.settle_of_streams {r : TunerRec} (h : r.streams ≠ 0) : r.settle = r :=
  if_neg fun hidle => h (r.state_eq_idle.1 hidle).1

@[simp] theorem TunerRec.settle_streams (r : TunerRec) : r.settle.streams = r.streams := by
  unfold TunerRec.settle
  split <;> rfl

@[simp] theorem TunerRec.settle_viewer (r : TunerRec) : r.settle.viewer = r.viewer := by
  unfold TunerRec.settle
  split <;> rfl

@[simp] theorem TunerRec.releaseStream_streams (r : TunerRec) : r.releaseStream.streams = r.streams - 1 :=
  TunerRec.settle_streams _

theorem TunerRec.releaseStream_multiplex {r : TunerRec} (h : r.streams - 1 ≠ 0) : r.releaseStream.multiplex = r.multiplex := by
  rw [TunerRec.releaseStream, TunerRec.settle_of_streams h]

theorem TunerRec.releaseViewer_multiplex {r : TunerRec} (h : r.streams ≠ 0) : r.releaseViewer.multiplex = r.multiplex := by
  have hsettle := TunerRec.settle_of_streams (r := { r with viewer := none }) h
  exact (congrArg TunerRec.multiplex hsettle : _)

/-- The record carries the same runs: as many streams and, with any, the same multiplex. -/
structure TunerRec.Carries (r new : TunerRec) : Prop where
  streams : new.streams = r.streams
  multiplex : r.streams ≠ 0 → new.multiplex = r.multiplex

theorem TunerRec.Carries.refl (r : TunerRec) : r.Carries r := ⟨rfl, fun _ => rfl⟩

theorem TunerRec.releaseViewer_carries (r : TunerRec) : r.Carries r.releaseViewer :=
  ⟨TunerRec.settle_streams _, TunerRec.releaseViewer_multiplex⟩

theorem TunerRec.takeViewer_carries (r : TunerRec) (service m f : Nat) : r.Carries (r.takeViewer service m f) := by
  unfold TunerRec.takeViewer
  split
  case isTrue h =>
    simp only [Bool.and_eq_true, decide_eq_true_eq] at h
    exact ⟨rfl, fun hs => absurd h.1 hs⟩
  case isFalse => exact ⟨rfl, fun _ => rfl⟩

theorem TunerRec.Carries.trans {r r' r'' : TunerRec} (h : r.Carries r') (k : r'.Carries r'') : r.Carries r'' :=
  ⟨k.streams.trans h.streams, fun hs => (k.multiplex (h.streams ▸ hs)).trans (h.multiplex hs)⟩

theorem Tun.set_carries {t : Tun} {T : Tuner} {r : TunerRec} (h : (t.get T).Carries r) (T' : Tuner) :
    (t.get T').Carries ((t.set T r).get T') := by
  by_cases hT : T' = T
  · subst hT
    rwa [Tun.get_set_same]
  · rw [Tun.get_set_ne t hT]
    exact TunerRec.Carries.refl _

theorem Tun.viewed_carries (t : Tun) (T : Tuner) (service m f : Nat) (T' : Tuner) :
    (t.get T').Carries ((t.viewed T service m f).get T') := by
  have hrelease : ∀ T', (t.get T').Carries ((if t.viewerTuner = some (otherTuner T) then
      t.set (otherTuner T) (t.get (otherTuner T)).releaseViewer else t).get T') := by
    intro T'
    split
    · exact Tun.set_carries (TunerRec.releaseViewer_carries _) T'
    · exact TunerRec.Carries.refl _
  exact (hrelease T').trans (Tun.set_carries (TunerRec.takeViewer_carries _ _ _ _) T')

/-! ### A granted or evicting request -/

/-- What the five conditions say (R129). -/
theorem grantConditions_eq {g : TunerGroup} {t : Tun} {T : Tuner} {m f : Nat} {other : TunerRec}
    (h : grantConditions g t T m f other = true) :
    T ∈ g.mode.tuners ∧ ((t.get T).streams = 0 ∨ (t.get T).multiplex = some m) ∧ (t.get T).streams < g.perTuner
      ∧ t.a.streams + t.b.streams < g.cap ∧ (g.mode ≠ .twinLooped ∨ other.state = .idle ∨ other.feed = some f) := by
  simp only [grantConditions, Bool.and_eq_true, Bool.or_eq_true, decide_eq_true_eq, List.contains_iff_mem, or_assoc] at h
  obtain ⟨⟨⟨⟨hT, hm⟩, hper⟩, htotal⟩, hloop⟩ := h
  exact ⟨hT, hm, hper, htotal, hloop⟩

/-- A request is granted or evicts under the five conditions; it evicts a viewer of another multiplex and no other (R129, R130). -/
theorem judgeRequest_cases {g : TunerGroup} {t : Tun} {T : Tuner} {m f : Nat} :
    (judgeRequest g t T m f = .granted → grantConditions g t T m f (t.get (otherTuner T)) = true
      ∧ ((t.get T).viewer = none ∨ (t.get T).multiplex = some m))
    ∧ (judgeRequest g t T m f = .evicts → grantConditions g t T m f (t.get (otherTuner T)) = true
      ∧ (t.get T).viewer ≠ none ∧ (t.get T).multiplex ≠ some m) := by
  unfold judgeRequest
  simp only
  by_cases hc : grantConditions g t T m f (t.get (otherTuner T)) = true
  · rw [if_pos hc]
    by_cases hv : ((t.get T).viewer.isSome && decide ((t.get T).multiplex ≠ some m)) = true
    · rw [if_pos hv]
      simp only [Bool.and_eq_true, decide_eq_true_eq, Option.isSome_iff_ne_none] at hv
      exact ⟨nofun, fun _ => ⟨hc, hv.1, hv.2⟩⟩
    · rw [if_neg hv]
      simp only [Bool.and_eq_true, decide_eq_true_eq, Option.isSome_iff_ne_none, not_and_or, not_not] at hv
      exact ⟨fun _ => ⟨hc, hv⟩, nofun⟩
  · rw [if_neg hc]
    split <;> exact ⟨nofun, nofun⟩

/-- The record a started run finds: one more stream, on the run's multiplex, which any stream before was on (R128 to R130). -/
theorem State.Starts.record {s : State} {r : ActiveRun} {new : TunerRec} (h : s.Starts r new) :
    new.streams = (s.tun.get r.tuner).streams + 1 ∧ new.multiplex = some r.multiplex
      ∧ ((s.tun.get r.tuner).streams = 0 ∨ (s.tun.get r.tuner).multiplex = some r.multiplex) := by
  rcases h with ⟨hj, rfl⟩ | ⟨hj, rfl⟩
  · obtain ⟨hc, hv⟩ := judgeRequest_cases.1 hj
    obtain ⟨-, hm, -⟩ := grantConditions_eq hc
    unfold TunerRec.grant
    split
    case isTrue => exact ⟨rfl, rfl, hm⟩
    case isFalse hidle =>
      refine ⟨rfl, ?_, hm⟩
      rw [TunerRec.state_eq_idle, not_and_or] at hidle
      rcases hidle with hs | hview
      · exact hm.resolve_left hs
      · exact hv.resolve_left hview
  · obtain ⟨hc, -⟩ := judgeRequest_cases.2 hj
    obtain ⟨-, hm, -⟩ := grantConditions_eq hc
    exact ⟨rfl, rfl, hm⟩

/-! ### The run law -/

theorem State.runLaw_core (s : State) : s.RunLaw ↔ s.core.RunLaw :=
  ⟨fun h => ⟨h.refs, h.apart, h.streams, h.multiplex⟩, fun h => ⟨h.refs, h.apart, h.streams, h.multiplex⟩⟩

/-- Tuner records that carry the same runs. -/
theorem State.RunLaw.of_carries {s t : State} (h : s.RunLaw) (hruns : t.run.runs = s.run.runs)
    (hwaiting : t.run.waiting = s.run.waiting) (htun : ∀ T, (s.tun.get T).Carries (t.tun.get T)) : t.RunLaw where
  refs := hruns ▸ h.refs
  apart := by rw [hruns, hwaiting]; exact h.apart
  streams T := by rw [(htun T).streams, hruns]; exact h.streams T
  multiplex r hr := by
    rw [hruns] at hr
    refine ((htun r.tuner).multiplex ?_).trans (h.multiplex r hr)
    rw [h.streams, ← List.countP_eq_length_filter, ← Nat.pos_iff_ne_zero, List.countP_pos_iff]
    exact ⟨r, hr, by simp⟩

/-- Of runs with refs of their own, a release removes the one of its ref. -/
theorem runs_without_ref {rs : List ActiveRun} {x : ActiveRun} (hn : (rs.map ActiveRun.ref).Nodup) (hx : x ∈ rs) :
    ∃ l₁ l₂, rs = l₁ ++ x :: l₂ ∧ rs.filter (fun y => y.ref ≠ x.ref) = l₁ ++ l₂ := by
  obtain ⟨l₁, l₂, rfl⟩ := List.append_of_mem hx
  refine ⟨l₁, l₂, rfl, ?_⟩
  simp only [List.map_append, List.map_cons, List.nodup_middle, List.nodup_cons, List.mem_append, List.mem_map, not_or,
    not_exists, not_and] at hn
  obtain ⟨⟨h₁, h₂⟩, -⟩ := hn
  simp only [List.filter_append, List.filter_cons, ne_eq, not_true, decide_false, Bool.false_eq_true, if_false]
  rw [List.filter_eq_self.2 fun y hy => by simpa using h₁ y hy, List.filter_eq_self.2 fun y hy => by simpa using h₂ y hy]

theorem State.RunLaw.release {s : State} {r : ActiveRun} (h : s.RunLaw) (hr : s.Active r) : (s.releaseRun r).RunLaw := by
  obtain ⟨x, hx, href, htuner, hmultiplex⟩ := hr
  obtain ⟨l₁, l₂, hruns, hleft⟩ := runs_without_ref h.refs hx
  rw [href] at hleft
  have hsub : (s.releaseRun r).run.runs.Sublist s.run.runs := List.filter_sublist
  have hcount (T : Tuner) : (s.tun.get T).streams
      = ((s.releaseRun r).run.runs.filter fun y => y.tuner = T).length + if r.tuner = T then 1 else 0 := by
    rw [h.streams T]
    change _ = ((s.run.runs.filter fun y => y.ref ≠ r.ref).filter fun y => y.tuner = T).length + _
    rw [hleft, hruns, ← htuner]
    by_cases hT : x.tuner = T <;> simp [hT, Nat.add_assoc]
  have hstreams (T : Tuner) : ((s.releaseRun r).tun.get T).streams
      = ((s.releaseRun r).run.runs.filter fun y => y.tuner = T).length := by
    by_cases hT : T = r.tuner
    · subst hT
      have hc := hcount r.tuner
      rw [if_pos rfl] at hc
      change ((s.tun.set r.tuner (s.tun.get r.tuner).releaseStream).get r.tuner).streams = _
      rw [Tun.get_set_same, TunerRec.releaseStream_streams]
      exact Nat.sub_eq_of_eq_add hc
    · have hc := hcount T
      rw [if_neg (Ne.symm hT)] at hc
      change ((s.tun.set r.tuner _).get T).streams = _
      rw [Tun.get_set_ne _ hT]
      exact hc
  refine ⟨h.refs.sublist (hsub.map _), fun e he y hy => h.apart e he y (hsub.subset hy), hstreams, fun y hy => ?_⟩
  have hpos : ((s.releaseRun r).tun.get y.tuner).streams ≠ 0 := by
    rw [hstreams, ← List.countP_eq_length_filter, ← Nat.pos_iff_ne_zero, List.countP_pos_iff]
    exact ⟨y, hy, by simp⟩
  refine Eq.trans ?_ (h.multiplex y (hsub.subset hy))
  change ((s.tun.set r.tuner (s.tun.get r.tuner).releaseStream).get y.tuner).streams ≠ 0 at hpos
  change ((s.tun.set r.tuner (s.tun.get r.tuner).releaseStream).get y.tuner).multiplex = _
  by_cases hT : y.tuner = r.tuner
  · rw [hT, Tun.get_set_same, TunerRec.releaseStream_streams] at hpos
    rw [hT, Tun.get_set_same, TunerRec.releaseStream_multiplex hpos]
  · rw [Tun.get_set_ne _ hT]

theorem State.RunLaw.start {s : State} {e : WaitingEntry} {r : ActiveRun} {new : TunerRec} (h : s.RunLaw)
    (he : e ∈ s.run.waiting) (href : r.ref = e.ref) (hstarts : s.Starts r new) :
    State.RunLaw { s with
      tun := s.tun.set r.tuner new
      run := { s.run with waiting := s.run.waiting.filter fun x => x.ref ≠ e.ref, runs := s.run.runs ++ [r] } } := by
  obtain ⟨hstreams, hmultiplex, hbefore⟩ := hstarts.record
  constructor
  case refs =>
    simp only [List.map_append, List.map_cons, List.map_nil]
    refine List.nodup_append.2 ⟨h.refs, List.nodup_singleton _, fun a ha b hb => ?_⟩
    obtain ⟨x, hx, rfl⟩ := List.mem_map.1 ha
    rw [List.mem_singleton.1 hb, href]
    exact (h.apart e he x hx).symm
  case apart =>
    intro e' he' x hx
    obtain ⟨hwaits, hne⟩ := List.mem_filter.1 he'
    rcases List.mem_append.1 hx with hx | hx
    · exact h.apart e' hwaits x hx
    · rw [List.mem_singleton.1 hx, href]
      simpa using hne
  case streams =>
    intro T
    simp only [List.filter_append, List.length_append]
    by_cases hT : T = r.tuner
    · subst hT
      rw [Tun.get_set_same, hstreams, h.streams]
      simp
    · rw [Tun.get_set_ne _ hT, h.streams]
      simp [Ne.symm hT]
  case multiplex =>
    intro x hx
    rcases List.mem_append.1 hx with hx | hx
    · by_cases hT : x.tuner = r.tuner
      · have hbusy : (s.tun.get r.tuner).streams ≠ 0 := by
          rw [h.streams, ← List.countP_eq_length_filter, ← Nat.pos_iff_ne_zero, List.countP_pos_iff]
          exact ⟨x, hx, by simp [hT]⟩
        have hkept := h.multiplex x hx
        rw [hT] at hkept
        simp only
        rw [hT, Tun.get_set_same, hmultiplex, ← hkept]
        exact (hbefore.resolve_left hbusy).symm
      · simp only
        rw [Tun.get_set_ne _ hT]
        exact h.multiplex x hx
    · rw [List.mem_singleton.1 hx]
      simp only
      rw [Tun.get_set_same, hmultiplex]

theorem State.RunLaw.revise {s : State} {rs : List ActiveRun} (h : s.RunLaw)
    (hk : rs.map ActiveRun.key = s.run.runs.map ActiveRun.key) :
    State.RunLaw { s with run := { s.run with runs := rs } } := by
  have hmem {r : ActiveRun} (hr : r ∈ rs) : ∃ x ∈ s.run.runs, x.key = r.key :=
    List.mem_map.1 (hk ▸ List.mem_map_of_mem hr)
  have hrefs : rs.map ActiveRun.ref = s.run.runs.map ActiveRun.ref := by
    have := congrArg (List.map Prod.fst) hk
    rwa [List.map_map, List.map_map] at this
  have hcount (T : Tuner) : (rs.filter fun r => r.tuner = T).length = (s.run.runs.filter fun r => r.tuner = T).length := by
    have := congrArg (List.countP fun k => k.2.1 = T) hk
    rwa [List.countP_map, List.countP_map, List.countP_eq_length_filter, List.countP_eq_length_filter] at this
  constructor
  case refs => exact hrefs ▸ h.refs
  case apart =>
    intro e he r hr
    obtain ⟨x, hx, hxr⟩ := hmem hr
    have href : x.ref = r.ref := congrArg Prod.fst hxr
    exact href ▸ h.apart e he x hx
  case streams => exact fun T => (h.streams T).trans (hcount T).symm
  case multiplex =>
    intro r hr
    obtain ⟨x, hx, hxr⟩ := hmem hr
    have hm := h.multiplex x hx
    rw [ActiveRun.key, ActiveRun.key, Prod.mk.injEq, Prod.mk.injEq] at hxr
    obtain ⟨-, htuner, hmultiplex⟩ := hxr
    rwa [htuner, hmultiplex] at hm

theorem State.RunLaw.of_reset : State.reset.RunLaw :=
  ⟨List.nodup_nil, List.forall_mem_nil _, fun T => by cases T <;> rfl, List.forall_mem_nil _⟩

theorem Move.runLaw {Q : Prop} {s t : State} (m : Move Q s t) (h : s.RunLaw) : t.RunLaw := by
  have kept {t : State} (hr : t.run = s.run := by rfl) (ht : t.tun = s.tun := by rfl) : t.RunLaw :=
    h.of_carries (congrArg _ hr) (congrArg _ hr) fun T => ht ▸ TunerRec.Carries.refl _
  cases m with
  | idle => exact kept
  | replan => exact kept
  | publish => exact kept
  | thin w hw =>
    refine ⟨h.refs, fun e he r hr => ?_, h.streams, h.multiplex⟩
    obtain ⟨x, hx, hxe⟩ := List.mem_map.1 (hw.subset (List.mem_map_of_mem he))
    exact hxe ▸ h.apart x hx r hr
  | rebuild w hlength hapart => exact ⟨h.refs, hapart, h.streams, h.multiplex⟩
  | revise rs hk => exact h.revise (hk h.refs)
  | release r hr => exact h.release hr
  | start e r new he href hs => exact h.start he href hs
  | unview T => exact h.of_carries rfl rfl (Tun.set_carries (TunerRec.releaseViewer_carries _))
  | view T joined service m f hv => exact h.of_carries rfl rfl (Tun.viewed_carries _ _ _ _ _)
  | unwarn => exact h.of_carries rfl rfl fun T => by cases T <;> exact TunerRec.Carries.refl _
  | warn ref hw => exact h.of_carries rfl rfl fun T => by cases T <;> exact TunerRec.Carries.refl _
  | resolve => exact kept
  | defer => exact kept
  | apply g t hruns hg ht =>
    rcases ht with ⟨rfl, -⟩ | rfl
    · exact kept
    · exact h.of_carries rfl rfl (Tun.set_carries (T := .B) (TunerRec.releaseViewer_carries _))
  | adopt => exact kept

/-- Settles O58: every move keeps the law, and every step is a chain of moves. -/
theorem everyStepKeepsRunsOnTheirTuners : Obligations.EveryStepKeepsRunsOnTheirTuners :=
  fun _ _ h hstep => step_keeps (Q := False) State.runLaw_core (fun _ _ => Move.runLaw) State.RunLaw.of_reset
    False.elim hstep h

end Sys2Proof.Machine

/-! PROOFS. The planner: what a placement is, the windows of the plan's entries (law 5), and the plan within the tuners. -/

namespace Sys2Proof.Machine

/-! ### Folds, sets of instants and segments -/

theorem foldl_max_le (xs : List Nat) (a c : Nat) : xs.foldl max a ≤ c ↔ a ≤ c ∧ ∀ x ∈ xs, x ≤ c := by
  induction xs generalizing a with
  | nil => simp
  | cons x xs ih => simp [ih, and_assoc]

theorem le_foldl_min (xs : List Nat) (a c : Nat) : c ≤ xs.foldl min a ↔ c ≤ a ∧ ∀ x ∈ xs, c ≤ x := by
  induction xs generalizing a with
  | nil => simp
  | cons x xs ih => simp [ih, and_assoc]

theorem mem_natSet (y : Nat) (xs : List Nat) : y ∈ natSet xs ↔ y ∈ xs := by
  induction xs with
  | nil => simp [natSet]
  | cons x xs ih =>
    rw [natSet, List.foldr_cons, mem_insertNat, ← natSet, ih, List.mem_cons]

theorem insertNat_sorted {x : Nat} {l : List Nat} (h : l.Pairwise (· < ·)) : (insertNat x l).Pairwise (· < ·) := by
  induction l with
  | nil => exact List.pairwise_singleton _ _
  | cons y ys ih =>
    obtain ⟨hy, hys⟩ := List.pairwise_cons.1 h
    unfold insertNat
    split
    case isTrue hxy => exact List.pairwise_cons.2 ⟨fun z hz => (List.mem_cons.1 hz).elim (· ▸ hxy) fun hz => hxy.trans (hy z hz), h⟩
    case isFalse hxy =>
      split
      case isTrue => exact h
      case isFalse hne =>
        refine List.pairwise_cons.2 ⟨fun z hz => ?_, ih hys⟩
        rcases (mem_insertNat x z ys).1 hz with rfl | hz
        · omega
        · exact hy z hz

theorem natSet_sorted (xs : List Nat) : (natSet xs).Pairwise (· < ·) := by
  induction xs with
  | nil => exact List.Pairwise.nil
  | cons x xs ih => exact insertNat_sorted ih

/-- The segments of an ascending list cover what lies between two of its members, and no member lies inside one. -/
theorem segments_cover {l : List Nat} (hl : l.Pairwise (· < ·)) {t a b : Nat} (ha : a ∈ l) (hat : a ≤ t) (hb : b ∈ l)
    (hbt : t < b) : ∃ s ∈ segments l, s.1 ≤ t ∧ t < s.2 ∧ s.1 ∈ l ∧ s.2 ∈ l ∧ ∀ y ∈ l, y ≤ s.1 ∨ s.2 ≤ y := by
  induction l generalizing a with
  | nil => cases ha
  | cons x l ih =>
    obtain ⟨hx, hl'⟩ := List.pairwise_cons.1 hl
    cases l with
    | nil =>
      rw [List.mem_singleton] at ha hb
      omega
    | cons y rest =>
      by_cases hty : t < y
      · have hxt : x ≤ t := (List.mem_cons.1 ha).elim (· ▸ hat) fun ha => (hx a ha).le.trans hat
        refine ⟨(x, y), List.mem_cons_self, hxt, hty, List.mem_cons_self, List.mem_cons_of_mem _ List.mem_cons_self, ?_⟩
        rintro z hz
        rcases List.mem_cons.1 hz with rfl | hz
        · exact .inl (Nat.le_refl _)
        · rcases List.mem_cons.1 hz with rfl | hz
          · exact .inr (Nat.le_refl _)
          · exact .inr ((List.pairwise_cons.1 hl').1 z hz).le
      · have hyt := Nat.le_of_not_lt hty
        have hb' : b ∈ y :: rest := (List.mem_cons.1 hb).resolve_left fun hbx => by
          have := hx y List.mem_cons_self
          omega
        obtain ⟨s, hs, hst, hts, h1, h2, hgap⟩ := ih hl' List.mem_cons_self hyt hb'
        refine ⟨s, List.mem_cons_of_mem _ hs, hst, hts, List.mem_cons_of_mem _ h1, List.mem_cons_of_mem _ h2, fun z hz => ?_⟩
        rcases List.mem_cons.1 hz with rfl | hz
        · have hxy := hx y List.mem_cons_self
          have hy := hgap y List.mem_cons_self
          omega
        · exact hgap z hz

/-! ### Feasibility between boundaries -/

/-- Between two neighbouring boundaries of a window the profiles do not change (R72). -/
theorem profile_between {ps : List Placed} {ws we t : Nat} (hws : ws ≤ t) (hwe : t < we) :
    ∃ s ∈ segments (boundaries ps ws we), s.1 ≤ t ∧ t < s.2 ∧ ∀ T, profile ps T t = profile ps T s.1 := by
  have hmem (y : Nat) : y ∈ boundaries ps ws we
      ↔ (y = ws ∨ y = we ∨ ∃ p ∈ ps, y = p.entry.wstart ∨ y = p.entry.wend) ∧ ws ≤ y ∧ y ≤ we := by
    simp [boundaries, mem_natSet]
  obtain ⟨s, hs, hst, hts, hmem1, hmem2, hgap⟩ := segments_cover (natSet_sorted _)
    ((hmem ws).2 ⟨.inl rfl, Nat.le_refl _, by omega⟩) hws ((hmem we).2 ⟨.inr (.inl rfl), by omega, Nat.le_refl _⟩) hwe
  refine ⟨s, hs, hst, hts, fun T => List.filter_congr fun p hp => ?_⟩
  obtain ⟨-, hlow, -⟩ := (hmem s.1).1 hmem1
  obtain ⟨-, -, hhigh⟩ := (hmem s.2).1 hmem2
  have apart (y : Nat) (hy : y = p.entry.wstart ∨ y = p.entry.wend) : y ≤ s.1 ∨ s.2 ≤ y := by
    by_cases hin : ws ≤ y ∧ y ≤ we
    · exact hgap y ((hmem y).2 ⟨.inr (.inr ⟨p, hp, hy⟩), hin⟩)
    · omega
  have hstart := apart _ (.inl rfl)
  have hend := apart _ (.inr rfl)
  have h1 : p.entry.wstart ≤ t ↔ p.entry.wstart ≤ s.1 := by omega
  have h2 : t < p.entry.wend ↔ s.1 < p.entry.wend := by omega
  simp only [Placed.presentOn, h1, h2]

/-- Outside the blocked segments of a window the tuner is feasible (R76). -/
theorem feasibleAt_of_unblocked {g : TunerGroup} {ps : List Placed} {T : Tuner} {m f ws we t : Nat} (hws : ws ≤ t) (hwe : t < we)
    (h : ∀ s ∈ blockedSegments g ps T m f ws we, ¬ (s.1 ≤ t ∧ t < s.2)) : feasibleAt g ps T m f t = true := by
  obtain ⟨s, hs, hst, hts, hprofile⟩ := profile_between (ps := ps) hws hwe
  have hfeasible : feasibleAt g ps T m f t = feasibleAt g ps T m f s.1 := by simp only [feasibleAt, hprofile]
  rw [hfeasible]
  by_contra hblocked
  exact h s (List.mem_filter.2 ⟨hs, by simpa using hblocked⟩) ⟨hst, hts⟩

/-- What the attempts of a showing find (R75, R76): a window within the showing's, at each of whose instants the tuner is
feasible; the whole of it, or one that reaches over the core. -/
structure FoundFor (sn : Snapshot) (ps : List Placed) (w : Windows) (sv : ServiceRec) (r : Found) : Prop where
  padded : r.trimmed = false → r.ws = w.ws ∧ r.we = w.we
  within : w.ws ≤ r.ws ∧ r.we ≤ w.we
  core : r.trimmed = true → (w.ws ≤ w.cs → r.ws ≤ w.cs) ∧ (w.ce ≤ w.we → w.ce ≤ r.we)
  feasible : ∀ t, r.ws ≤ t → t < r.we → feasibleAt sn.tuner ps r.tuner sv.multiplex sv.feed t = true

theorem tryPadded_found {sn : Snapshot} {ps : List Placed} {w : Windows} {sv : ServiceRec} {T : Tuner} {r : Found}
    (h : tryPadded sn ps w sv.multiplex sv.feed T = some r) : FoundFor sn ps w sv r := by
  unfold tryPadded at h
  split at h
  case isTrue hb =>
    cases h
    refine ⟨fun _ => ⟨rfl, rfl⟩, ⟨Nat.le_refl _, Nat.le_refl _⟩, nofun, fun t hws hwe => feasibleAt_of_unblocked hws hwe ?_⟩
    rw [List.isEmpty_iff.1 hb]
    exact List.forall_mem_nil _
  case isFalse => cases h

theorem tryTrimmed_found {sn : Snapshot} {ps : List Placed} {w : Windows} {sv : ServiceRec} {T : Tuner} {r : Found}
    (h : tryTrimmed sn ps w sv.multiplex sv.feed T = some r) : FoundFor sn ps w sv r := by
  unfold tryTrimmed at h
  simp only at h
  split at h
  case isTrue => cases h
  case isFalse hcore =>
    simp only [List.any_eq_true, Bool.and_eq_true, decide_eq_true_eq, not_exists, not_and] at hcore
    have hstart := (foldl_max_le (((blockedSegments sn.tuner ps T sv.multiplex sv.feed w.ws w.we).map Prod.snd).filter
      fun e => e ≤ w.cs) w.ws _).1 (Nat.le_refl _)
    have hend := (le_foldl_min (((blockedSegments sn.tuner ps T sv.multiplex sv.feed w.ws w.we).map Prod.fst).filter
      fun b => w.ce ≤ b) w.we _).1 (Nat.le_refl _)
    cases h
    refine ⟨nofun, ⟨hstart.1, hend.1⟩, fun _ => ⟨fun hw => ?_, fun hw => ?_⟩, fun t hws hwe =>
      feasibleAt_of_unblocked (hstart.1.trans hws) (hwe.trans_le hend.1) fun s hs hts => ?_⟩
    · exact (foldl_max_le _ _ _).2 ⟨hw, fun x hx => by simpa using (List.mem_filter.1 hx).2⟩
    · exact (le_foldl_min _ _ _).2 ⟨hw, fun x hx => by simpa using (List.mem_filter.1 hx).2⟩
    · by_cases hce : s.1 < w.ce
      · have hcs := hcore s hs hce
        have := hstart.2 s.2 (List.mem_filter.2 ⟨List.mem_map_of_mem hs, by simpa using hcs⟩)
        exact absurd (this.trans hws) (Nat.not_le.2 hts.2)
      · have := hend.2 s.1 (List.mem_filter.2 ⟨List.mem_map_of_mem hs, by simpa using hce⟩)
        exact absurd (hwe.trans_le this) (Nat.not_lt.2 hts.1)

theorem tryShowing_found {sn : Snapshot} {ps : List Placed} {w : Windows} {sv : ServiceRec} {r : Found}
    (h : tryShowing sn ps w sv = some r) : FoundFor sn ps w sv r := by
  unfold tryShowing at h
  simp only at h
  split at h
  case h_1 r' hpadded =>
    cases h
    obtain ⟨T, -, hT⟩ := List.exists_of_findSome?_eq_some hpadded
    exact tryPadded_found hT
  case h_2 =>
    obtain ⟨T, -, hT⟩ := List.exists_of_findSome?_eq_some h
    exact tryTrimmed_found hT

/-! ### Placements -/

/-- A candidate's entry on a tuner: its showing or one of its alternates, in a window that was found for it (R75 to R78). -/
structure Placement (sn : Snapshot) (ps : List Placed) (c : Candidate) (p : Placed) : Prop where
  shown : ∃ sh ∈ c.showing :: c.alternates, ∃ sv r, FoundFor sn ps (sn.windows c.prePad c.postPad sh) sv r
    ∧ p.multiplex = sv.multiplex ∧ p.feed = sv.feed
    ∧ p.entry = entryFor c sh (sn.windows c.prePad c.postPad sh) p.entry.ref p.entry.status r
    ∧ (p.entry.status = .trimmed ∧ r.trimmed = true
      ∨ p.entry.status = .placed ∧ r.trimmed = false ∧ sh = c.showing ∧ p.entry.ref = c.ref
      ∨ p.entry.status = .moved ∧ r.trimmed = false ∧ sh ∈ c.alternates)

theorem tryAlternates_placement {sn : Snapshot} {b : Building} {c : Candidate} {shs : List Showing} {p : Placed}
    (hshs : ∀ sh ∈ shs, sh ∈ c.alternates) (h : tryAlternates sn b c shs = some p) : Placement sn b.placed c p := by
  induction shs with
  | nil => cases h
  | cons sh rest ih =>
    have hrest := ih fun x hx => hshs x (List.mem_cons_of_mem _ hx)
    have hsh := hshs sh List.mem_cons_self
    unfold tryAlternates at h
    simp only at h
    split at h
    case isTrue => exact hrest h
    case isFalse =>
      split at h
      case h_1 => exact hrest h
      case h_2 sv _ =>
        split at h
        case h_2 => exact hrest h
        case h_1 r hr =>
          cases h
          refine ⟨sh, List.mem_cons_of_mem _ hsh, sv, r, tryShowing_found hr, rfl, rfl, rfl, ?_⟩
          by_cases ht : r.trimmed = true
          · exact .inl ⟨if_pos ht, ht⟩
          · exact .inr (.inr ⟨if_neg ht, Bool.eq_false_iff.2 ht, hsh⟩)

/-- What one candidate does to the plan under construction (R71, R75 to R79). -/
theorem placeCandidate_cases (sn : Snapshot) (b : Building) (c : Candidate) :
    ((placeCandidate sn b c).placed = b.placed)
    ∨ (b.placed.length < Config.planCap ∧ ∃ p, Placement sn b.placed c p ∧ (placeCandidate sn b c).placed = b.placed ++ [p])
    ∨ (b.placed.length < Config.planCap
      ∧ placeCandidate sn b c = clashOf b c (sn.windows c.prePad c.postPad c.showing)) := by
  unfold placeCandidate
  split
  case isTrue => exact .inl rfl
  case isFalse hroom =>
    have hroom := Nat.lt_of_not_le hroom
    simp only
    split
    case h_1 => exact .inl rfl
    case h_2 sv _ =>
      split
      case h_1 r hr =>
        refine .inr (.inl ⟨hroom, _, ⟨c.showing, List.mem_cons_self, sv, r, tryShowing_found hr, rfl, rfl, rfl, ?_⟩, rfl⟩)
        by_cases ht : r.trimmed = true
        · exact .inl ⟨if_pos ht, ht⟩
        · exact .inr (.inl ⟨if_neg ht, Bool.eq_false_iff.2 ht, rfl, rfl⟩)
      case h_2 =>
        split
        case h_1 p hp => exact .inr (.inl ⟨hroom, p, tryAlternates_placement (fun _ h => h) hp, rfl⟩)
        case h_2 => exact .inr (.inr ⟨hroom, rfl⟩)

/-- What holds of the pinned entries, and what every candidate keeps, holds of the plan built on them. -/
theorem Snapshot.build_keeps {sn : Snapshot} {P : List Placed → Prop} (hpins : P sn.pins)
    (hplace : ∀ b : Building, ∀ c ∈ sn.candidates, P b.placed → P (placeCandidate sn b c).placed) : P sn.build.placed := by
  have fold (cs : List Candidate) (hcs : ∀ c ∈ cs, c ∈ sn.candidates) (b : Building) (hb : P b.placed) :
      P (cs.foldl (placeCandidate sn) b).placed := by
    induction cs generalizing b with
    | nil => exact hb
    | cons c cs ih =>
      exact ih (fun x hx => hcs x (List.mem_cons_of_mem _ hx)) _ (hplace b c (hcs c List.mem_cons_self) hb)
  exact fold _ (fun c hc => (List.mem_filter.1 ((sortBy_perm _ _).mem_iff.1 hc)).1) _ hpins

theorem Snapshot.mem_plan_entries {sn : Snapshot} {e : PlanEntry} :
    e ∈ sn.plan.entries ↔ ∃ p ∈ sn.build.placed, p.entry = e := by
  rw [Snapshot.plan, (sortBy_perm _ _).mem_iff, List.mem_map]

/-- The plan holds no more than its table does (R71, R80). -/
theorem Snapshot.length_plan_entries {sn : Snapshot} (h : sn.pinned.length ≤ 256) : sn.plan.entries.length ≤ 256 := by
  rw [Snapshot.plan, (sortBy_perm _ _).length_eq, List.length_map]
  refine Snapshot.build_keeps (P := fun ps => ps.length ≤ 256) ?_ fun b c _ hb => ?_
  · rwa [Snapshot.pins, List.length_map, (sortBy_perm _ _).length_eq]
  · rcases placeCandidate_cases sn b c with hp | ⟨hroom, p, -, hp⟩ | ⟨hroom, hp⟩
    · rwa [hp]
    · rw [hp, List.length_append]
      exact hroom
    · rw [hp]
      change (b.placed ++ [_]).length ≤ _
      rw [List.length_append]
      exact hroom

/-! ### The windows of the entries -/

theorem Snapshot.windows_core (sn : Snapshot) (pre post : Option Nat) (sh : Showing) :
    (sn.windows pre post sh).ws ≤ (sn.windows pre post sh).cs ∧ (sn.windows pre post sh).ce ≤ (sn.windows pre post sh).we := by
  simp only [Snapshot.windows, satAdd]
  omega

/-- Law 5 of one entry of a snapshot's plan (R70, R75 to R79). -/
structure FollowsShowing (sn : Snapshot) (e : PlanEntry) : Prop where
  placed : e.status = .placed → ∃ c ∈ sn.candidates, e.ref = c.ref
    ∧ e.wstart = (sn.windows c.prePad c.postPad c.showing).ws ∧ e.wend = (sn.windows c.prePad c.postPad c.showing).we
  moved : e.status = .moved → ∃ c ∈ sn.candidates, ∃ sh ∈ c.alternates, e.showing = sh.event
    ∧ e.wstart = (sn.windows c.prePad c.postPad sh).ws ∧ e.wend = (sn.windows c.prePad c.postPad sh).we
  trimmed : e.status = .trimmed → ∃ c ∈ sn.candidates, ∃ sh ∈ c.showing :: c.alternates,
    let w := sn.windows c.prePad c.postPad sh
    e.showing = sh.event ∧ w.ws ≤ e.wstart ∧ e.wstart ≤ w.cs ∧ w.ce ≤ e.wend ∧ e.wend ≤ w.we
  pinned : e.status = .pinned → ∃ p ∈ sn.pinned, e.ref = p.run.ref ∧ e.wstart = p.run.actualStart
  clash : e.status = .clash → e.tuner = none

theorem pinEntry_follows {sn : Snapshot} {p : PinnedRun} (hp : p ∈ sn.pinned) : FollowsShowing sn (pinEntry sn p).entry := by
  have hfields : (pinEntry sn p).entry.status = .pinned ∧ (pinEntry sn p).entry.ref = p.run.ref
      ∧ (pinEntry sn p).entry.wstart = p.run.actualStart := by
    unfold pinEntry
    simp only
    split <;> exact ⟨rfl, rfl, rfl⟩
  obtain ⟨hstatus, href, hstart⟩ := hfields
  constructor <;> rw [hstatus] <;> intro h
  case pinned => exact ⟨p, hp, href, hstart⟩
  all_goals cases h

theorem Placement.follows {sn : Snapshot} {ps : List Placed} {c : Candidate} {p : Placed} (hc : c ∈ sn.candidates)
    (h : Placement sn ps c p) : FollowsShowing sn p.entry := by
  obtain ⟨sh, hsh, sv, r, hfound, -, -, hentry, hstatus⟩ := h.shown
  have hshowing : p.entry.showing = sh.event := by rw [hentry]; rfl
  have hws : p.entry.wstart = r.ws := by rw [hentry]; rfl
  have hwe : p.entry.wend = r.we := by rw [hentry]; rfl
  obtain ⟨hcore, hcore'⟩ := sn.windows_core c.prePad c.postPad sh
  rcases hstatus with ⟨hs, ht⟩ | ⟨hs, ht, rfl, href⟩ | ⟨hs, ht, halt⟩
  · constructor <;> rw [hs] <;> intro h
    case trimmed =>
      rw [hws, hwe]
      exact ⟨c, hc, sh, hsh, hshowing, hfound.within.1, (hfound.core ht).1 hcore, (hfound.core ht).2 hcore', hfound.within.2⟩
    all_goals cases h
  · constructor <;> rw [hs] <;> intro h
    case placed => exact ⟨c, hc, href, hws.trans (hfound.padded ht).1, hwe.trans (hfound.padded ht).2⟩
    all_goals cases h
  · constructor <;> rw [hs] <;> intro h
    case moved => exact ⟨c, hc, sh, halt, hshowing, hws.trans (hfound.padded ht).1, hwe.trans (hfound.padded ht).2⟩
    all_goals cases h

theorem Snapshot.build_follows (sn : Snapshot) : ∀ p ∈ sn.build.placed, FollowsShowing sn p.entry := by
  refine Snapshot.build_keeps (P := fun ps => ∀ p ∈ ps, FollowsShowing sn p.entry) ?_ fun b c hc hb => ?_
  · intro p hp
    obtain ⟨q, hq, rfl⟩ := List.mem_map.1 hp
    exact pinEntry_follows ((sortBy_perm _ _).mem_iff.1 hq)
  · have added {q : Placed} (hq : FollowsShowing sn q.entry) : ∀ p ∈ b.placed ++ [q], FollowsShowing sn p.entry := by
      intro p hp
      rcases List.mem_append.1 hp with hp | hp
      · exact hb p hp
      · rwa [List.mem_singleton.1 hp]
    rcases placeCandidate_cases sn b c with hp | ⟨-, q, hq, hp⟩ | ⟨-, hp⟩
    · rwa [hp]
    · rw [hp]
      exact added (hq.follows hc)
    · rw [hp]
      exact added ⟨nofun, nofun, nofun, nofun, fun _ => rfl⟩

/-- Settles O42: pinned entries and clashes have their form, and every placement was found in its showing's window. -/
theorem planWindowsFollowTheShowings : Obligations.PlanWindowsFollowTheShowings := by
  intro sn e he
  obtain ⟨p, hp, rfl⟩ := Snapshot.mem_plan_entries.1 he
  obtain ⟨hplaced, hmoved, htrimmed, hpinned, hclash⟩ := sn.build_follows p hp
  exact ⟨hplaced, hmoved, htrimmed, hpinned, hclash⟩

/-! ### The plan within the tuners -/

theorem profile_append (ps : List Placed) (q : Placed) (T : Tuner) (t : Nat) :
    profile (ps ++ [q]) T t = profile ps T t ++ if q.presentOn T t then [q] else [] := by
  simp only [profile, List.filter_append, List.filter_cons, List.filter_nil]

/-- The four conditions of R73, read off. -/
theorem feasibleAt_eq {g : TunerGroup} {ps : List Placed} {T : Tuner} {m f t : Nat} (h : feasibleAt g ps T m f t = true) :
    (∀ p ∈ profile ps T t, p.multiplex = m) ∧ (profile ps T t).length < g.perTuner
      ∧ (profile ps .A t).length + (profile ps .B t).length < g.cap
      ∧ (g.mode = .twinLooped → ∀ p ∈ profile ps (otherTuner T) t, p.feed = f) := by
  simp only [feasibleAt, Bool.and_eq_true, Bool.or_eq_true, List.all_eq_true, decide_eq_true_eq] at h
  obtain ⟨⟨⟨hm, hper⟩, htotal⟩, hloop⟩ := h
  refine ⟨hm, hper, ?_, fun hmode => hloop.resolve_left (not_not.2 hmode)⟩
  cases T
  · exact htotal
  · rwa [Nat.add_comm] at htotal

/-- An entry present at no instant changes no profile. -/
theorem withinTuners.append_absent {g : TunerGroup} {ps : List Placed} {q : Placed} {t : Nat} (h : withinTuners g ps t)
    (hq : ∀ T, q.presentOn T t = false) : withinTuners g (ps ++ [q]) t := by
  have hprofile (T : Tuner) : profile (ps ++ [q]) T t = profile ps T t := by
    rw [profile_append, hq T]
    exact List.append_nil _
  simpa only [withinTuners, hprofile] using h

/-- An entry put where its tuner is feasible keeps the plan within the tuners (R73). -/
theorem withinTuners.append_feasible {g : TunerGroup} {ps : List Placed} {q : Placed} {T : Tuner} {t : Nat}
    (h : withinTuners g ps t) (htuner : ∀ T', T' ≠ T → q.presentOn T' t = false)
    (hfeasible : feasibleAt g ps T q.multiplex q.feed t = true) : withinTuners g (ps ++ [q]) t := by
  obtain ⟨hper, hmultiplex, htotal, hloop⟩ := h
  obtain ⟨hm, hroom, hcap, hfeed⟩ := feasibleAt_eq hfeasible
  have hother {T' : Tuner} (hT : T' ≠ T) : profile (ps ++ [q]) T' t = profile ps T' t := by
    rw [profile_append, htuner T' hT]
    exact List.append_nil _
  have hlength : (profile (ps ++ [q]) T t).length ≤ (profile ps T t).length + 1 := by
    rw [profile_append, List.length_append]
    split <;> simp
  have hmem {p : Placed} (hp : p ∈ profile (ps ++ [q]) T t) : p ∈ profile ps T t ∨ p = q := by
    rw [profile_append, List.mem_append] at hp
    refine hp.imp_right fun hp => ?_
    split at hp
    · exact List.mem_singleton.1 hp
    · cases hp
  refine ⟨fun T' => ?_, fun T' p hp p' hp' => ?_, ?_, fun hmode => ?_⟩
  · by_cases hT : T' = T
    · subst hT
      omega
    · rw [hother hT]
      exact hper T'
  · by_cases hT : T' = T
    · subst hT
      have hsame {p : Placed} (hp : p ∈ profile (ps ++ [q]) T' t) : p.multiplex = q.multiplex :=
        (hmem hp).elim (hm p) (congrArg _)
      rw [hsame hp, hsame hp']
    · rw [hother hT] at hp hp'
      exact hmultiplex T' p hp p' hp'
  · cases T
    · rw [hother (T' := .B) nofun]
      omega
    · rw [hother (T' := .A) nofun]
      omega
  · have hlooped := hfeed hmode
    have hbefore := hloop hmode
    cases T
    · rw [hother (T' := .B) nofun]
      intro p hp p' hp'
      rcases hmem hp with hp | rfl
      · exact hbefore p hp p' hp'
      · exact (hlooped p' hp').symm
    · rw [hother (T' := .A) nofun]
      intro p hp p' hp'
      rcases hmem hp' with hp' | rfl
      · exact hbefore p hp p' hp'
      · exact hlooped p hp

/-- A placement is present on its tuner alone, within the window found for it. -/
theorem Placement.presentOn {sn : Snapshot} {ps : List Placed} {c : Candidate} {p : Placed} (h : Placement sn ps c p) :
    ∃ T ws we, (∀ T' t, p.presentOn T' t = true → T' = T ∧ ws ≤ t ∧ t < we)
      ∧ ∀ t, ws ≤ t → t < we → feasibleAt sn.tuner ps T p.multiplex p.feed t = true := by
  obtain ⟨sh, -, sv, r, hfound, hm, hf, hentry, -⟩ := h.shown
  refine ⟨r.tuner, r.ws, r.we, fun T' t hp => ?_, ?_⟩
  · simp only [Placed.presentOn, Bool.and_eq_true, decide_eq_true_eq] at hp
    obtain ⟨⟨⟨-, htuner⟩, hws⟩, hwe⟩ := hp
    rw [hentry] at htuner hws hwe
    exact ⟨(Option.some.inj htuner).symm, hws, hwe⟩
  · rw [hm, hf]
    exact hfound.feasible

/-- Settles O43: every placement is feasible at each instant it is present, and a clash is present at none. -/
theorem planNeverExceedsTheTuners : Obligations.PlanNeverExceedsTheTuners := by
  intro sn hpins
  refine Snapshot.build_keeps (P := fun ps => ∀ t, withinTuners sn.tuner ps t) hpins fun b c _ hb t => ?_
  rcases placeCandidate_cases sn b c with hp | ⟨-, q, hq, hp⟩ | ⟨-, hp⟩
  · rw [hp]
    exact hb t
  · rw [hp]
    obtain ⟨T, ws, we, hpresent, hfeasible⟩ := hq.presentOn
    by_cases ht : ws ≤ t ∧ t < we
    · exact (hb t).append_feasible (fun T' hT => Bool.eq_false_iff.2 fun h => hT (hpresent T' t h).1) (hfeasible t ht.1 ht.2)
    · exact (hb t).append_absent fun T' => Bool.eq_false_iff.2 fun h => ht (hpresent T' t h).2
  · rw [hp]
    exact (hb t).append_absent fun T' => rfl

end Sys2Proof.Machine

/-! PROOFS. The laws of the clock, the mirrors, the flags and the class table; the capacities; the tuner records within the
configuration in force. -/

namespace Sys2Proof.Machine

/-! ### The class table -/

theorem State.classTableLaw_core (s : State) : s.ClassTableLaw ↔ s.core.ClassTableLaw := Iff.rfl

theorem Move.classTableLaw {Q : Prop} {s t : State} (m : Move Q s t) (h : s.ClassTableLaw) : t.ClassTableLaw := by
  cases m with
  | resolve c o htotal =>
    change (if o = s.rst.effOpcodes then s.fpx.classTable else classTableOf o) = classTableOf o
    split
    case isTrue ho => exact ho ▸ h
    case isFalse => rfl
  | _ => exact h

theorem State.ClassTableLaw.of_reset : State.reset.ClassTableLaw := rfl

/-- Settles O55: the clock, the mirrors and the flags are sound along every chain of operations, and of the moves only the
resolving of the anchor touches the class table. -/
theorem everyStepKeepsClockMirrorsAndClassTable : Obligations.EveryStepKeepsClockMirrorsAndClassTable := by
  refine ⟨fun s t h hstep => (step_sound hstep).2.1 h, fun s t h hstep => (step_sound hstep).2.2.1 h, fun s t h hstep => ?_,
    fun s t h hstep => (step_sound hstep).2.2.2 h⟩
  exact step_keeps (Q := False) State.classTableLaw_core (fun _ _ => Move.classTableLaw) State.ClassTableLaw.of_reset
    False.elim hstep h

/-! ### Tuner records within the configuration -/

@[simp] theorem TunerRec.releaseViewer_streams (r : TunerRec) : r.releaseViewer.streams = r.streams := TunerRec.settle_streams _

@[simp] theorem TunerRec.releaseViewer_viewer (r : TunerRec) : r.releaseViewer.viewer = none := TunerRec.settle_viewer _

@[simp] theorem TunerRec.releaseStream_viewer (r : TunerRec) : r.releaseStream.viewer = r.viewer := TunerRec.settle_viewer _

@[simp] theorem TunerRec.takeViewer_streams (r : TunerRec) (service m f : Nat) : (r.takeViewer service m f).streams = r.streams :=
  (r.takeViewer_carries service m f).streams

@[simp] theorem TunerRec.takeViewer_viewer (r : TunerRec) (service m f : Nat) :
    (r.takeViewer service m f).viewer = some service := by
  unfold TunerRec.takeViewer
  split <;> rfl

/-- An idle record shows no multiplex and no feed group (R127). -/
def TunerRec.Tidy (r : TunerRec) : Prop := r.state = .idle → r.multiplex = none ∧ r.feed = none

theorem TunerRec.settle_tidy (r : TunerRec) : r.settle.Tidy := by
  unfold TunerRec.settle
  split
  case isTrue => exact fun _ => ⟨rfl, rfl⟩
  case isFalse h => exact fun hidle => absurd hidle h

theorem TunerRec.tidy_of_busy {r : TunerRec} (h : r.state ≠ .idle) : r.Tidy := fun hidle => absurd hidle h

/-- A record that is still busy once a hold or a stream is gone was busy with the same feed group. -/
theorem TunerRec.settle_busy {r : TunerRec} (h : r.settle.state ≠ .idle) :
    r.state ≠ .idle ∧ r.settle.feed = r.feed ∧ r.settle.multiplex = r.multiplex := by
  have hbusy : r.state ≠ .idle := by
    rw [ne_eq, TunerRec.state_eq_idle, TunerRec.settle_streams, TunerRec.settle_viewer] at h
    rwa [ne_eq, TunerRec.state_eq_idle]
  have hsettle : r.settle = r := if_neg hbusy
  exact ⟨hbusy, congrArg _ hsettle, congrArg _ hsettle⟩

theorem TunerRec.releaseViewer_busy {r : TunerRec} (h : r.releaseViewer.state ≠ .idle) :
    r.state ≠ .idle ∧ r.releaseViewer.feed = r.feed ∧ r.releaseViewer.multiplex = r.multiplex := by
  obtain ⟨hbusy, hfeed, hmultiplex⟩ := TunerRec.settle_busy h
  refine ⟨fun hidle => hbusy ?_, hfeed, hmultiplex⟩
  obtain ⟨hstreams, -⟩ := r.state_eq_idle.1 hidle
  exact (TunerRec.state_eq_idle _).2 ⟨hstreams, rfl⟩

theorem TunerRec.releaseStream_busy {r : TunerRec} (h : r.releaseStream.state ≠ .idle) :
    r.state ≠ .idle ∧ r.releaseStream.feed = r.feed := by
  obtain ⟨hbusy, hfeed, -⟩ := TunerRec.settle_busy h
  refine ⟨fun hidle => hbusy ?_, hfeed⟩
  obtain ⟨hstreams, hviewer⟩ := r.state_eq_idle.1 hidle
  exact (TunerRec.state_eq_idle _).2 ⟨by simp [hstreams], hviewer⟩

theorem eq_or_otherTuner (T T' : Tuner) : T' = T ∨ T' = otherTuner T := by cases T <;> cases T' <;> simp [otherTuner]

theorem otherTuner_ne (T : Tuner) : otherTuner T ≠ T := by cases T <;> simp [otherTuner]

/-- The law of the tuner records over the records and the tuner group alone, tuner by tuner. -/
structure Tun.Within (t : Tun) (g : TunerGroup) : Prop where
  perTuner : ∀ T, (t.get T).streams ≤ g.perTuner
  total : t.a.streams + t.b.streams ≤ g.cap
  viewer : ∀ T, (t.get T).viewer = none ∨ (t.get (otherTuner T)).viewer = none
  single : ∀ T, T ∉ g.mode.tuners → (t.get T).state = .idle
  looped : g.mode = .twinLooped → ∀ T, (t.get T).state ≠ .idle → (t.get (otherTuner T)).state ≠ .idle →
    (t.get T).feed = (t.get (otherTuner T)).feed
  tidy : ∀ T, (t.get T).Tidy

theorem State.tunerLaw_iff (s : State) : s.TunerLaw ↔ s.tun.Within s.rst.inForce.tuner := by
  constructor
  · intro h
    refine ⟨h.perTuner, h.total, fun T => ?_, fun T hT => ?_, fun hmode T hA hB => ?_, h.idle⟩
    · cases T
      · exact h.viewer
      · exact h.viewer.symm
    · have hmode : s.rst.inForce.tuner.mode = .single ∧ T = .B := by
        cases hm : s.rst.inForce.tuner.mode <;> rw [hm] at hT <;> cases T <;> simp [Mode.tuners] at hT ⊢
      rw [hmode.2]
      exact h.single hmode.1
    · cases T
      · exact h.looped hmode hA hB
      · exact (h.looped hmode hB hA).symm
  · intro h
    exact ⟨h.perTuner, h.total, h.viewer .A, fun hmode => h.single .B (by rw [hmode]; decide), fun hmode => h.looped hmode .A, h.tidy⟩

theorem State.tunerLaw_core (s : State) : s.TunerLaw ↔ s.core.TunerLaw := by
  rw [State.tunerLaw_iff, State.tunerLaw_iff]
  rfl

/-- The two stream counts, from either tuner. -/
theorem Tun.streams_sum (t : Tun) (T : Tuner) :
    t.a.streams + t.b.streams = (t.get T).streams + (t.get (otherTuner T)).streams := by
  cases T
  · rfl
  · exact Nat.add_comm _ _

theorem Tun.get_other_set (t : Tun) (T : Tuner) (r : TunerRec) : (t.set T r).get (otherTuner T) = t.get (otherTuner T) :=
  Tun.get_set_ne t (otherTuner_ne T) r

theorem otherTuner_other (T : Tuner) : otherTuner (otherTuner T) = T := by cases T <;> rfl

/-- One record replaced: what the new one has to meet beside the other tuner's. -/
theorem Tun.Within.set {t : Tun} {g : TunerGroup} {T : Tuner} {new : TunerRec} (h : t.Within g)
    (hper : new.streams ≤ g.perTuner) (htotal : new.streams + (t.get (otherTuner T)).streams ≤ g.cap)
    (hviewer : new.viewer = none ∨ (t.get (otherTuner T)).viewer = none)
    (hsingle : T ∉ g.mode.tuners → new.state = .idle)
    (hlooped : g.mode = .twinLooped → new.state ≠ .idle → (t.get (otherTuner T)).state ≠ .idle →
      new.feed = (t.get (otherTuner T)).feed)
    (htidy : new.Tidy) : (t.set T new).Within g := by
  have hother := t.get_other_set T new
  constructor
  case total => rwa [Tun.streams_sum _ T, Tun.get_set_same, hother]
  all_goals
    intros
  case perTuner T' =>
    rcases eq_or_otherTuner T T' with rfl | rfl
    · rwa [Tun.get_set_same]
    · rw [hother]
      exact h.perTuner _
  case viewer T' =>
    rcases eq_or_otherTuner T T' with rfl | rfl
    · rwa [Tun.get_set_same, hother]
    · rw [otherTuner_other, Tun.get_set_same, hother]
      exact hviewer.symm
  case single T' hT =>
    rcases eq_or_otherTuner T T' with rfl | rfl
    · rw [Tun.get_set_same]
      exact hsingle hT
    · rw [hother]
      exact h.single _ hT
  case looped hmode T' h1 h2 =>
    rcases eq_or_otherTuner T T' with rfl | rfl
    · rw [Tun.get_set_same, hother] at *
      exact hlooped hmode h1 h2
    · rw [otherTuner_other, Tun.get_set_same, hother] at *
      exact (hlooped hmode h2 h1).symm
  case tidy T' =>
    rcases eq_or_otherTuner T T' with rfl | rfl
    · rwa [Tun.get_set_same]
    · rw [hother]
      exact h.tidy _

/-- A record that carries no more, holds no other viewer and stays on its feed group while it is busy. -/
theorem Tun.Within.set_lighter {t : Tun} {g : TunerGroup} {T : Tuner} {new : TunerRec} (h : t.Within g)
    (hstreams : new.streams ≤ (t.get T).streams) (hviewer : new.viewer = none ∨ new.viewer = (t.get T).viewer)
    (hbusy : new.state ≠ .idle → (t.get T).state ≠ .idle ∧ new.feed = (t.get T).feed) (htidy : new.Tidy) :
    (t.set T new).Within g := by
  have htotal := h.total
  rw [t.streams_sum T] at htotal
  refine h.set (hstreams.trans (h.perTuner T)) (by omega) ?_ (fun hT => ?_) (fun hmode h1 h2 => ?_) htidy
  · rcases hviewer with hv | hv
    · exact .inl hv
    · exact hv ▸ h.viewer T
  · by_contra hnew
    exact (hbusy hnew).1 (h.single T hT)
  · obtain ⟨hold, hfeed⟩ := hbusy h1
    exact hfeed.trans (h.looped hmode T hold h2)

theorem Tun.Within.releaseViewer {t : Tun} {g : TunerGroup} (h : t.Within g) (T : Tuner) :
    (t.set T (t.get T).releaseViewer).Within g :=
  h.set_lighter (TunerRec.releaseViewer_streams _).le (.inl (TunerRec.releaseViewer_viewer _))
    (fun hb => ⟨(TunerRec.releaseViewer_busy hb).1, (TunerRec.releaseViewer_busy hb).2.1⟩) (TunerRec.settle_tidy _)

theorem Tun.Within.releaseStream {t : Tun} {g : TunerGroup} (h : t.Within g) (T : Tuner) :
    (t.set T (t.get T).releaseStream).Within g :=
  h.set_lighter (by simp) (.inr (TunerRec.releaseStream_viewer _)) TunerRec.releaseStream_busy (TunerRec.settle_tidy _)

/-- The record a started run finds is busy with one stream more, keeps or loses the viewer, and is on the run's feed group
unless it was busy and keeps its own (R128 to R130). -/
theorem State.Starts.record_busy {s : State} {r : ActiveRun} {new : TunerRec} (h : s.Starts r new) :
    new.state ≠ .idle ∧ (new.viewer = none ∨ new.viewer = (s.tun.get r.tuner).viewer)
      ∧ (new.feed = some r.feed ∨ ((s.tun.get r.tuner).state ≠ .idle ∧ new.feed = (s.tun.get r.tuner).feed))
      ∧ grantConditions s.rst.inForce.tuner s.tun r.tuner r.multiplex r.feed (s.tun.get (otherTuner r.tuner)) = true := by
  have hbusy : new.state ≠ .idle := fun hidle => by
    have := (new.state_eq_idle.1 hidle).1
    rw [h.record.1] at this
    cases this
  refine ⟨hbusy, ?_⟩
  rcases h with ⟨hj, rfl⟩ | ⟨hj, rfl⟩
  · refine ⟨?_, ?_, (judgeRequest_cases.1 hj).1⟩
    · unfold TunerRec.grant
      split <;> exact .inr rfl
    · unfold TunerRec.grant
      split
      case isTrue => exact .inl rfl
      case isFalse hold => exact .inr ⟨hold, rfl⟩
  · exact ⟨.inl rfl, .inl rfl, (judgeRequest_cases.2 hj).1⟩

theorem Tun.Within.start {s : State} {r : ActiveRun} {new : TunerRec} (h : s.tun.Within s.rst.inForce.tuner)
    (hs : s.Starts r new) : (s.tun.set r.tuner new).Within s.rst.inForce.tuner := by
  obtain ⟨hbusy, hviewer, hfeed, hconditions⟩ := hs.record_busy
  obtain ⟨hT, -, hper, htotal, hloop⟩ := grantConditions_eq hconditions
  have hstreams := hs.record.1
  rw [s.tun.streams_sum r.tuner] at htotal
  refine h.set (by omega) (by omega) ?_ (fun hno => absurd hT hno) (fun hmode _ h2 => ?_) (TunerRec.tidy_of_busy hbusy)
  · rcases hviewer with hv | hv
    · exact .inl hv
    · exact hv ▸ h.viewer r.tuner
  · rcases hfeed with hf | ⟨hold, hf⟩
    · rw [hf, (hloop.resolve_left (not_not.2 hmode)).resolve_left h2]
    · exact hf.trans (h.looped hmode r.tuner hold h2)

/-- The tuner a VIEW takes is one of the mode, and the looped condition holds of it (R131). -/
theorem State.chooseView_found {s : State} {m f : Nat} {T : Tuner} {joined : Bool} (h : s.chooseView m f = some (T, joined)) :
    T ∈ s.rst.inForce.tuner.mode.tuners ∧ viewLoopOk s.rst.inForce.tuner s.tun T f = true := by
  have horder : ∀ T ∈ viewOrder s.rst.inForce.tuner s.tun, T ∈ s.rst.inForce.tuner.mode.tuners := by
    intro T hT
    unfold viewOrder at hT
    split at hT
    · cases hm : s.rst.inForce.tuner.mode <;> rw [hm] at hT <;> cases T <;> simp [Mode.tuners] at hT ⊢
    · exact hT
  unfold State.chooseView at h
  simp only at h
  split at h
  case h_1 T' hfound =>
    cases h
    have hp := List.find?_some hfound
    simp only [Bool.and_eq_true] at hp
    exact ⟨horder _ (List.mem_of_find?_eq_some hfound), hp.2⟩
  case h_2 =>
    split at h
    case h_1 T' hfound =>
      cases h
      have hp := List.find?_some hfound
      simp only [Bool.and_eq_true] at hp
      exact ⟨horder _ (List.mem_of_find?_eq_some hfound), hp.2⟩
    case h_2 => cases h

theorem Tun.viewerTuner_eq {t : Tun} (hv : ∀ T, (t.get T).viewer = none ∨ (t.get (otherTuner T)).viewer = none) (T : Tuner) :
    t.viewerTuner = some T ↔ (t.get T).viewer ≠ none := by
  have ha := hv .A
  unfold Tun.viewerTuner
  cases T <;> simp only [Tun.get, otherTuner] at ha ⊢ <;> cases h1 : t.a.viewer <;> cases h2 : t.b.viewer <;> simp_all

theorem Tun.Within.viewed {t : Tun} {g : TunerGroup} (h : t.Within g) {T : Tuner} (service m f : Nat) (hT : T ∈ g.mode.tuners)
    (hloop : viewLoopOk g t T f = true) : (t.viewed T service m f).Within g := by
  have hreleased : ∃ t', t' = (if t.viewerTuner = some (otherTuner T) then
        t.set (otherTuner T) (t.get (otherTuner T)).releaseViewer else t) ∧ t'.Within g ∧ t'.get T = t.get T
      ∧ t'.get (otherTuner T) = t.judged (otherTuner T) := by
    refine ⟨_, rfl, ?_⟩
    split
    case isTrue =>
      refine ⟨h.releaseViewer _, Tun.get_set_ne t (otherTuner_ne T).symm _, Tun.get_set_same _ _ _⟩
    case isFalse hv =>
      have hnone : (t.get (otherTuner T)).viewer = none := by
        by_contra hsome
        exact hv ((Tun.viewerTuner_eq h.viewer _).2 hsome)
      refine ⟨h, rfl, ?_⟩
      have htidy := h.tidy (otherTuner T)
      rw [Tun.judged, TunerRec.releaseViewer]
      rcases hr : t.get (otherTuner T) with ⟨multiplex, feed, streams, viewer⟩
      rw [hr] at hnone htidy
      cases hnone
      unfold TunerRec.settle
      split
      case isTrue hidle =>
        obtain ⟨hm, hf⟩ := htidy hidle
        cases hm
        cases hf
        rfl
      case isFalse => rfl
  obtain ⟨t', ht', hwithin, hsame, hjudged⟩ := hreleased
  rw [Tun.viewed, ← ht']
  have hstreams := hwithin.total
  rw [t'.streams_sum T] at hstreams
  have hbusy : ((t'.get T).takeViewer service m f).state ≠ .idle := fun hidle => by
    have := (TunerRec.state_eq_idle _).1 hidle
    rw [TunerRec.takeViewer_viewer] at this
    cases this.2
  refine hwithin.set (by rw [TunerRec.takeViewer_streams]; exact hwithin.perTuner T)
    (by rw [TunerRec.takeViewer_streams]; exact hstreams) (.inr (by rw [hjudged]; exact TunerRec.releaseViewer_viewer _))
    (fun hno => absurd hT hno) (fun hmode _ h2 => ?_) (TunerRec.tidy_of_busy hbusy)
  have hfeed : (t'.get (otherTuner T)).feed = some f := by
    rw [hjudged] at h2 ⊢
    simp only [viewLoopOk, Bool.or_eq_true, decide_eq_true_eq] at hloop
    exact (hloop.resolve_left fun hl => hl.elim (fun hm => hm hmode) h2)
  unfold TunerRec.takeViewer
  split
  case isTrue => exact hfeed.symm
  case isFalse htaken =>
    refine hwithin.looped hmode T (fun hidle => htaken ?_) h2
    obtain ⟨hs0, -⟩ := (TunerRec.state_eq_idle _).1 hidle
    rw [(hwithin.tidy T hidle).1, hs0]
    rfl

/-- Without streams the records are within any tuner group whose mode has every tuner a viewer holds. -/
theorem Tun.Within.of_silent {t : Tun} {g g' : TunerGroup} (h : t.Within g) (hstreams : ∀ T, (t.get T).streams = 0)
    (hviewer : g'.mode = .single → t.b.viewer = none) : t.Within g' where
  perTuner T := by rw [hstreams T]; exact Nat.zero_le _
  total := by
    have ha := hstreams .A
    have hb := hstreams .B
    simp only [Tun.get] at ha hb
    rw [ha, hb]
    exact Nat.zero_le _
  viewer := h.viewer
  single T hT := by
    refine (TunerRec.state_eq_idle _).2 ⟨hstreams T, ?_⟩
    cases hm : g'.mode <;> rw [hm] at hT <;> cases T <;> simp [Mode.tuners] at hT
    exact hviewer hm
  looped _ T h1 h2 := by
    rw [ne_eq, TunerRec.state_eq_idle] at h1 h2
    rcases h.viewer T with hv | hv
    · exact absurd ⟨hstreams T, hv⟩ h1
    · exact absurd ⟨hstreams _, hv⟩ h2
  tidy := h.tidy

theorem Tun.Within.of_reset : State.reset.TunerLaw :=
  ⟨fun T => by cases T <;> decide, by decide, .inl rfl, nofun, nofun, fun T _ => by cases T <;> exact ⟨rfl, rfl⟩⟩

theorem Tun.within_idle {t : Tun} (g : TunerGroup) (ha : t.a = TunerRec.idle) (hb : t.b = TunerRec.idle) : t.Within g := by
  have hidle : ∀ T, t.get T = TunerRec.idle := fun T => by cases T; exacts [ha, hb]
  have hstate : TunerRec.idle.state = .idle := rfl
  constructor <;> intros <;> simp only [hidle, ha, hb] at *
  case perTuner => exact Nat.zero_le _
  case total => exact Nat.zero_le _
  case viewer => exact .inl rfl
  case single => exact hstate
  case tidy => exact fun _ => ⟨rfl, rfl⟩

theorem Move.tunerLaw {s t : State} (m : Move True s t) (hrun : s.RunLaw) (h : s.TunerLaw) : t.TunerLaw := by
  rw [State.tunerLaw_iff] at h ⊢
  have warned (l : List Nat) : Tun.Within { s.tun with warned := l } s.rst.inForce.tuner :=
    ⟨fun T => by cases T; exacts [h.perTuner .A, h.perTuner .B], h.total,
      fun T => by cases T; exacts [h.viewer .A, h.viewer .B], fun T => by cases T; exacts [h.single .A, h.single .B],
      fun hmode T => by cases T; exacts [h.looped hmode .A, h.looped hmode .B], fun T => by cases T; exacts [h.tidy .A, h.tidy .B]⟩
  cases m with
  | release r hr => exact h.releaseStream r.tuner
  | start e r new he href hs => exact h.start hs
  | unview T => exact h.releaseViewer T
  | view T joined service m f hv =>
    obtain ⟨hT, hloop⟩ := State.chooseView_found hv
    exact h.viewed service m f hT hloop
  | unwarn => exact warned _
  | warn ref hw => exact warned _
  | apply g t hruns hg ht =>
    have hsilent (T : Tuner) : (s.tun.get T).streams = 0 := by rw [hrun.streams, hruns]; rfl
    rcases ht with ⟨rfl, hsingle⟩ | rfl
    · exact h.of_silent hsilent hsingle
    · exact (h.releaseViewer .B).of_silent (fun T => by
        cases T
        · exact hsilent .A
        · exact (TunerRec.releaseViewer_streams _).trans (hsilent .B)) fun _ => TunerRec.releaseViewer_viewer _
  | adopt hrest =>
    obtain ⟨-, ha, hb⟩ := hrest trivial
    exact Tun.within_idle _ ha hb
  | _ => exact h

end Sys2Proof.Machine

/-! PROOFS. Every step keeps the capacities of the tables, lists and queue. -/

namespace Sys2Proof.Machine

theorem State.listsFit_core (s : State) : s.ListsFit ↔ s.core.ListsFit :=
  ⟨fun h => { h with }, fun h => { h with }⟩

/-- As many runs as streams, and no more than the total cap in force. -/
theorem State.RunLaw.length_le {s : State} (h : s.RunLaw) (htuner : s.TunerLaw) : s.run.runs.length ≤ s.rst.inForce.tuner.total := by
  have hsum : s.run.runs.length = s.tun.a.streams + s.tun.b.streams := by
    have ha := h.streams .A
    have hb := h.streams .B
    simp only [Tun.get] at ha hb
    rw [ha, hb, ← List.countP_eq_length_filter, ← List.countP_eq_length_filter,
      List.length_eq_countP_add_countP (fun r : ActiveRun => decide (r.tuner = .A))]
    congr 1
    refine List.countP_congr fun r _ => ?_
    cases r.tuner <;> decide
  rw [hsum]
  exact htuner.total.trans (Nat.min_le_left _ _)

/-- A warning enters a list of waiting refs: it stays within its capacity and without repeats (R135). -/
theorem enterWarned_fits {waiting : List WaitingEntry} {l : List Nat} {ref : Nat} (hw : waiting.length ≤ 256)
    (hl : l.length ≤ 256) (hn : l.Nodup) (href : ∃ e ∈ waiting, e.ref = ref) :
    (enterWarned waiting l ref).length ≤ 256 ∧ (enterWarned waiting l ref).Nodup := by
  have added (k : List Nat) (hk : k.Sublist l) (hnot : ref ∉ l) : (k ++ [ref]).Nodup :=
    List.nodup_append.2 ⟨hn.sublist hk, List.nodup_singleton _, fun a ha b hb => by
      rw [List.mem_singleton.1 hb]
      exact fun hab => hnot (hab ▸ hk.subset ha)⟩
  unfold enterWarned
  split
  case isTrue => exact ⟨hl, hn⟩
  case isFalse hnot =>
    rw [List.contains_iff_mem] at hnot
    split
    case isTrue hroom => exact ⟨by rw [List.length_append]; exact hroom, added _ (List.Sublist.refl _) hnot⟩
    case isFalse =>
      have hnodup := added (l.filter fun r => waiting.any fun e => e.ref = r) List.filter_sublist hnot
      refine ⟨?_, hnodup⟩
      have hsub : (l.filter (fun r => waiting.any fun e => e.ref = r) ++ [ref]) ⊆ waiting.map WaitingEntry.ref := by
        intro r hr
        rw [List.mem_map]
        rcases List.mem_append.1 hr with hr | hr
        · simpa using (List.mem_filter.1 hr).2
        · exact List.mem_singleton.1 hr ▸ href
      have hlength := (List.subperm_of_subset hnodup hsub).length_le
      rw [List.length_map] at hlength
      exact hlength.trans hw

/-- The tuner group of the record is in range: a clamped one, or the default. -/
theorem State.ListsFit.recordTuner {s : State} (h : s.ListsFit) : s.recordTuner.total ≤ 6 := by
  unfold State.recordTuner
  cases hr : s.rst.effConfig with
  | none => decide
  | some r => exact h.record r hr

theorem State.ListsFit.of_reset : State.reset.ListsFit :=
  ⟨by decide, nofun, by decide, by decide, by decide, by decide, by decide, nofun, nofun⟩

theorem Move.listsFit {s t : State} (m : Move True s t) (hrun : s.RunLaw) (htuner : s.TunerLaw) (h : s.ListsFit) :
    t.ListsFit := by
  have hinForce : t.rst.inForce.tuner.total ≤ 6 := by
    cases m with
    | apply g t hruns hg ht =>
      rcases hg with hg | rfl
      · exact h.deferred g hg
      · exact h.recordTuner
    | adopt => exact h.recordTuner
    | _ => exact h.inForce
  have hruns := ((m.runLaw hrun).length_le (m.tunerLaw hrun htuner)).trans hinForce
  cases m with
  | replan sn hpinned =>
    exact { h with pinned := fun x hx => by cases hx; exact hpinned.trans_le h.runs }
  | publish sn g hsn =>
    refine { h with plan := ?_ }
    change (sn.plan.entries.map _).length ≤ 256
    rw [List.length_map]
    exact Snapshot.length_plan_entries ((h.pinned sn hsn).trans (by decide))
  | idle => exact { h with pinned := nofun }
  | thin w hw =>
    have hlength := hw.length_le
    rw [List.length_map, List.length_map] at hlength
    exact { h with waiting := hlength.trans h.waiting }
  | rebuild w hlength hapart => exact { h with waiting := hlength.trans h.plan }
  | revise => exact { h with runs := hruns }
  | release => exact { h with runs := hruns, warned := by simpa [State.releaseRun] using h.warned, warnedOnce := by simpa [State.releaseRun] using h.warnedOnce }
  | start e r new he href hs =>
    exact { h with
      runs := hruns
      waiting := (List.length_filter_le _ _).trans h.waiting
      warned := by simpa using h.warned
      warnedOnce := by simpa using h.warnedOnce }
  | unview T => exact { h with warned := by simpa using h.warned, warnedOnce := by simpa using h.warnedOnce }
  | view T joined service m f hv =>
    have hwarned : (s.tun.viewed T service m f).warned = s.tun.warned := by
      simp only [Tun.viewed, Tun.set_warned]
      split
      · exact Tun.set_warned _ _ _
      · rfl
    exact { h with warned := hwarned ▸ h.warned, warnedOnce := hwarned ▸ h.warnedOnce }
  | unwarn => exact { h with warned := Nat.zero_le _, warnedOnce := List.nodup_nil }
  | warn ref hw =>
    obtain ⟨hlength, hnodup⟩ := enterWarned_fits h.waiting h.warned h.warnedOnce hw
    exact { h with warned := hlength, warnedOnce := hnodup }
  | resolve c o htotal => exact { h with record := htotal }
  | defer d hd => exact { h with deferred := fun g hg => hd g hg ▸ h.recordTuner }
  | apply g t hruns hg ht =>
    rcases ht with ⟨rfl, -⟩ | rfl
    · exact { h with inForce := hinForce, deferred := nofun }
    · exact { h with inForce := hinForce, deferred := nofun }
  | adopt => exact { h with inForce := hinForce }

/-- Settles O54: each operation keeps the tables by itself; the lists are kept along the moves, with the runs no more than the
streams and these within the caps. -/
theorem everyStepKeepsTheCapacities : Obligations.EveryStepKeepsTheCapacities := by
  refine ⟨fun s t h hstep => ?_, fun s t hrun hstart htuner hlists hstep => ?_⟩
  · exact (step_sound hstep).1 h
  · have hkept : t.RunLaw ∧ t.TunerLaw ∧ t.ListsFit :=
      step_keeps (P := fun u => u.RunLaw ∧ u.TunerLaw ∧ u.ListsFit)
        (fun u => and_congr u.runLaw_core (and_congr u.tunerLaw_core u.listsFit_core))
        (fun u v m hu => ⟨m.runLaw hu.1, m.tunerLaw hu.1 hu.2.1, m.listsFit hu.1 hu.2.1 hu.2.2⟩)
        ⟨State.RunLaw.of_reset, Tun.Within.of_reset, State.ListsFit.of_reset⟩ (fun _ => hstart) hstep ⟨hrun, htuner, hlists⟩
    exact hkept.2.2

end Sys2Proof.Machine

/-! PROOFS. Every step keeps the law of the path, SOCRST, WAKE and DORMANT. -/

namespace Sys2Proof.Machine

/-! ### The path as the law reads it -/

/-- What the law of the path reads of a state outside DORMANT, the rest at fixed values. -/
def State.path (s : State) : State :=
  { State.reset with
    fpx := { Fpx.afterReset with owner := s.fpx.owner, lend := s.fpx.lend, scan := s.fpx.scan }
    pwc := { Pwc.afterReset true with
      power := s.pwc.power, waking := s.pwc.waking, sleepNote := s.pwc.sleepNote, socrst := s.pwc.socrst
      wakeLine := s.pwc.wakeLine, handBack := s.pwc.handBack } }

theorem Rework.path {s t : State} (h : Rework s t) : t.path = s.path := by
  have := congrArg State.path h.outer
  exact this

theorem Calm.path {s t : State} (h : Calm s t) : t.path = s.path := h.rework.path

section
variable {s t : State}

theorem path_owner (h : t.path = s.path) : t.fpx.owner = s.fpx.owner := congrArg (fun u => u.fpx.owner) h
theorem path_lend (h : t.path = s.path) : t.fpx.lend = s.fpx.lend := congrArg (fun u => u.fpx.lend) h
theorem path_scan (h : t.path = s.path) : t.fpx.scan = s.fpx.scan := congrArg (fun u => u.fpx.scan) h
theorem path_power (h : t.path = s.path) : t.pwc.power = s.pwc.power := congrArg (fun u => u.pwc.power) h
theorem path_waking (h : t.path = s.path) : t.pwc.waking = s.pwc.waking := congrArg (fun u => u.pwc.waking) h
theorem path_sleepNote (h : t.path = s.path) : t.pwc.sleepNote = s.pwc.sleepNote := congrArg (fun u => u.pwc.sleepNote) h
theorem path_socrst (h : t.path = s.path) : t.pwc.socrst = s.pwc.socrst := congrArg (fun u => u.pwc.socrst) h
theorem path_wakeLine (h : t.path = s.path) : t.pwc.wakeLine = s.pwc.wakeLine := congrArg (fun u => u.pwc.wakeLine) h
theorem path_handBack (h : t.path = s.path) : t.pwc.handBack = s.pwc.handBack := congrArg (fun u => u.pwc.handBack) h

/-- The law of the path, but for the quiet of DORMANT. -/
structure State.PathHeld (s : State) : Prop where
  owner : s.fpx.owner = .soc ↔ s.pwc.power = .run ∧ s.fpx.lend = none
  lend : s.fpx.lend ≠ none → s.pwc.power = .run
  handBack : s.pwc.handBack = true → s.pwc.power = .standby ∧ ∃ x p, s.fpx.scan = .reading x p
  socrst : s.pwc.socrst = true ↔ s.pwc.power = .startUp ∨ s.pwc.handBack = true
  wakeLine : s.pwc.wakeLine = true ↔ s.pwc.waking ≠ none
  waking : s.pwc.waking ≠ none → s.pwc.power = .standby
  note : s.pwc.sleepNote ≠ none → s.pwc.power = .dormant

theorem State.PathLaw.held (h : s.PathLaw) : s.PathHeld := { h with }

/-- `path` is all that is held. -/
theorem State.PathHeld.of_path (h : s.PathHeld) (k : t.path = s.path) : t.PathHeld where
  owner := by rw [path_owner k, path_power k, path_lend k]; exact h.owner
  lend := by rw [path_power k, path_lend k]; exact h.lend
  handBack := by rw [path_handBack k, path_power k, path_scan k]; exact h.handBack
  socrst := by rw [path_socrst k, path_power k, path_handBack k]; exact h.socrst
  wakeLine := by rw [path_wakeLine k, path_waking k]; exact h.wakeLine
  waking := by rw [path_waking k, path_power k]; exact h.waking
  note := by rw [path_sleepNote k, path_power k]; exact h.note

/-- The law of the path reads the path, and in DORMANT three things more. -/
theorem State.PathLaw.of_path (h : s.PathLaw) (k : t.path = s.path)
    (hq : s.pwc.power = .dormant →
      t.fpx.inFlight = s.fpx.inFlight ∧ t.pln.snapshot = s.pln.snapshot ∧ t.clk.events = s.clk.events) : t.PathLaw :=
  { h.held.of_path k with
    quiet := by
      rw [path_power k, path_scan k]
      intro hd
      obtain ⟨hi, hs, he⟩ := hq hd
      rw [hi, hs, he]
      exact h.quiet hd }

theorem State.PathHeld.lend_none (h : s.PathHeld) (hp : s.pwc.power ≠ .run) : s.fpx.lend = none :=
  by_contra fun hl => hp (h.lend hl)

theorem State.PathHeld.handBack_false (h : s.PathHeld) (hp : s.pwc.power ≠ .standby) : s.pwc.handBack = false :=
  Bool.eq_false_iff.2 fun hb => hp (h.handBack hb).1

theorem State.PathHeld.waking_none (h : s.PathHeld) (hp : s.pwc.power ≠ .standby) : s.pwc.waking = none :=
  by_contra fun hw => hp (h.waking hw)

theorem State.PathHeld.sleepNote_none (h : s.PathHeld) (hp : s.pwc.power ≠ .dormant) : s.pwc.sleepNote = none :=
  by_contra fun hn => hp (h.note hn)

/-- The K240 owns the path outside RUN and under a lend (R154, R155). -/
theorem State.PathHeld.owner_k240 (h : s.PathHeld) (hp : s.pwc.power ≠ .run ∨ s.fpx.lend ≠ none) : s.fpx.owner = .k240 := by
  cases ho : s.fpx.owner with
  | k240 => rfl
  | soc => exact (hp.elim (fun hp => hp (h.owner.1 ho).1) fun hl => hl (h.owner.1 ho).2).elim

/-- The law of the path, outside DORMANT. -/
structure State.OpenPath (s : State) : Prop extends s.PathLaw where
  awake : s.pwc.power ≠ .dormant

theorem State.OpenPath.of_path (h : s.OpenPath) (k : t.path = s.path) : t.OpenPath :=
  ⟨h.toPathLaw.of_path k fun hd => absurd hd h.awake, path_power k ▸ h.awake⟩

theorem State.OpenPath.calm (h : s.OpenPath) (k : Calm s t) : t.OpenPath := h.of_path k.path

end

theorem path_ite {s a b : State} {c : Prop} [Decidable c] (ha : a.path = s.path) (hb : b.path = s.path) :
    (if c then a else b).path = s.path := by
  split
  · exact ha
  · exact hb

theorem path_foldl {α : Type} {f : State → α → State} (hf : ∀ s a, (f s a).path = s.path) (xs : List α) (s : State) :
    (xs.foldl f s).path = s.path := by
  induction xs generalizing s with
  | nil => rfl
  | cons x xs ih => exact (ih _).trans (hf s x)

theorem State.postNow_path (s : State) (k : NoticeKind) (t : Option Tuner) (d : Int) (r : Nat) (a : Int) :
    (s.postNow k t d r a).path = s.path := (State.postNow_calm s k t d r a).path

/-! ### DORMANT, lends, hand-back and STANDBY -/

/-- A part in DORMANT holds no hand-back, no lend and no wake, and the K240 owns its path. -/
theorem State.PathHeld.dormant {s : State} (h : s.PathHeld) (hd : s.pwc.power = .dormant) :
    s.fpx.owner = .k240 ∧ s.fpx.lend = none ∧ s.pwc.handBack = false ∧ s.pwc.waking = none := by
  have hrun : s.pwc.power ≠ .run := by rw [hd]; nofun
  have hstandby : s.pwc.power ≠ .standby := by rw [hd]; nofun
  exact ⟨h.owner_k240 (.inl hrun), h.lend_none hrun, h.handBack_false hstandby, h.waking_none hstandby⟩

/-- What a part that may enter DORMANT is. -/
theorem State.dormantReady_quiet {s : State} (h : s.dormantReady = true) :
    s.pwc.power = .standby ∧ s.pwc.handBack = false ∧ s.fpx.scan = .idle ∧ s.fpx.inFlight = none ∧ s.pln.snapshot = none
      ∧ s.clk.events = [] ∧ s.pwc.waking = none := by
  simp only [State.dormantReady, Bool.and_eq_true, decide_eq_true_eq, Bool.not_eq_true', Option.isNone_iff_eq_none,
    List.isEmpty_iff] at h
  obtain ⟨⟨⟨⟨⟨⟨⟨⟨hp, hb⟩, hs⟩, -⟩, hi⟩, hsn⟩, he⟩, hw⟩, -⟩ := h
  exact ⟨hp, hb, hs, hi, hsn, he, hw⟩

/-- A ready STANDBY moved to DORMANT, whatever is noted. -/
theorem State.PathLaw.to_dormant {s t : State} (h : s.PathLaw) (hr : s.dormantReady = true)
    (ho : t.fpx.owner = s.fpx.owner) (hl : t.fpx.lend = s.fpx.lend) (hs : t.fpx.scan = s.fpx.scan)
    (hi : t.fpx.inFlight = s.fpx.inFlight) (hsn : t.pln.snapshot = s.pln.snapshot) (he : t.clk.events = s.clk.events)
    (hp : { t.pwc with power := s.pwc.power, sleepNote := s.pwc.sleepNote } = s.pwc) (hd : t.pwc.power = .dormant) :
    t.PathLaw := by
  obtain ⟨hpower, hback, hscan, hflight, hsnapshot, hevents, hwaking⟩ := State.dormantReady_quiet hr
  have hback' : t.pwc.handBack = false := (congrArg (fun p => p.handBack) hp).trans hback
  have hwaking' : t.pwc.waking = none := (congrArg (fun p => p.waking) hp).trans hwaking
  have hline : t.pwc.wakeLine = s.pwc.wakeLine := congrArg (fun p => p.wakeLine) hp
  have hsocrst : t.pwc.socrst = s.pwc.socrst := congrArg (fun p => p.socrst) hp
  have howner := h.owner
  have hsoc := h.socrst
  have hwake := h.wakeLine
  have hlend := h.lend
  rw [hpower] at howner hsoc hlend
  rw [hback] at hsoc
  rw [hwaking] at hwake
  refine ⟨?_, ?_, ?_, ?_, ?_, ?_, fun _ => hd, fun _ => ⟨hs.trans hscan, hi.trans hflight, hsn.trans hsnapshot, he.trans hevents⟩⟩
  · rw [ho, hd]
    exact howner.trans ⟨nofun, nofun⟩
  · rw [hl]
    exact fun h => nomatch hlend h
  · rw [hback']
    nofun
  · rw [hsocrst, hd, hback']
    exact hsoc.trans ⟨nofun, nofun⟩
  · rw [hline, hwaking']
    exact hwake
  · rw [hwaking']
    exact fun h => absurd rfl h

theorem State.PathLaw.dormantTest {s : State} (h : s.PathLaw) : s.dormantTest.PathLaw := by
  rcases s.dormantTest_cases with ht | ⟨hr, ht⟩ | ⟨_, _, hr, -, ht⟩ <;> rw [ht]
  · exact h
  · exact h.to_dormant hr rfl rfl rfl rfl rfl rfl rfl rfl
  · exact h.to_dormant hr rfl rfl rfl rfl rfl rfl rfl rfl

/-- The return from DORMANT, to a STANDBY without a note (R176). -/
theorem State.PathHeld.dormantReturn {s : State} (h : s.PathHeld) : s.dormantReturn.OpenPath := by
  have returned {t : State} (hd : s.pwc.power = .dormant) (hf : { t.fpx with asleep := s.fpx.asleep } = s.fpx)
      (hp : t.pwc = { s.pwc with power := .standby, sleepNote := none }) : t.OpenPath := by
    obtain ⟨howner, hlend, hback, hwaking⟩ := h.dormant hd
    have ho : t.fpx.owner = .k240 := (congrArg (fun f => f.owner) hf).trans howner
    have hl : t.fpx.lend = none := (congrArg (fun f => f.lend) hf).trans hlend
    have hsoc := h.socrst
    have hwake := h.wakeLine
    rw [hd, hback] at hsoc
    refine ⟨⟨?_, ?_, ?_, ?_, ?_, ?_, ?_, ?_⟩, ?_⟩ <;> simp only [ho, hl, hp, hback, hwaking]
    case refine_4 => exact hsoc.trans ⟨nofun, nofun⟩
    case refine_5 => rwa [hwaking] at hwake
    all_goals simp
  rcases s.dormantReturn_cases with ⟨hp, ht⟩ | ⟨hd, hn, ht⟩ | ⟨code, hd, hn, ht⟩
  · rw [ht]
    exact ⟨{ h with quiet := fun hd => absurd hd hp }, hp⟩
  · exact returned hd (by rw [ht]) (by rw [ht]; simp [hn])
  · exact returned hd (by rw [ht]) (by rw [ht])

theorem State.endLend_path {s : State} {l : Lend} (h : s.fpx.lend = some l) (why : LendEnd) :
    (s.endLend why).path =
      { s.path with fpx := { s.path.fpx with lend := none, owner := if why = .standby then s.fpx.owner else .soc } } := by
  rw [State.endLend_eq h, (State.post_calm _ _).path]
  rfl

/-- A lend's end that gives the path back keeps the law (R155). -/
theorem State.OpenPath.endLend {s : State} (h : s.OpenPath) {l : Lend} (hl : s.fpx.lend = some l) {why : LendEnd}
    (hwhy : why ≠ .standby) : (s.endLend why).OpenPath := by
  have hpower : s.pwc.power = .run := h.lend (by rw [hl]; nofun)
  refine State.OpenPath.of_path (s := { s with fpx := { s.fpx with lend := none, owner := .soc } }) ?_ ?_
  · exact ⟨⟨⟨fun _ => ⟨hpower, rfl⟩, fun _ => rfl⟩, fun hn => absurd rfl hn, h.handBack, h.socrst, h.wakeLine, h.waking, h.note,
      fun hd => absurd hd h.awake⟩, h.awake⟩
  · rw [State.endLend_path hl, if_neg hwhy]
    rfl

theorem State.reloadWake_path (s : State) : s.reloadWake.path = s.path := by
  obtain ⟨tg, c, -, h⟩ := s.reloadWake_cases
  rw [h]
  rfl

/-- STANDBY entered from RUN: the K240 has the path and no lend is left (R175). -/
theorem State.OpenPath.standby {s t : State} (h : s.OpenPath) (hrun : s.pwc.power = .run) (hl : t.fpx.lend = none)
    (ho : t.fpx.owner = .k240) (hp : t.pwc = { s.pwc with power := .standby }) : t.OpenPath := by
  have hpower : s.pwc.power ≠ .standby := by rw [hrun]; nofun
  have hback := h.held.handBack_false hpower
  have hwaking := h.held.waking_none hpower
  have hsoc := h.socrst
  have hwake := h.wakeLine
  have hnote := h.note
  rw [hrun, hback] at hsoc
  rw [hwaking] at hwake
  rw [hrun] at hnote
  refine ⟨⟨?_, ?_, ?_, ?_, ?_, ?_, ?_, ?_⟩, ?_⟩ <;> simp only [hl, ho, hp, hback, hwaking]
  case refine_4 => exact hsoc.trans ⟨nofun, nofun⟩
  case refine_5 => exact hwake
  case refine_7 => exact fun hn => nomatch hnote hn
  all_goals simp

theorem State.OpenPath.enterStandby {s : State} (h : s.OpenPath) (hrun : s.pwc.power = .run) : s.enterStandby.PathLaw := by
  refine State.PathLaw.dormantTest (State.OpenPath.toPathLaw ?_)
  refine State.OpenPath.of_path ?_ (State.reloadWake_path _)
  cases hl : s.fpx.lend with
  | none => exact h.standby hrun hl rfl rfl
  | some l =>
    have ho : s.fpx.owner = .k240 := h.held.owner_k240 (.inr (by rw [hl]; nofun))
    refine State.OpenPath.of_path (s := { s with fpx := { s.fpx with lend := none }, pwc := { s.pwc with power := .standby } })
      (h.standby hrun rfl ho rfl) ?_
    have hpath := congrArg (fun u : State => { u with pwc := { u.pwc with power := PowerState.standby } })
      (State.endLend_path hl .standby)
    exact hpath

/-- The hand-back leaves RUN with the SoC owning the path (R177). -/
theorem State.OpenPath.finishHandBack {s : State} (h : s.PathLaw) (hstandby : s.pwc.power = .standby) :
    s.finishHandBack.OpenPath := by
  have hlend := h.held.lend_none (by rw [hstandby]; nofun)
  have hnote := h.held.sleepNote_none (by rw [hstandby]; nofun)
  refine ⟨⟨⟨fun _ => ⟨rfl, hlend⟩, fun _ => rfl⟩, fun _ => rfl, nofun, ⟨nofun, nofun⟩, ⟨nofun, fun hw => absurd rfl hw⟩,
    fun hw => absurd rfl hw, fun hn => absurd hnote hn, nofun⟩, nofun⟩

end Sys2Proof.Machine

/-! PROOFS. The path law of every row and every step. -/

namespace Sys2Proof.Machine

/-! ### The power controller -/

theorem State.OpenPath.startHandBack {s : State} (h : s.OpenPath) (hstandby : s.pwc.power = .standby) :
    s.startHandBack.OpenPath := by
  unfold State.startHandBack
  split
  case h_1 x p hscan =>
    exact ⟨⟨h.owner, h.lend, fun _ => ⟨hstandby, x, p, hscan⟩, ⟨fun _ => .inr rfl, fun _ => rfl⟩, h.wakeLine, h.waking, h.note,
      fun hd => absurd hd h.awake⟩, h.awake⟩
  case h_2 hscan =>
    have hback : s.pwc.handBack = true → False := fun hb => by
      obtain ⟨-, x, p, hx⟩ := h.handBack hb
      exact hscan x p hx
    refine State.OpenPath.finishHandBack ?_ hstandby
    exact ⟨h.owner, h.lend, fun hb => (hback hb).elim, h.socrst, h.wakeLine, h.waking, h.note, fun hd => absurd hd h.awake⟩

theorem State.OpenPath.endWake {s : State} (h : s.OpenPath) : s.endWake.OpenPath :=
  ⟨⟨h.owner, h.lend, h.handBack, h.socrst, ⟨nofun, fun hw => absurd rfl hw⟩, fun hw => absurd rfl hw, h.note,
    fun hd => absurd hd h.awake⟩, h.awake⟩

theorem State.OpenPath.endStartUp {s : State} (h : s.OpenPath) (hstart : s.pwc.power = .startUp) : s.endStartUp.OpenPath := by
  have hrun : s.pwc.power ≠ .run := by rw [hstart]; nofun
  have hstandby : s.pwc.power ≠ .standby := by rw [hstart]; nofun
  have hlend := h.held.lend_none hrun
  have howner : s.fpx.owner ≠ .soc := by rw [h.held.owner_k240 (.inl hrun)]; nofun
  have hback : ¬ s.pwc.handBack = true := by simp [h.held.handBack_false hstandby]
  have hwaking := h.held.waking_none hstandby
  have hnote := h.held.sleepNote_none h.awake
  have ended (u : State) (d : Int) (r : Nat) (a : Int) : ((u.postNow .startupDone none d r a).raise .startupDone).path = u.path :=
    (State.raise_calm _ _).path.trans (State.postNow_path _ _ _ _ _ _)
  unfold State.endStartUp
  by_cases hp : s.pins.pwrgood = true
  · simp only [hp, if_true]
    refine State.OpenPath.of_path ?_ (ended _ _ _ _)
    exact ⟨⟨⟨fun _ => ⟨rfl, hlend⟩, fun _ => rfl⟩, fun _ => rfl, fun hb => absurd hb hback,
      ⟨nofun, fun hs => hs.elim nofun fun hb => absurd hb hback⟩, h.wakeLine, fun hw => absurd hwaking hw,
      fun hn => absurd hnote hn, nofun⟩, nofun⟩
  · simp only [hp, Bool.false_eq_true, if_false]
    refine State.OpenPath.of_path ?_ ((State.reloadWake_path _).trans (ended _ _ _ _))
    exact ⟨⟨⟨fun ho => absurd ho howner, fun hr => absurd hr.1 nofun⟩, fun hl => absurd hlend hl,
      fun hb => absurd hb hback, ⟨nofun, fun hs => hs.elim nofun fun hb => absurd hb hback⟩, h.wakeLine,
      fun hw => absurd hwaking hw, fun hn => absurd hnote hn, nofun⟩, nofun⟩

theorem State.OpenPath.afterWork {s : State} (h : s.OpenPath) : s.afterWork.OpenPath := by
  rcases s.afterWork_cases with ht | ⟨hp, -, ht⟩ | ⟨l, -, hl, ⟨-, ht⟩ | ⟨-, -, ht⟩⟩ | ⟨hp, -, ht⟩ <;> rw [ht]
  · exact h
  · exact h.endStartUp hp
  · exact h.endLend hl nofun
  · exact h.endLend hl nofun
  · exact State.OpenPath.finishHandBack h.toPathLaw hp

/-- A lend begins from RUN without one (R155). -/
theorem State.OpenPath.beginLend {s : State} (h : s.OpenPath) (howner : s.fpx.owner = .soc) (ms : Nat) : (s.beginLend ms).OpenPath := by
  obtain ⟨hrun, -⟩ := h.owner.1 howner
  refine State.OpenPath.afterWork ?_
  exact ⟨⟨⟨nofun, fun hl => nomatch hl.2⟩, fun _ => hrun, h.handBack, h.socrst, h.wakeLine, h.waking, h.note,
    fun hd => absurd hd h.awake⟩, h.awake⟩

theorem State.PathLaw.pwrgoodUp {s : State} (h : s.PathLaw) : s.pwrgoodUp.PathLaw := by
  unfold State.pwrgoodUp
  split
  · exact h
  · have hpins : State.PathLaw { s with pins := { s.pins with pwrgood := true } } := h.of_path rfl fun _ => ⟨rfl, rfl, rfl⟩
    simp only
    split
    case h_1 => exact hpins
    case h_2 => exact hpins
    case h_3 hstart hrun =>
      have hreturn := hpins.held.dormantReturn
      refine (hreturn.endWake.startHandBack ?_).toPathLaw
      rcases State.dormantReturn_cases { s with pins := { s.pins with pwrgood := true } } with ⟨hp, ht⟩ | ⟨-, -, ht⟩ | ⟨_, -, -, ht⟩
      · change (State.dormantReturn _).pwc.power = _
        rw [ht]
        change s.pwc.power = _
        cases hpower : s.pwc.power with
        | startUp => exact absurd hpower hstart
        | run => exact absurd hpower hrun
        | standby => rfl
        | dormant => exact absurd hpower hp
      · change (State.dormantReturn _).pwc.power = _
        rw [ht]
      · change (State.dormantReturn _).pwc.power = _
        rw [ht]

theorem State.PathLaw.pwrgoodDown {s : State} (h : s.PathLaw) : s.pwrgoodDown.PathLaw := by
  unfold State.pwrgoodDown
  split
  · have hpins : State.PathLaw { s with pins := { s.pins with pwrgood := false } } := h.of_path rfl fun _ => ⟨rfl, rfl, rfl⟩
    simp only
    split
    case h_1 hrun => exact State.OpenPath.enterStandby ⟨hpins, fun hd => nomatch hrun.symm.trans hd⟩ hrun
    case h_2 => exact hpins
  · exact h

theorem State.OpenPath.wakeFired {s : State} (h : s.OpenPath) (e : CompareEvent) : (s.wakeFired e).OpenPath := by
  unfold State.wakeFired
  split
  · exact h.of_path (State.reloadWake_path _)
  · rename_i t _
    simp only
    split
    case isTrue hready =>
      simp only [Bool.and_eq_true, decide_eq_true_eq] at hready
      refine State.OpenPath.of_path ?_ ((State.reloadWake_path _).trans (State.post_calm _ _).path)
      exact ⟨⟨h.owner, h.lend, h.handBack, h.socrst, ⟨fun _ => nofun, fun _ => rfl⟩, fun _ => hready.1, h.note,
        fun hd => absurd hd h.awake⟩, h.awake⟩
    case isFalse => exact h.of_path (State.reloadWake_path _)

theorem State.PathLaw.wakeExpired {s : State} (h : s.PathLaw) : s.wakeExpired.PathLaw := by
  unfold State.wakeExpired
  split
  · exact h
  · rename_i w hw
    split
    · have hopen : s.OpenPath := ⟨h, fun hd => nomatch hw.symm.trans (h.held.dormant hd).2.2.2⟩
      exact (hopen.endWake.of_path (State.postNow_path _ _ _ _ _ _)).toPathLaw
    · exact h

/-! ### The clock and the compare events -/

theorem takeFirst_nil (c : Channel) : takeFirst c [] = none := rfl

/-- An event's row: in DORMANT no event waits. -/
theorem State.PathLaw.takeEvent {s : State} (h : s.PathLaw) {c : Channel} {act : CompareEvent → State → State}
    (hact : ∀ e u, State.OpenPath u → (act e u).PathLaw) : (s.takeEvent c act).PathLaw := by
  unfold State.takeEvent
  split
  · exact h
  · rename_i e rest htaken
    have hopen : s.OpenPath := ⟨h, fun hd => by
      obtain ⟨-, -, -, he⟩ := h.quiet hd
      rw [he] at htaken
      cases htaken⟩
    exact hact e _ (hopen.of_path rfl)

theorem State.trigger_path (s : State) : s.trigger.path = s.path := (State.trigger_calm s).path

theorem Clk.advance_events (k : Clk) : k.advance.events = k.events := by
  unfold Clk.advance
  split
  · rw [Clk.disableAll_eq]
    rfl
  · rfl

theorem State.PathLaw.advanceCounter {s : State} (h : s.PathLaw) : s.advanceCounter.PathLaw := by
  have hadvanced : State.PathLaw { s with clk := s.clk.advance } :=
    h.of_path rfl fun _ => ⟨rfl, rfl, s.clk.advance_events⟩
  unfold State.advanceCounter
  split
  case isFalse => exact hadvanced
  case isTrue =>
    unfold State.advancePowered
    simp only
    split
    case isTrue =>
      exact hadvanced.of_path (State.postNow_path _ _ _ _ _ _) fun _ => ⟨by simp, by simp, by simp⟩
    case isFalse =>
      have hcalm := State.checkChannels_calm { s with clk := s.clk.advance }
      split
      case isTrue =>
        refine State.PathLaw.dormantTest ?_
        have hreturned := (hadvanced.held.of_path hcalm.path).dormantReturn
        split
        · exact (hreturned.of_path (State.trigger_path _)).toPathLaw
        · exact hreturned.toPathLaw
      case isFalse hquiet =>
        refine hadvanced.of_path hcalm.path fun _ => ?_
        obtain ⟨l, hl⟩ := hcalm.events
        have hlength : l = [] := by
          rw [Bool.or_eq_true, not_or, hl] at hquiet
          simpa using hquiet.2
        exact ⟨by rw [hcalm.fpx], by unfold State.checkChannels; rfl, by rw [hl, hlength, List.append_nil]⟩

theorem State.setTime_path (s : State) (tn : Nat) : (s.setTime tn).path = s.path := by
  have hload : State.path { s with clk := s.clk.load s.rst.inForce.schedule.stepLimit tn } = s.path := rfl
  exact ((State.trigger_path _).trans (State.checkChannels_calm _).path).trans
    (path_ite hload ((State.postNow_path _ _ _ _ _ _).trans hload))

/-! ### Publishing -/

theorem State.finishPublish_path (s : State) : s.finishPublish.path = s.path := by
  have hreplan := (State.startReplan_calm (s := { s with pln := { s.pln with snapshot := none } }) rfl).path
  exact path_ite (path_ite hreplan rfl) rfl

theorem State.replacePlan_path (s : State) (p : Plan) : (s.replacePlan p).path = s.path :=
  path_ite (State.postNow_path _ _ _ _ _ _) rfl

theorem State.publish_path (s : State) : s.publish.path = s.path := by
  unfold State.publish
  split
  · rfl
  · exact ((((State.finishPublish_path _).trans (State.reloadWake_path _)).trans (State.reloadWarn_calm _).path).trans
      (State.reconcile_calm State.trigger_calm _).path).trans (State.replacePlan_path _ _)

theorem State.PathLaw.publish {s : State} (h : s.PathLaw) : s.publish.PathLaw := by
  cases hs : s.pln.snapshot with
  | none => rwa [State.publish, hs]
  | some sn =>
    refine h.of_path s.publish_path fun hd => ?_
    obtain ⟨-, -, hnone, -⟩ := h.quiet hd
    cases hs.symm.trans hnone

/-! ### Window commands -/

theorem State.joinSectors_path (s : State) (sectors : List Nat) : (s.joinSectors sectors).path = s.path :=
  (State.joinSectors_rework s sectors).path

theorem State.doConfirm_path (s : State) (ref : Nat) : (s.doConfirm ref).2.path = s.path := by
  unfold State.doConfirm
  split
  · exact ((State.setRun_calm _ _).trans (State.reloadRunChannels_calm _)).path
  · rfl

theorem State.doFailure_path (s : State) (ref : Nat) : (s.doFailure ref).2.path = s.path := by
  unfold State.doFailure
  split
  · exact (State.endRun_calm State.trigger_calm _ _ _ _).path
  · rfl

theorem State.decline_path (s : State) (e : WaitingEntry) : (s.decline e).path = s.path :=
  ((((State.dropWaiting_calm s e.ref).trans (State.addHistory_calm _ _)).trans
    (Calm.ite (State.manualEnd_calm _ _ _ _) (Calm.refl _))).trans ((State.reloadRunChannels_calm _).trans
    (State.trigger_calm _))).path

theorem State.doKeep_path (s : State) (ref : Nat) : (s.doKeep ref).2.path = s.path := by
  unfold State.doKeep
  split
  · exact State.decline_path _ _
  · split
    · rfl
    · split
      · split
        · exact (State.reloadRunChannels_calm s).path
        · rfl
      · rfl

theorem State.commandWork_path (s : State) (c : Command) : (s.commandWork c).2.path = s.path := by
  cases c with
  | setTime t => exact State.setTime_path s t.toNat
  | confirmStart r => exact State.doConfirm_path s r.toNat
  | reportFailure r => exact State.doFailure_path s r.toNat
  | view v => exact (State.doView_calm s v.toNat).path
  | viewEnd => exact (State.doViewEnd_calm s).path
  | keepViewing r => exact State.doKeep_path s r.toNat
  | replan =>
    simp only [State.commandWork]
    split
    · exact State.trigger_path s
    · rfl
  | rescan => exact State.joinSectors_path s s.watchedSectors
  | _ => rfl

theorem State.complete_path (s : State) (code : Byte) (r : CmdResult) : (s.complete code r).path = s.path := by
  rw [State.complete_eq]
  rfl

/-- A command is heard in RUN, with the SoC owning the path. -/
theorem State.OpenPath.runCommand {s : State} (h : s.OpenPath) (ho : s.fpx.owner = .soc) (c : Command) :
    (s.runCommand c).PathLaw := by
  by_cases hok : argOk c = true
  · rw [State.runCommand_ok hok]
    have hpath := (State.complete_path _ (commandCode c) (s.commandWork c).1).trans (State.commandWork_path s c)
    have hdone := h.of_path hpath
    have howner := (path_owner hpath).trans ho
    cases c with
    | lend ms => exact (hdone.beginLend howner ms.toNat).toPathLaw
    | standby => exact hdone.enterStandby (hdone.owner.1 howner).1
    | clearFlags m => exact (hdone.of_path (by rfl)).toPathLaw
    | _ => exact hdone.toPathLaw
  · rw [State.runCommand_bad (Bool.eq_false_iff.2 hok)]
    exact (h.of_path (State.complete_path _ _ _)).toPathLaw

theorem State.OpenPath.takeCommand {s : State} (h : s.OpenPath) (ho : s.fpx.owner = .soc) (offset : Byte) (sent : List Byte) :
    (s.takeCommand offset sent).PathLaw := by
  unfold State.takeCommand
  split
  · exact h.runCommand ho _
  · unfold State.failCommand
    split
    · exact (h.of_path (State.complete_path _ _ _)).toPathLaw
    · exact (h.of_path ((State.complete_path { s with freeCount := _ } _ _).trans (by rfl))).toPathLaw

/-! ### Selections -/

theorem State.PathLaw.disarm {s : State} (h : s.PathLaw) : s.disarm.PathLaw := h.of_path rfl fun _ => ⟨rfl, rfl, rfl⟩

theorem State.PathLaw.clearPorts {s : State} (h : s.PathLaw) : s.clearPorts.PathLaw := h.of_path rfl fun _ => ⟨rfl, rfl, rfl⟩

theorem State.PathLaw.dropSelection {s : State} (h : s.PathLaw) (sel : Selection) : (s.dropSelection sel).PathLaw := by
  unfold State.dropSelection
  simp only
  split <;> exact h.of_path rfl fun _ => ⟨rfl, rfl, rfl⟩

theorem State.serve_path (s : State) (off n : Nat) : (s.serve off n).2.path = s.path := by
  induction n generalizing s off with
  | zero => rfl
  | succ n ih =>
    have hserved : (s.served off).path = s.path := by
      unfold State.served
      split
      · rfl
      · split
        · unfold State.flipToggle
          split <;> rfl
        · rfl
    exact (ih _ _).trans hserved

theorem State.readFlash_path (s : State) (sel : Selection) (addr n : Nat) : (s.readFlash sel addr n).path = s.path := by
  unfold State.readFlash
  split
  · exact s.serve_path (addr % Config.blockSize) n
  · exact s.serve_path 0 _

theorem State.path_rst (s : State) (r : Rst) : State.path { s with rst := r } = s.path := rfl

theorem State.mirrorProgram_path (s : State) (addr : Nat) (data : List Byte) : (s.mirrorProgram addr data).path = s.path := by
  unfold State.mirrorProgram
  simp only
  split
  · exact s.path_rst _
  · split
    · split
      · exact s.path_rst _
      · rfl
    · rfl

theorem State.mirrorErase_path (s : State) (lo len : Nat) : (s.mirrorErase lo len).path = s.path := by
  unfold State.mirrorErase
  simp only
  split <;> exact s.path_rst _

theorem State.handProgram_path (s : State) (addr : Nat) (data : List Byte) : (s.handProgram addr data).path = s.path :=
  (s.handProgram_rework addr data).elim Rework.path fun h => h.path.trans (State.mirrorProgram_path _ _ _)

theorem State.handErase_path (s : State) (r : FlashRange) : (s.handErase r).path = s.path :=
  (s.handErase_rework r).elim Rework.path fun h => h.path.trans (State.mirrorErase_path _ _ _)

theorem State.judgeProgram_path (s : State) (addr : Nat) (data : List Byte) (whole : Bool) :
    (s.judgeProgram addr data whole).path = s.path := path_ite ((State.handProgram_path _ _ _).trans rfl) rfl

theorem State.judgeErase_path (s : State) (kind : WriteKind) (r : FlashRange) (ended : Bool) :
    (s.judgeErase kind r ended).path = s.path := path_ite ((State.handErase_path _ _).trans rfl) rfl

theorem State.guardCancel_path (s : State) (sel : Selection) (cls : InstrClass) (ref : Nat) :
    (s.guardCancel sel cls ref).path = s.path := (State.postNow_path _ _ _ _ _ _).trans rfl

theorem State.doReset_path (s : State) : s.doReset.path = s.path :=
  path_ite ((State.joinSectors_path _ _).trans rfl) rfl

theorem State.countedEffect_path (s : State) (cls : InstrClass) : (s.countedEffect cls).path = s.path := by
  cases cls with
  | suspend =>
    change s.doSuspend.path = _
    unfold State.doSuspend
    split <;> rfl
  | resume =>
    change s.doResume.path = _
    unfold State.doResume
    split <;> rfl
  | reset => exact s.doReset_path
  | _ => rfl

theorem State.selectErase_path (s : State) (sel : Selection) (cls : InstrClass) (kind : WriteKind) (addr : Nat) (r : FlashRange)
    (guarded ended : Bool) : (s.selectErase sel cls kind addr r guarded ended).path = s.path :=
  path_ite rfl (path_ite (State.guardCancel_path _ _ _ _) ((State.judgeErase_path _ _ _ _).trans rfl))

theorem State.cutShort_path (s : State) (sel : Selection) : (s.cutShort sel).path = s.path := by
  rcases s.cutShort_cases sel with ⟨h, -⟩ | h <;> rw [h] <;> rfl

theorem State.statusResponse_path (s : State) (b : Byte) : (s.statusResponse b).path = s.path := path_ite rfl rfl

/-- A decoded selection leaves the path, or takes a window command. -/
theorem State.selectClass_path (s : State) (sel : Selection) (e : ClassEntry) :
    (s.selectClass sel e).path = s.path
    ∨ ∃ offset sent, s.selectClass sel e = (s.cut sel.code).takeCommand offset sent := by
  unfold State.selectClass
  split
  · exact .inl (s.readFlash_path _ _ _)
  · exact .inl (s.readFlash_path _ _ _)
  · unfold State.selectProgram
    split
    · simp only
      split
      · exact .inr ⟨_, _, rfl⟩
      · exact .inl rfl
    · exact .inl (path_ite (State.guardCancel_path _ _ _ _) ((State.judgeProgram_path _ _ _ _).trans rfl))
  · exact .inl (s.selectErase_path _ _ _ _ _ _ _)
  · exact .inl (s.selectErase_path _ _ _ _ _ _ _)
  · exact .inl (s.cutShort_path _)
  · exact .inl (s.cutShort_path _)
  · exact .inl (s.cutShort_path _)
  · exact .inl (s.cutShort_path _)
  · exact .inl (s.cutShort_path _)
  · exact .inl (path_ite (State.guardCancel_path _ _ _ _) ((State.judgeErase_path _ _ _ _).trans rfl))
  · exact .inl (path_ite rfl rfl)
  · exact .inl ((path_foldl State.statusResponse_path _ _).trans rfl)
  · exact .inl (path_ite ((State.countedEffect_path _ _).trans rfl) rfl)

/-- A selection that is heard comes in RUN. -/
theorem State.PathLaw.select {s : State} (h : s.PathLaw) (sel : Selection) : (s.select sel).PathLaw := by
  cases ho : s.fpx.owner with
  | k240 =>
    rw [State.select_owned ho]
    exact h.dropSelection sel
  | soc =>
    have hopen : s.OpenPath := ⟨h, fun hd => by rw [(h.owner.1 ho).1] at hd; cases hd⟩
    simp only [State.select, ho]
    split
    · unfold State.selectAttached
      split
      · exact (hopen.of_path (by rfl)).toPathLaw
      · rename_i e _
        have hclass : (s.selectClass sel e).PathLaw := by
          rcases s.selectClass_path sel e with hp | ⟨offset, sent, ht⟩
          · exact (hopen.of_path hp).toPathLaw
          · rw [ht]
            exact (hopen.of_path (t := s.cut sel.code) rfl).takeCommand ho offset sent
        unfold State.settleArm
        split
        · exact hclass
        · exact hclass.disarm
    · unfold State.selectDetached
      simp only
      split
      · exact (hopen.of_path (by rfl)).toPathLaw
      · exact (hopen.of_path ((State.doReset_path (s.forward sel)).trans (by rfl))).toPathLaw.disarm
      · exact (hopen.of_path (by rfl)).toPathLaw

theorem State.PathLaw.commandProgram {s : State} (h : s.PathLaw) (offset : Byte) (sent : List Byte) {act : State → State}
    (hact : ∀ u, State.OpenPath u → u.fpx.owner = .soc → (act u).PathLaw) : (s.commandProgram offset sent act).PathLaw := by
  unfold State.commandProgram
  split
  · exact h
  · simp only
    split
    · exact h.dropSelection _
    · rename_i ho
      have hopen : s.OpenPath := ⟨h, fun hd => by rw [(h.owner.1 ho).1] at hd; cases hd⟩
      split
      · rename_i e _ _ _
        exact (hact (s.cut e.code) (hopen.of_path rfl) ho).disarm
      · exact (hopen.of_path (by rfl)).toPathLaw

theorem State.PathLaw.serveAlone {s : State} (h : s.PathLaw) (off : Nat) : (s.serveAlone off).PathLaw := by
  unfold State.serveAlone
  split
  · rename_i ho
    have hopen : s.OpenPath := ⟨h, fun hd => by rw [(h.owner.1 ho.1).1] at hd; cases hd⟩
    exact (hopen.of_path (t := ((s.serve off 1).2.socPort (s.serve off 1).1).disarm) (s.serve_path off 1)).toPathLaw
  · exact h

/-! ### The scan engine -/

/-- A change of the scan engine's state, where no hand-back waits for a read. -/
theorem State.OpenPath.of_scan {s t : State} {x : ScanState} (h : s.OpenPath) (hb : s.pwc.handBack = false)
    (k : t.path = { s.path with fpx := { s.path.fpx with scan := x } }) : t.OpenPath := by
  refine State.OpenPath.of_path (s := { s with fpx := { s.fpx with scan := x } }) ?_ k
  exact ⟨⟨h.owner, h.lend, fun hback => absurd (hb.symm.trans hback) nofun, h.socrst, h.wakeLine, h.waking, h.note,
    fun hd => absurd hd h.awake⟩, h.awake⟩

theorem State.pollFlash_path (s : State) : s.pollFlash.path = s.path := by
  have hport : State.path (match s.fpx.classTable.ownOf .readStatus with
      | some e => s.flashPort (.own e.code none e.dummy 1)
      | none => s) = s.path := by
    split <;> rfl
  unfold State.pollFlash
  simp only
  split
  · exact hport
  · exact hport

theorem State.beginRead_path (s : State) (x : Nat) (p : Purpose) :
    (s.beginRead x p).path = { s.path with fpx := { s.path.fpx with scan := .reading x p } } := by
  unfold State.beginRead
  simp only
  split <;> rfl

theorem State.pollFor_path (s : State) (x : Nat) (p : Purpose) (bs : List Byte) :
    ∃ y, (s.pollFor x p bs).path = { s.path with fpx := { s.path.fpx with scan := y } } := by
  induction bs generalizing s with
  | nil => exact ⟨.waiting x p, rfl⟩
  | cons b bs ih =>
    have hpoll := (State.statusResponse_path s.pollFlash b).trans s.pollFlash_path
    unfold State.pollFor
    simp only
    split
    · exact ⟨_, by rw [State.beginRead_path, hpoll]⟩
    · obtain ⟨y, hy⟩ := ih (s.pollFlash.statusResponse b)
      exact ⟨y, by rw [hy, hpoll]⟩

theorem State.wakeForRead_path (s : State) : s.wakeForRead.path = s.path := by
  unfold State.wakeForRead
  split <;> rfl

theorem State.PathLaw.startSector {s : State} (h : s.PathLaw) (bs : List Byte) : (s.startSector bs).PathLaw := by
  unfold State.startSector
  split
  case isFalse => exact h
  case isTrue hscan =>
    simp only [State.scanOpen, Bool.and_eq_true, decide_eq_true_eq, Bool.not_eq_true'] at hscan
    obtain ⟨⟨⟨⟨-, hawake⟩, hback⟩, -⟩, -⟩ := hscan
    have hopen : s.OpenPath := ⟨h, hawake⟩
    split
    · split
      · rename_i x p _
        obtain ⟨y, hy⟩ := s.wakeForRead.pollFor_path x p bs
        exact (hopen.of_scan hback (hy.trans (by rw [State.wakeForRead_path]))).toPathLaw
      · exact h
    · rename_i x p _
      obtain ⟨y, hy⟩ := s.pollFor_path x p bs
      exact (hopen.of_scan hback hy).toPathLaw
    · exact h

theorem State.PathLaw.busyTimeout {s : State} (h : s.PathLaw) : s.busyTimeout.PathLaw := by
  unfold State.busyTimeout
  split
  · rename_i x p _ hscan
    have hopen : s.OpenPath := ⟨h, fun hd => by
      obtain ⟨hidle, -⟩ := h.quiet hd
      cases hscan.symm.trans hidle⟩
    have hback : s.pwc.handBack = false := Bool.eq_false_iff.2 fun hb => by
      obtain ⟨-, y, q, hreading⟩ := h.handBack hb
      cases hscan.symm.trans hreading
    exact (hopen.of_scan hback (State.beginRead_path { s with fpx := { s.fpx with gaveUp := true } } x p)).toPathLaw
  · exact h

/-- A sector that has been read is handed over; a hand-back that waited for it is made then (R157, R177). -/
theorem State.PathLaw.finishSector {s : State} (h : s.PathLaw) {p : Purpose} {act : Nat → State → State}
    (hact : ∀ x u, (act x u).path = u.path) : (s.finishSector p act).PathLaw := by
  unfold State.finishSector
  split
  case h_2 => exact h
  case h_1 x q hscan =>
    split
    case isFalse => exact h
    case isTrue =>
      refine State.PathLaw.dormantTest ?_
      have hawake : s.pwc.power ≠ .dormant := fun hd => by
        obtain ⟨hidle, -⟩ := h.quiet hd
        cases hscan.symm.trans hidle
      generalize hu : act x s.countSector = u
      have hpath : u.path = s.countSector.path := hu ▸ hact x _
      have hcount : State.PathLaw { s.countSector with pwc := { s.countSector.pwc with
          handBack := false, socrst := decide (s.pwc.power = .startUp) } } := by
        refine ⟨?_, ?_, nofun, ?_, h.wakeLine, h.waking, h.note, fun hd => absurd hd hawake⟩
        · refine h.owner.trans (and_congr_right fun _ => ?_)
          change _ ↔ s.fpx.lend.map _ = none
          exact (Option.map_eq_none_iff).symm
        · intro hl
          refine h.lend fun hn => hl ?_
          change s.fpx.lend.map _ = none
          rw [hn]
          rfl
        · change decide (s.pwc.power = .startUp) = true ↔ s.pwc.power = .startUp ∨ false = true
          simp
      by_cases hb : s.pwc.handBack = true
      · obtain ⟨hstandby, -⟩ := h.handBack hb
        have hwork : u.afterWork = u.finishHandBack := by
          have hp := (path_power hpath).trans hstandby
          have hhb := (path_handBack hpath).trans hb
          simp only [State.afterWork, hp, hhb, if_true]
        rw [hwork]
        have hback := State.OpenPath.finishHandBack hcount hstandby
        refine (hback.of_path ?_).toPathLaw
        have := congrArg (fun v : State => v.finishHandBack.path) hpath
        exact this
      · have hsocrst : s.pwc.socrst = decide (s.pwc.power = .startUp) := by
          rw [Bool.eq_iff_iff, h.socrst, decide_eq_true_iff, or_iff_left hb]
        have hopen : u.OpenPath := by
          refine State.OpenPath.of_path ⟨hcount, hawake⟩ (hpath.trans ?_)
          simp only [State.path, State.countSector, hsocrst, Bool.eq_false_iff.2 hb]
        exact hopen.afterWork.toPathLaw

theorem State.PathLaw.expireWrite {s : State} (h : s.PathLaw) : s.expireWrite.PathLaw := by
  unfold State.expireWrite
  split
  · rename_i w _ hw
    have hopen : s.OpenPath := ⟨h, fun hd => by
      obtain ⟨-, hnone, -⟩ := h.quiet hd
      cases hw.symm.trans hnone⟩
    exact State.PathLaw.dormantTest (hopen.of_path ((State.joinSectors_path { s with fpx := { s.fpx with inFlight := none } } _).trans (by rfl))).toPathLaw
  · exact h

theorem State.PathLaw.expireLend {s : State} (h : s.PathLaw) : s.expireLend.PathLaw := by
  have awake {l : Lend} (hl : s.fpx.lend = some l) : s.OpenPath ∧ s.pwc.handBack = false := by
    have hrun := h.lend (by rw [hl]; nofun)
    exact ⟨⟨h, by rw [hrun]; nofun⟩, h.held.handBack_false (by rw [hrun]; nofun)⟩
  unfold State.expireLend
  split
  · rename_i l x p _ hl hscan
    obtain ⟨hopen, hback⟩ := awake hl
    refine ⟨?_, fun _ => h.lend (by rw [hl]; nofun), h.handBack, h.socrst, h.wakeLine, h.waking, h.note,
      fun hd => absurd hd hopen.awake⟩
    exact ⟨fun ho => absurd (hl.symm.trans (h.owner.1 ho).2) nofun, fun hr => absurd hr.2 nofun⟩
  · rename_i l _ hl _
    obtain ⟨hopen, hback⟩ := awake hl
    exact ((hopen.of_scan (t := { s with fpx := { s.fpx with scan := .idle } }) hback rfl).endLend hl (why := .expired) nofun).toPathLaw
  · exact h

theorem State.pollWrite_path (s : State) (bs : List Byte) : (s.pollWrite bs).path = s.path := by
  induction bs generalizing s with
  | nil => rfl
  | cons b bs ih =>
    have hpoll := (State.statusResponse_path s.pollFlash b).trans s.pollFlash_path
    exact path_ite hpoll ((ih _).trans hpoll)

theorem State.PathLaw.standbyPoll {s : State} (h : s.PathLaw) (bs : List Byte) : (s.standbyPoll bs).PathLaw := by
  unfold State.standbyPoll
  split
  · rename_i hstandby
    exact State.PathLaw.dormantTest (h.of_path (s.pollWrite_path bs) fun hd => nomatch hstandby.1.symm.trans hd)
  · exact h

theorem State.replaceSector_path (s : State) (sector : Nat) (data : List Byte) : (s.replaceSector sector data).path = s.path := by
  unfold State.replaceSector
  simp only
  split
  · rfl
  · split <;> rfl

theorem State.mirrorVerify_path (s : State) (sector : Nat) (data : List Byte) :
    (s.mirrorVerify State.trigger sector data).path = s.path := by
  have hcorrected : State.path (if (s.replaceSector sector data).rst.anchor ≠ s.rst.anchor
        ∨ (s.replaceSector sector data).rst.schedule ≠ s.rst.schedule then
      (s.replaceSector sector data).postNow .mirrorCorrected none (if sector = s.anchorBase then 1 else 2) sector 0
      else s.replaceSector sector data) = s.path :=
    path_ite ((State.postNow_path _ _ _ _ _ _).trans (s.replaceSector_path _ _)) (s.replaceSector_path _ _)
  have hupdate (u : State) : (u.storeUpdate State.trigger).path = u.path := (State.storeUpdate_rework State.trigger_calm u).path
  unfold State.mirrorVerify
  simp only
  split
  · refine (hupdate _).trans (Eq.trans ?_ hcorrected)
    exact (rfl : State.path (State.adopt _) = State.path (State.resolveAnchor _)).trans (State.resolveAnchor_rework _).path
  · exact (hupdate _).trans hcorrected

/-! ### Every row and every step -/

theorem State.PathLaw.powered {s : State} (h : s.PathLaw) {act : State → State} (hact : s.clearPorts.PathLaw → (act s.clearPorts).PathLaw) :
    (s.powered act).PathLaw := by
  unfold State.powered
  split
  · exact hact h.clearPorts
  · exact h.clearPorts

theorem State.PathLaw.of_reset {s : State} (hf : s.fpx = Fpx.afterReset) {cold : Bool} (hp : s.pwc = Pwc.afterReset cold) :
    s.PathLaw := by
  constructor <;> rw [hp] <;> try rw [hf]
  all_goals simp [Pwc.afterReset, Fpx.afterReset]

theorem exec_pathLaw {c : Instr} {s t : State} (h : s.PathLaw) (hexec : exec c s = .next t) : t.PathLaw := by
  have hselect (sel : Selection) : (s.powered fun s => s.select sel).PathLaw := h.powered fun h => h.select sel
  have hcommand (c : Command) : (s.powered fun s => s.windowCommand c).PathLaw :=
    h.powered fun h => h.commandProgram _ _ fun u hu ho => hu.runCommand ho c
  have hevent {ch : Channel} {act : CompareEvent → State → State} (hact : ∀ e u, Calm u (act e u)) :
      (s.powered fun s => (s.takeEvent ch act).dormantTest).PathLaw :=
    h.powered fun h => (h.takeEvent fun e u hu => (hu.calm (hact e u)).toPathLaw).dormantTest
  cases c with
  | coldReset => cases hexec; exact State.PathLaw.of_reset rfl rfl
  | warmReset => cases hexec; exact State.PathLaw.of_reset rfl rfl
  | vddFall =>
    cases hexec
    refine h.powered fun h => h.of_path rfl fun _ => ⟨rfl, rfl, ?_⟩
    simp only [Clk.disableAll_eq]
  | pwrgoodRise =>
    cases hexec
    split
    · exact h.clearPorts.pwrgoodUp.dormantTest
    · exact h.clearPorts.of_path rfl fun _ => ⟨rfl, rfl, rfl⟩
  | pwrgoodFall =>
    cases hexec
    split
    · exact h.clearPorts.pwrgoodDown
    · exact h.clearPorts.of_path rfl fun _ => ⟨rfl, rfl, rfl⟩
  | counterAdvance => cases hexec; exact h.clearPorts.advanceCounter
  | clockLatchRead => cases hexec; exact h.powered fun h => h.serveAlone _
  | replanToggleRead => cases hexec; exact h.powered fun h => h.serveAlone _
  | read | program | eraseSector | eraseBlock | eraseChip | writeStatus | readStatus | writeEnable | writeDisable | suspend
  | resume | resetArm | flashReset | powerDown | release | detaching | otherInstruction => cases hexec; exact hselect _
  | ackNotices | clearFlags | setAttnMask | setTime | confirmStart | reportFailure | view | viewEnd | keepViewing | lend
  | standby | replan | guardAnchor | rescan => cases hexec; exact hcommand _
  | invalidCommand offset sent =>
    cases hexec
    exact h.powered fun h => h.commandProgram _ _ fun u hu ho => hu.takeCommand ho offset sent
  | startEvent T => cases hexec; exact hevent fun e u => State.startDue_calm State.trigger_calm T e.time u
  | stopEvent T => cases hexec; exact hevent fun e u => State.stopDue_calm State.trigger_calm T e.time u
  | confirmEvent => cases hexec; exact hevent fun e u => State.confirmDue_calm State.trigger_calm e.time u
  | warnEvent => cases hexec; exact hevent fun e u => State.warnDue_calm e.time u
  | wakeEvent => cases hexec; exact h.powered fun h => (h.takeEvent fun e u hu => (hu.wakeFired e).toPathLaw).dormantTest
  | replanPublish => cases hexec; exact h.powered fun h => h.publish.dormantTest
  | sectorReadStart responses => cases hexec; exact h.powered fun h => h.startSector responses
  | busyWaitTimeout => cases hexec; exact h.powered fun h => h.busyTimeout
  | mirrorSectorVerify data =>
    cases hexec
    exact h.powered fun h => h.finishSector fun x u => u.mirrorVerify_path x _
  | guideSectorVerify data =>
    cases hexec
    exact h.powered fun h => h.finishSector fun x u => (State.guideVerify_rework State.trigger_calm x _ u).path
  | guideSectorScan data =>
    cases hexec
    exact h.powered fun h => h.finishSector fun x u => (State.guideScan_rework State.trigger_calm x _ u).path
  | writeDeadlineExpiry => cases hexec; exact h.powered fun h => h.expireWrite
  | lendExpiry => cases hexec; exact h.powered fun h => h.expireLend
  | wakeDeadlineExpiry => cases hexec; exact h.powered fun h => h.wakeExpired.dormantTest
  | standbyStatusPoll bs => cases hexec; exact h.powered fun h => h.standbyPoll bs

/-- Settles O57: every row keeps the law, and the idle step leaves the path alone. -/
theorem everyStepKeepsThePathLaw : Obligations.EveryStepKeepsThePathLaw := by
  intro s t h hstep
  unfold step at hstep
  split at hstep
  · cases hstep
    exact h.of_path rfl fun _ => ⟨rfl, rfl, rfl⟩
  · rename_i rest _
    exact exec_pathLaw (s := { s with pending := rest }) (h.of_path rfl fun _ => ⟨rfl, rfl, rfl⟩) hstep

end Sys2Proof.Machine

/-! PROOFS. Every step keeps the law of start-up, and with it the tuner records within the configuration in force. -/

namespace Sys2Proof.Machine

/-! ### What the law of start-up reads -/

/-- What the law of start-up reads. -/
structure StartView where
  adopted : Bool
  power : PowerState
  owner : PathOwner
  attached : Bool
  asleep : Bool
  inFlight : Option InFlight
  suspended : Option Suspended
  lend : Option Lend
  scan : ScanState
  fsize : FlashSize
  verify : List Nat
  valid : Bool
  snapshot : Option Snapshot
  runs : List ActiveRun
  waiting : List WaitingEntry
  tunerA : TunerRec
  tunerB : TunerRec

def State.rest (s : State) : StartView :=
  { adopted := s.rst.adopted, power := s.pwc.power, owner := s.fpx.owner, attached := s.fpx.attached, asleep := s.fpx.asleep
    inFlight := s.fpx.inFlight, suspended := s.fpx.suspended, lend := s.fpx.lend, scan := s.fpx.scan, fsize := s.pins.fsize
    verify := s.rst.verify, valid := s.clk.valid, snapshot := s.pln.snapshot, runs := s.run.runs, waiting := s.run.waiting
    tunerA := s.tun.a, tunerB := s.tun.b }

/-- Until the anchor is first verified (R21, R93, R173): the law's conclusion by its parts. -/
structure State.AtStart (s : State) : Prop where
  power : s.pwc.power = .startUp
  owner : s.fpx.owner = .k240
  attached : s.fpx.attached = true
  asleep : s.fpx.asleep = false
  inFlight : s.fpx.inFlight = none
  suspended : s.fpx.suspended = none
  lend : s.fpx.lend = none
  anchor : s.rst.verify.contains s.pins.fsize.anchor = true
  scan : ∀ x p, s.fpx.scan = .waiting x p ∨ s.fpx.scan = .reading x p → x = s.pins.fsize.anchor ∧ p = .mirror
  valid : s.clk.valid = false
  snapshot : s.pln.snapshot = none
  runs : s.run.runs = []
  waiting : s.run.waiting = []
  tunerA : s.tun.a = ⟨none, none, 0, none⟩
  tunerB : s.tun.b = ⟨none, none, 0, none⟩

theorem State.startUpLaw_iff (s : State) : s.StartUpLaw ↔ (s.rst.adopted = false → s.AtStart) := by
  refine ⟨fun h ha => ?_, fun h ha => ?_⟩
  · obtain ⟨h1, h2, h3, h4, h5, h6, h7, h8, h9, h10, h11, h12, h13, h14, h15⟩ := h ha
    exact ⟨h1, h2, h3, h4, h5, h6, h7, h8, h9, h10, h11, h12, h13, h14, h15⟩
  · obtain ⟨h1, h2, h3, h4, h5, h6, h7, h8, h9, h10, h11, h12, h13, h14, h15⟩ := h ha
    exact ⟨h1, h2, h3, h4, h5, h6, h7, h8, h9, h10, h11, h12, h13, h14, h15⟩

theorem State.StartUpLaw.of_adopted {s : State} (h : s.rst.adopted = true) : s.StartUpLaw :=
  fun ha => nomatch h.symm.trans ha

theorem State.AtStart.law {s : State} (h : s.AtStart) : s.StartUpLaw := s.startUpLaw_iff.2 fun _ => h

theorem State.AtStart.of_rest {s t : State} (h : s.AtStart) (k : t.rest = s.rest) : t.AtStart := by
  have hscan : t.fpx.scan = s.fpx.scan := congrArg StartView.scan k
  have hsize : t.pins.fsize = s.pins.fsize := congrArg StartView.fsize k
  have hverify : t.rst.verify = s.rst.verify := congrArg StartView.verify k
  constructor
  case power => exact (congrArg StartView.power k).trans h.power
  case owner => exact (congrArg StartView.owner k).trans h.owner
  case attached => exact (congrArg StartView.attached k).trans h.attached
  case asleep => exact (congrArg StartView.asleep k).trans h.asleep
  case inFlight => exact (congrArg StartView.inFlight k).trans h.inFlight
  case suspended => exact (congrArg StartView.suspended k).trans h.suspended
  case lend => exact (congrArg StartView.lend k).trans h.lend
  case anchor => rw [hverify, hsize]; exact h.anchor
  case scan => rw [hscan, hsize]; exact h.scan
  case valid => exact (congrArg StartView.valid k).trans h.valid
  case snapshot => exact (congrArg StartView.snapshot k).trans h.snapshot
  case runs => exact (congrArg StartView.runs k).trans h.runs
  case waiting => exact (congrArg StartView.waiting k).trans h.waiting
  case tunerA => exact (congrArg StartView.tunerA k).trans h.tunerA
  case tunerB => exact (congrArg StartView.tunerB k).trans h.tunerB

theorem State.StartUpLaw.of_rest {s t : State} (h : s.StartUpLaw) (k : t.rest = s.rest) : t.StartUpLaw := by
  rw [State.startUpLaw_iff] at h ⊢
  exact fun ha => (h ((congrArg StartView.adopted k).symm.trans ha)).of_rest k

/-- An operation of the channels, the notices and the flags leaves what the law reads. -/
theorem rest_of_quiet {s t : State} (q : Quiet s t) (c : Calm s t) : t.rest = s.rest := by
  have hsnapshot : t.pln.snapshot = s.pln.snapshot := congrArg (fun u => u.pln.snapshot) q.core
  have hruns : t.run.runs = s.run.runs := congrArg (fun u => u.run.runs) q.core
  have hwaiting : t.run.waiting = s.run.waiting := congrArg (fun u => u.run.waiting) q.core
  have htun : t.tun = s.tun := congrArg (fun u => u.tun) q.core
  simp only [State.rest, c.rework.adopted, c.rework.pwc, c.fpx, c.rework.pins, c.verify, c.rework.valid, hsnapshot, hruns,
    hwaiting, htun]

theorem State.reloadRunChannels_rest (s : State) : s.reloadRunChannels.rest = s.rest :=
  rest_of_quiet (State.reloadRunChannels_quiet s) (State.reloadRunChannels_calm s)

theorem State.postNow_rest (s : State) (k : NoticeKind) (t : Option Tuner) (d : Int) (r : Nat) (a : Int) :
    (s.postNow k t d r a).rest = s.rest :=
  rest_of_quiet (State.postNow_quiet s k t d r a) (State.postNow_calm s k t d r a)

theorem State.reloadWake_rest (s : State) : s.reloadWake.rest = s.rest := by
  obtain ⟨tg, c, hcalm, h⟩ := s.reloadWake_cases
  have hvalid : s.reloadWake.clk.valid = s.clk.valid := hcalm.rework.valid
  rw [h] at hvalid ⊢
  exact congrArg (fun v => { s.rest with valid := v }) hvalid

theorem State.pollFlash_pins (s : State) : s.pollFlash.pins = s.pins := by
  unfold State.pollFlash
  cases s.fpx.classTable.ownOf .readStatus <;> simp only <;> split <;> rfl

theorem State.statusResponse_pins (s : State) (b : Byte) : (s.statusResponse b).pins = s.pins := by
  unfold State.statusResponse
  split <;> rfl

/-! ### The operations at the start -/

namespace State.AtStart

variable {s : State} (h : s.AtStart)
include h

theorem dormantTest_eq : s.dormantTest = s := by
  rcases s.dormantTest_cases with ht | ⟨hr, -⟩ | ⟨_, _, hr, -⟩
  · exact ht
  all_goals exact nomatch h.power.symm.trans (State.dormantReady_quiet hr).1

theorem dormantReturn_eq : s.dormantReturn = s := by
  rcases s.dormantReturn_cases with ⟨-, ht⟩ | ⟨hd, -⟩ | ⟨_, hd, -⟩
  · exact ht
  all_goals exact nomatch h.power.symm.trans hd

theorem trigger_eq : s.trigger = s := by
  simp [State.trigger, h.snapshot, h.valid]

theorem dropSelection (sel : Selection) : (s.dropSelection sel).AtStart := by
  unfold State.dropSelection
  simp only
  split <;> exact h.of_rest rfl

theorem select (sel : Selection) : (s.select sel).AtStart := by
  rw [State.select_owned h.owner]
  exact h.dropSelection sel

theorem commandProgram (offset : Byte) (sent : List Byte) (act : State → State) : (s.commandProgram offset sent act).AtStart := by
  unfold State.commandProgram
  split
  · exact h
  · simp only [h.owner]
    exact h.dropSelection _

theorem serveAlone_eq (off : Nat) : s.serveAlone off = s := by
  simp [State.serveAlone, h.owner]

theorem takeEvent {c : Channel} {act : CompareEvent → State → State} (hact : ∀ e u, State.AtStart u → (act e u).AtStart) :
    ((s.takeEvent c act).dormantTest).AtStart := by
  have htaken : (s.takeEvent c act).AtStart := by
    unfold State.takeEvent
    split
    · exact h
    · rename_i e rest _
      exact hact e { s with clk := { s.clk with events := rest } } (h.of_rest rfl)
  rw [htaken.dormantTest_eq]
  exact htaken

/-- With nothing recorded and nothing waiting, an event of the run engine only reloads the channels. -/
theorem startDue (T : Tuner) (f : Nat) : (s.startDue State.trigger T f).AtStart := by
  have hdue : s.run.dueStarts T f = [] := by
    simp [RunEngine.dueStarts, h.waiting, sortBy]
  rw [State.startDue, hdue]
  exact h.of_rest (State.reloadRunChannels_rest s)

theorem stopDue (T : Tuner) (f : Nat) : (s.stopDue State.trigger T f).AtStart := by
  have hstops : s.run.dueStops T f = [] := by
    simp [RunEngine.dueStops, h.runs, sortBy]
  have hblocked : s.run.dueBlocked T f = [] := by
    simp [RunEngine.dueBlocked, h.waiting, sortBy]
  rw [State.stopDue, hstops, hblocked]
  exact h.of_rest (State.reloadRunChannels_rest s)

theorem confirmDue (f : Nat) : (s.confirmDue State.trigger f).AtStart := by
  have hdue : s.run.dueConfirms f = [] := by
    simp [RunEngine.dueConfirms, h.runs, sortBy]
  rw [State.confirmDue, hdue]
  exact h.of_rest (State.reloadRunChannels_rest s)

theorem warnDue (f : Nat) : (s.warnDue f).AtStart := by
  have hdue : s.threatened.filter (fun e => s.warningTime e ≤ f) = [] := by
    simp [State.threatened, h.waiting]
  rw [State.warnDue, hdue]
  exact h.of_rest (rest_of_quiet (State.reloadWarn_quiet s) (State.reloadWarn_calm s))

theorem wakeFired (e : CompareEvent) : (s.wakeFired e).AtStart := by
  unfold State.wakeFired
  split
  · exact h.of_rest s.reloadWake_rest
  · rename_i target _
    simp only
    rw [if_neg (by simp [h.power])]
    exact h.of_rest ((State.reloadWake_rest { s with pwc := { s.pwc with wokenFor := some target.wstart } }).trans rfl)

theorem wakeExpired : s.wakeExpired.AtStart := by
  unfold State.wakeExpired
  split
  · exact h
  · split
    · exact h.of_rest (State.postNow_rest s.endWake _ _ _ _ _)
    · exact h

theorem advanceCounter : s.advanceCounter.AtStart := by
  have hvalid : s.clk.advance.valid = false := by
    unfold Clk.advance
    split
    · rw [Clk.disableAll_eq]
    · exact h.valid
  have hadvanced : State.AtStart { s with clk := s.clk.advance } := by
    refine h.of_rest ?_
    exact congrArg (fun v => { s.rest with valid := v }) (hvalid.trans h.valid.symm)
  unfold State.advanceCounter
  split
  case isFalse => exact hadvanced
  case isTrue =>
    unfold State.advancePowered
    simp only
    split
    case isTrue => exact hadvanced.of_rest (State.postNow_rest _ _ _ _ _ _)
    case isFalse =>
      have hchecked : (State.checkChannels { s with clk := s.clk.advance }).AtStart :=
        hadvanced.of_rest (rest_of_quiet (State.checkChannels_quiet _) (State.checkChannels_calm _))
      simp only [hchecked.dormantReturn_eq, hchecked.trigger_eq, ite_self, hchecked.dormantTest_eq]
      exact hchecked

theorem pwrgoodUp : s.pwrgoodUp.AtStart := by
  unfold State.pwrgoodUp
  split
  · exact h
  · simp only [h.power]
    exact h.of_rest rfl

theorem pwrgoodDown : s.pwrgoodDown.AtStart := by
  unfold State.pwrgoodDown
  split
  · simp only [h.power]
    exact h.of_rest rfl
  · exact h

/-! The scan engine works the anchor and nothing else. -/

theorem of_scan {t : State} {y : ScanState} (hy : y = .waiting s.pins.fsize.anchor .mirror ∨ y = .reading s.pins.fsize.anchor .mirror)
    (k : t.rest = { s.rest with scan := y }) : t.AtStart := by
  refine State.AtStart.of_rest (s := { s with fpx := { s.fpx with scan := y } }) { h with scan := ?_ } k
  intro x p hx
  change y = _ ∨ y = _ at hx
  rcases hy with rfl | rfl
  · exact hx.elim (fun hw => ScanState.waiting.inj hw.symm) nofun
  · exact hx.elim nofun fun hr => ScanState.reading.inj hr.symm

theorem pollFlash : s.pollFlash.AtStart := by
  have hport : State.rest (match s.fpx.classTable.ownOf .readStatus with
      | some e => s.flashPort (.own e.code none e.dummy 1)
      | none => s) = s.rest := by
    split <;> rfl
  refine h.of_rest ?_
  unfold State.pollFlash
  simp only
  split <;> exact hport

theorem statusResponse (b : Byte) : (s.statusResponse b).AtStart := by
  unfold State.statusResponse
  split
  · exact h
  · exact { h with inFlight := rfl }

theorem beginRead : (s.beginRead s.pins.fsize.anchor .mirror).AtStart := by
  refine h.of_scan (.inr rfl) ?_
  unfold State.beginRead
  simp only
  split <;> rfl

theorem pollFor (bs : List Byte) : (s.pollFor s.pins.fsize.anchor .mirror bs).AtStart := by
  induction bs generalizing s with
  | nil => exact h.of_scan (.inl rfl) rfl
  | cons b bs ih =>
    have hsize : (s.pollFlash.statusResponse b).pins.fsize = s.pins.fsize := by
      rw [State.statusResponse_pins, State.pollFlash_pins]
    have hpolled := h.pollFlash.statusResponse b
    unfold State.pollFor
    simp only
    rw [← hsize]
    split
    · exact hpolled.beginRead
    · exact ih hpolled

theorem nextWork_eq : s.nextWork = some (s.pins.fsize.anchor, .mirror) := by
  have hmember : [s.anchorBase].filter (fun x => s.rst.verify.contains x && s.workable x) = [s.pins.fsize.anchor] := by
    have hanchor := h.anchor
    have hworkable : s.workable s.anchorBase = true := by simp [State.workable, h.suspended]
    simp only [State.anchorBase] at hworkable ⊢
    simp only [List.filter_cons, List.filter_nil, hworkable, hanchor, Bool.and_true, if_true]
  unfold State.nextWork
  simp only [h.attached, State.canWake, h.asleep, hmember]
  simp

theorem startSector (bs : List Byte) : (s.startSector bs).AtStart := by
  have hawake : s.wakeForRead = s := by simp [State.wakeForRead, h.asleep]
  unfold State.startSector
  split
  case isFalse => exact h
  case isTrue =>
    split
    · rw [h.nextWork_eq, hawake]
      exact h.pollFor bs
    · rename_i x p hscan
      obtain ⟨hx, hp⟩ := h.scan x p (.inl hscan)
      rw [hx, hp]
      exact h.pollFor bs
    · exact h

theorem busyTimeout : s.busyTimeout.AtStart := by
  unfold State.busyTimeout
  split
  · rename_i x p _ hscan
    obtain ⟨hx, hp⟩ := h.scan x p (.inl hscan)
    rw [hx, hp]
    have hgaveUp : State.AtStart { s with fpx := { s.fpx with gaveUp := true } } := h.of_rest rfl
    exact hgaveUp.beginRead
  · exact h

theorem expireWrite_eq : s.expireWrite = s := by
  simp [State.expireWrite, h.inFlight]

theorem expireLend_eq : s.expireLend = s := by
  simp [State.expireLend, h.lend]

theorem standbyPoll_eq (bs : List Byte) : s.standbyPoll bs = s := by
  simp [State.standbyPoll, h.power]

theorem publish_eq : s.publish = s := by
  simp [State.publish, h.snapshot]

/-- No read is made for the guide. -/
theorem finishSector_eq {p : Purpose} (hp : p ≠ .mirror) (act : Nat → State → State) : s.finishSector p act = s := by
  unfold State.finishSector
  split
  · rename_i x q hscan
    obtain ⟨-, rfl⟩ := h.scan x q (.inr hscan)
    exact if_neg hp
  · rfl

end State.AtStart

theorem State.replaceSector_adopted (s : State) (sector : Nat) (data : List Byte) :
    (s.replaceSector sector data).rst.adopted = s.rst.adopted := by
  unfold State.replaceSector
  simp only
  split
  · rfl
  · split <;> rfl

/-- The first verification of the anchor adopts the configuration, which is what start-up waits for (R21). -/
theorem State.mirrorVerify_adopts {s : State} {sector : Nat} (hsector : sector = s.anchorBase) (data : List Byte) :
    (s.mirrorVerify State.trigger sector data).rst.adopted = true := by
  have hupdate (u : State) : (u.storeUpdate State.trigger).rst.adopted = u.rst.adopted :=
    (State.storeUpdate_rework State.trigger_calm u).adopted
  unfold State.mirrorVerify
  simp only
  split
  case isTrue => exact (hupdate _).trans rfl
  case isFalse hadopted =>
    have hs : s.rst.adopted = true := by
      by_contra hno
      exact hadopted ⟨hsector, by simpa using hno⟩
    have hkept := s.replaceSector_adopted sector data
    rw [hupdate]
    split
    · rw [State.postNow_rst]
      exact hkept.trans hs
    · exact hkept.trans hs

theorem State.AtStart.finishMirror {s : State} (h : s.AtStart) (data : List Byte) :
    State.StartUpLaw (s.finishSector .mirror fun x s => s.mirrorVerify State.trigger x (sectorData data)) := by
  unfold State.finishSector
  split
  case h_2 => exact h.law
  case h_1 x q hscan =>
    obtain ⟨hx, hq⟩ := h.scan x q (.inr hscan)
    rw [if_pos hq.symm]
    have hpins : s.countSector.pins = s.pins := rfl
    have hadopted := State.mirrorVerify_adopts (s := s.countSector) (sector := x) (by rw [State.anchorBase, hpins, hx]) (sectorData data)
    exact State.StartUpLaw.of_adopted
      (((State.afterWork_quiet _).trans (State.dormantTest_quiet _)).adopted hadopted)

/-! ### Every row and every step -/

theorem State.AtStart.powered {s : State} (h : s.AtStart) {act : State → State}
    (hact : s.clearPorts.AtStart → (act s.clearPorts).StartUpLaw) : (s.powered act).StartUpLaw := by
  have hclear : s.clearPorts.AtStart := h.of_rest rfl
  unfold State.powered
  split
  · exact hact hclear
  · exact hclear.law

theorem State.resetBlocks_startUpLaw (s : State) {k : Clk} {cold : Bool} {o : Ports} (hk : k.valid = false) :
    State.StartUpLaw { s.resetBlocks with clk := k, pwc := Pwc.afterReset cold, ports := o } := by
  refine State.AtStart.law ⟨rfl, rfl, rfl, rfl, rfl, rfl, rfl, ?_, ?_, hk, rfl, rfl, rfl, rfl, rfl⟩
  · simp [State.resetBlocks, Rst.afterReset]
  · simp [State.resetBlocks, Fpx.afterReset]

theorem State.AtStart.exec {c : Instr} {s t : State} (h : s.AtStart) (hexec : exec c s = .next t) : t.StartUpLaw := by
  have hselect (sel : Selection) : (s.powered fun s => s.select sel).StartUpLaw := h.powered fun h => (h.select sel).law
  have hcommand (c : Command) : (s.powered fun s => s.windowCommand c).StartUpLaw :=
    h.powered fun h => (h.commandProgram _ _ _).law
  have hevent {ch : Channel} {act : CompareEvent → State → State} (hact : ∀ e u, State.AtStart u → (act e u).AtStart) :
      (s.powered fun s => (s.takeEvent ch act).dormantTest).StartUpLaw :=
    h.powered fun h => (h.takeEvent hact).law
  cases c with
  | coldReset => cases hexec; exact s.resetBlocks_startUpLaw rfl
  | warmReset => cases hexec; exact s.resetBlocks_startUpLaw rfl
  | vddFall =>
    cases hexec
    refine h.powered fun h => (h.of_rest ?_).law
    simp only [Clk.disableAll_eq]
    rfl
  | pwrgoodRise =>
    cases hexec
    have hclear : s.clearPorts.AtStart := h.of_rest rfl
    split
    · rw [hclear.pwrgoodUp.dormantTest_eq]
      exact hclear.pwrgoodUp.law
    · exact (hclear.of_rest (by rfl)).law
  | pwrgoodFall =>
    cases hexec
    have hclear : s.clearPorts.AtStart := h.of_rest rfl
    split
    · exact hclear.pwrgoodDown.law
    · exact (hclear.of_rest (by rfl)).law
  | counterAdvance => cases hexec; exact (State.AtStart.of_rest (t := s.clearPorts) h rfl).advanceCounter.law
  | clockLatchRead => cases hexec; exact h.powered fun h => by rw [h.serveAlone_eq]; exact h.law
  | replanToggleRead => cases hexec; exact h.powered fun h => by rw [h.serveAlone_eq]; exact h.law
  | read | program | eraseSector | eraseBlock | eraseChip | writeStatus | readStatus | writeEnable | writeDisable | suspend
  | resume | resetArm | flashReset | powerDown | release | detaching | otherInstruction => cases hexec; exact hselect _
  | ackNotices | clearFlags | setAttnMask | setTime | confirmStart | reportFailure | view | viewEnd | keepViewing | lend
  | standby | replan | guardAnchor | rescan => cases hexec; exact hcommand _
  | invalidCommand offset sent => cases hexec; exact h.powered fun h => (h.commandProgram _ _ _).law
  | startEvent T => cases hexec; exact hevent fun e u hu => hu.startDue T e.time
  | stopEvent T => cases hexec; exact hevent fun e u hu => hu.stopDue T e.time
  | confirmEvent => cases hexec; exact hevent fun e u hu => hu.confirmDue e.time
  | warnEvent => cases hexec; exact hevent fun e u hu => hu.warnDue e.time
  | wakeEvent => cases hexec; exact hevent fun e u hu => hu.wakeFired e
  | replanPublish =>
    cases hexec
    exact h.powered fun h => by
      rw [h.publish_eq, h.dormantTest_eq]
      exact h.law
  | sectorReadStart responses => cases hexec; exact h.powered fun h => (h.startSector responses).law
  | busyWaitTimeout => cases hexec; exact h.powered fun h => h.busyTimeout.law
  | mirrorSectorVerify data => cases hexec; exact h.powered fun h => h.finishMirror data
  | guideSectorVerify data => cases hexec; exact h.powered fun h => by rw [h.finishSector_eq (by decide)]; exact h.law
  | guideSectorScan data => cases hexec; exact h.powered fun h => by rw [h.finishSector_eq (by decide)]; exact h.law
  | writeDeadlineExpiry => cases hexec; exact h.powered fun h => by rw [h.expireWrite_eq]; exact h.law
  | lendExpiry => cases hexec; exact h.powered fun h => by rw [h.expireLend_eq]; exact h.law
  | wakeDeadlineExpiry =>
    cases hexec
    exact h.powered fun h => by
      rw [h.wakeExpired.dormantTest_eq]
      exact h.wakeExpired.law
  | standbyStatusPoll bs => cases hexec; exact h.powered fun h => by rw [h.standbyPoll_eq]; exact h.law

/-- Once adopted, a configuration stays adopted up to a reset. -/
theorem exec_startUpLaw {c : Instr} {s t : State} (h : s.StartUpLaw) (hexec : exec c s = .next t) : t.StartUpLaw := by
  by_cases ha : s.rst.adopted = true
  · by_cases hcold : c = .coldReset
    · subst hcold
      cases hexec
      exact s.resetBlocks_startUpLaw rfl
    by_cases hwarm : c = .warmReset
    · subst hwarm
      cases hexec
      exact s.resetBlocks_startUpLaw rfl
    exact State.StartUpLaw.of_adopted ((exec_moves (Q := False) False.elim hcold hwarm hexec).sound.adopted ha)
  · exact (s.startUpLaw_iff.1 h (Bool.eq_false_iff.2 ha)).exec hexec

theorem step_startUpLaw {s t : State} (h : s.StartUpLaw) (hstep : step s = .next t) : t.StartUpLaw := by
  unfold step at hstep
  split at hstep
  · cases hstep
    exact h.of_rest rfl
  · rename_i rest _
    exact exec_startUpLaw (s := { s with pending := rest }) (h.of_rest rfl) hstep

/-- Settles O59: the runs and the tuner records along the moves, the law of start-up row by row. -/
theorem everyStepKeepsTheTunerLaw : Obligations.EveryStepKeepsTheTunerLaw := by
  rintro s t ⟨hrun, hstart, htuner⟩ hstep
  have hkept : t.RunLaw ∧ t.TunerLaw :=
    step_keeps (P := fun u => u.RunLaw ∧ u.TunerLaw) (fun u => and_congr u.runLaw_core u.tunerLaw_core)
      (fun u v m hu => ⟨m.runLaw hu.1, m.tunerLaw hu.1 hu.2⟩) ⟨State.RunLaw.of_reset, Tun.Within.of_reset⟩
      (fun _ => hstart) hstep ⟨hrun, htuner⟩
  exact ⟨hkept.1, step_startUpLaw hstart hstep, hkept.2⟩

/-- Settles O60: the reset values meet each law. -/
theorem resetStateKeepsTheLaws : Obligations.ResetStateKeepsTheLaws := by
  have hfit : State.reset.TablesFit :=
    ⟨Nat.zero_le _, Nat.zero_le _, Nat.zero_le _, Nat.zero_le _, Nat.zero_le _, Nat.zero_le _, Nat.zero_le _, Nat.zero_le _,
      Nat.zero_le _, Nat.zero_le _, List.forall_mem_nil _⟩
  have hlayout : State.reset.LayoutLaw := ⟨.inl rfl, fun x hx => by simp [State.reset, Fpx.afterReset] at hx⟩
  have htables : State.reset.TablesLaw := ⟨rfl, rfl, rfl, rfl, rfl⟩
  have hstart : State.reset.StartUpLaw :=
    State.AtStart.law ⟨rfl, rfl, rfl, rfl, rfl, rfl, rfl, by decide, fun x p hx => by simp [State.reset, Fpx.afterReset] at hx,
      rfl, rfl, rfl, rfl, rfl, rfl⟩
  exact ⟨hfit, State.ListsFit.of_reset, ⟨Nat.zero_le _, by decide, by decide⟩, ⟨rfl, rfl⟩, rfl, hlayout, htables,
    State.PathLaw.of_reset rfl rfl, State.RunLaw.of_reset, hstart, Tun.Within.of_reset, stickyLaw_zero, rfl⟩

end Sys2Proof.Machine

/-! PROOFS. The queue's step, the resets and the edges of the board's lines. -/

namespace Sys2Proof.Machine

/-! ### The idle step -/

theorem idle_step {s : State} (h : s.pending = []) : step s = .next s.idlePeriod := by
  obtain ⟨pins, fpx, rst, gmx, ser, pln, clk, run, tun, rep, pwc, ports, freeCount, pending⟩ := s
  obtain rfl : pending = [] := h
  rfl

section
variable {α : Type} (s : State) (rows : List α)

theorem State.writeDue_rows : (if s.writeDue then rows else []) =
    match s.fpx.inFlight with
    | some w => if w.deadline ≤ s.clk.crystal then rows else []
    | none => [] := by
  unfold State.writeDue
  cases s.fpx.inFlight <;> simp

theorem State.lendDue_rows : (if s.lendDue then rows else []) =
    match s.fpx.lend with
    | some l => if l.expired = false ∧ l.ms * 32768 ≤ (s.clk.crystal - l.start) * 1000 then rows else []
    | none => [] := by
  unfold State.lendDue
  cases s.fpx.lend <;> simp; rfl

theorem State.busyDue_rows : (if s.busyDue then rows else []) =
    match s.fpx.scan, s.fpx.firstPoll with
    | .waiting _ _, some f => if f + 400 * 32768 ≤ s.clk.crystal then rows else []
    | _, _ => [] := by
  unfold State.busyDue State.busyOver
  cases s.fpx.scan <;> cases s.fpx.firstPoll <;> simp; rfl

theorem State.wakeDue_rows : (if s.wakeDue then rows else []) =
    match s.pwc.waking with
    | some w => if w.deadline ≤ s.clk.crystal then rows else []
    | none => [] := by
  unfold State.wakeDue
  cases s.pwc.waking <;> simp

end

/-- Settles O1: the front command by the definition of a step, the idle step by the conditions of the rows in turn. -/
theorem stepRunsFrontCommand : Obligations.StepRunsFrontCommand := by
  unfold Obligations.StepRunsFrontCommand
  refine ⟨fun c rest s => rfl, fun s h => ?_⟩
  rw [idle_step h, State.idlePeriod, State.dueRows]
  simp only [State.writeDue_rows, State.lendDue_rows, State.busyDue_rows, State.wakeDue_rows]
  rw [State.clearPorts_pending]
  simp only [h, List.nil_append]
  rfl

/-! ### Resets -/

/-- Settles O3: each block's reset value is the one the statement spells out. -/
theorem resetsLeaveTheirValues : Obligations.ResetsLeaveTheirValues := by
  unfold Obligations.ResetsLeaveTheirValues
  refine ⟨fun s => rfl, fun s => ?_⟩
  cases h : s.pwc.sleepNote <;> simp only [exec, execWarmReset, State.warmReset, startupOps, h] <;> rfl

/-! ### What a post and the test for DORMANT leave -/

/-- The report unit after a post (R163). -/
def Rep.posted (r : Rep) (n : Notice) : Rep :=
  if r.notices.length < 32 then { r with notices := r.notices ++ [n] }
  else { r with notices := r.notices.drop 1 ++ [n], sticky := r.sticky ||| Flag.bit .noticeLost }

/-- A post changes the report unit, and reads nothing else. -/
theorem State.post_posted (s : State) (n : Notice) : s.post n = { s with rep := s.rep.posted n } := by
  unfold Rep.posted
  rcases State.post_eq s n with ⟨hl, h⟩ | ⟨hl, h⟩
  · rw [h, if_pos hl]
  · rw [h, if_neg (by omega)]

@[simp] theorem State.post_rep (s : State) (n : Notice) : (s.post n).rep = s.rep.posted n := by rw [State.post_posted]

theorem State.dormantTest_still {s : State} (h : s.dormantReady = false) : s.dormantTest = s := by
  simp [State.dormantTest, h]

/-- Only STANDBY may turn into DORMANT. -/
theorem State.dormantTest_power {s : State} (h : s.pwc.power ≠ .standby) : s.dormantTest = s :=
  State.dormantTest_still (by simp [State.dormantReady, h])

/-- What the test for DORMANT and the return from it change: the power state with its note, and the flash's sleep with the
instruction that brings it about. -/
def State.beyondSleep (s : State) : State :=
  { s with ports := ⟨[], []⟩, fpx := { s.fpx with asleep := false }, pwc := { s.pwc with power := .standby, sleepNote := none } }

theorem State.dormantTest_beyondSleep (s : State) : s.dormantTest.beyondSleep = s.beyondSleep := by
  rcases s.dormantTest_cases with h | ⟨-, h⟩ | ⟨sleep, wake, -, -, h⟩ <;> rw [h] <;> rfl

theorem State.dormantReturn_beyondSleep (s : State) : s.dormantReturn.beyondSleep = s.beyondSleep := by
  rcases s.dormantReturn_cases with ⟨-, h⟩ | ⟨-, -, h⟩ | ⟨code, -, -, h⟩ <;> rw [h] <;> rfl

section
variable {s t : State} (h : t.beyondSleep = s.beyondSleep)
include h

theorem beyondSleep_pins : t.pins = s.pins := congrArg (fun u => u.pins) h
theorem beyondSleep_rst : t.rst = s.rst := congrArg (fun u => u.rst) h
theorem beyondSleep_gmx : t.gmx = s.gmx := congrArg (fun u => u.gmx) h
theorem beyondSleep_ser : t.ser = s.ser := congrArg (fun u => u.ser) h
theorem beyondSleep_pln : t.pln = s.pln := congrArg (fun u => u.pln) h
theorem beyondSleep_clk : t.clk = s.clk := congrArg (fun u => u.clk) h
theorem beyondSleep_run : t.run = s.run := congrArg (fun u => u.run) h
theorem beyondSleep_tun : t.tun = s.tun := congrArg (fun u => u.tun) h
theorem beyondSleep_rep : t.rep = s.rep := congrArg (fun u => u.rep) h
theorem beyondSleep_owner : t.fpx.owner = s.fpx.owner := congrArg (fun u => u.fpx.owner) h
theorem beyondSleep_lend : t.fpx.lend = s.fpx.lend := congrArg (fun u => u.fpx.lend) h
theorem beyondSleep_socrst : t.pwc.socrst = s.pwc.socrst := congrArg (fun u => u.pwc.socrst) h

end

/-! ### The board's lines -/

theorem State.powered_of_vdd {s : State} (h : s.pins.vdd = true) (act : State → State) : s.powered act = act s.clearPorts :=
  if_pos h

theorem exec_vddFall {s : State} (h : s.pins.vdd = true) :
    exec .vddFall s = .next { s with
      ports := ⟨[], []⟩, pins := { s.pins with vdd := false }
      clk := { s.clk with channels := s.clk.channels.disabled } } := by
  simp only [exec, execVddFall, State.powered_of_vdd h, Clk.disableAll_eq]
  rfl

section
variable {s : State}

theorem exec_pwrgoodRise (h : s.pins.vdd = true) :
    exec .pwrgoodRise s = .next s.clearPorts.pwrgoodUp.dormantTest := by
  simp only [exec, execPwrgoodRise, h, if_true]

theorem exec_pwrgoodFall (h : s.pins.vdd = true) : exec .pwrgoodFall s = .next s.clearPorts.pwrgoodDown := by
  simp only [exec, execPwrgoodFall, h, if_true]

theorem State.pwrgoodUp_awake (hp : s.pins.pwrgood = false) (h : s.pwc.power = .startUp ∨ s.pwc.power = .run) :
    s.pwrgoodUp = { s with pins := { s.pins with pwrgood := true } } := by
  rcases h with h | h <;> simp [State.pwrgoodUp, hp, h]

theorem State.pwrgoodUp_resting (hp : s.pins.pwrgood = false) (h : s.pwc.power = .standby ∨ s.pwc.power = .dormant) :
    s.pwrgoodUp =
      (State.dormantReturn { s with pins := { s.pins with pwrgood := true } }).endWake.startHandBack := by
  rcases h with h | h <;> simp [State.pwrgoodUp, hp, h]

theorem State.pwrgoodDown_run (hp : s.pins.pwrgood = true) (h : s.pwc.power = .run) :
    s.pwrgoodDown = State.enterStandby { s with pins := { s.pins with pwrgood := false } } := by
  simp [State.pwrgoodDown, hp, h]

theorem State.pwrgoodDown_other (hp : s.pins.pwrgood = true) (h : s.pwc.power ≠ .run) :
    s.pwrgoodDown = { s with pins := { s.pins with pwrgood := false } } := by
  unfold State.pwrgoodDown
  cases hs : s.pwc.power <;> simp_all

theorem State.dormantReturn_standby (h : s.pwc.power = .standby) : s.dormantReturn = s :=
  if_neg (by simp [h])

theorem State.dormantReturn_silent (h : s.pwc.power = .dormant) (hn : s.pwc.sleepNote = none) :
    s.dormantReturn = { s with pwc := { s.pwc with power := .standby } } := by
  simp [State.dormantReturn, h, State.wakeFlash, hn]

theorem State.dormantReturn_noted {code : Byte} (h : s.pwc.power = .dormant) (hn : s.pwc.sleepNote = some code) :
    s.dormantReturn = { s.ownCode code with
      fpx := { s.fpx with asleep := false }, pwc := { s.pwc with sleepNote := none, power := .standby } } := by
  simp [State.dormantReturn, h, State.wakeFlash, hn]

theorem State.startHandBack_free (h : ∀ x p, s.fpx.scan ≠ .reading x p) :
    s.startHandBack = State.finishHandBack { s with fpx := { s.fpx with scan := .idle } } := by
  unfold State.startHandBack
  split
  · next x p hx => exact absurd hx (h x p)
  · rfl

theorem State.finishHandBack_dormantTest : s.finishHandBack.dormantTest = s.finishHandBack :=
  State.dormantTest_power (fun h => PowerState.noConfusion (h : PowerState.run = .standby))

theorem State.startHandBack_reading {x : Nat} {p : Purpose} (h : s.fpx.scan = .reading x p) :
    s.startHandBack = { s with pwc := { s.pwc with socrst := true, handBack := true } } := by
  simp [State.startHandBack, h]

end

/-! ### The entry into STANDBY -/

/-- The path as the entry into STANDBY leaves it: the lend ended, or the path taken (R155, R175). -/
def State.standbyPath (s : State) : State := if s.fpx.lend.isSome then s.endLend .standby else s.takePath

theorem State.standbyPath_taken {s : State} (h : s.fpx.lend = none) : s.standbyPath = s.takePath :=
  if_neg (by simp [h])

theorem State.standbyPath_lent {s : State} {l : Lend} (h : s.fpx.lend = some l) : s.standbyPath =
    State.post { s with fpx := { s.fpx with lend := none } }
      ⟨.lendDone, none, 3, s.clk.counter, s.sectorsLeft, (l.read : Nat)⟩ := by
  rw [State.standbyPath, if_pos (by simp [h]), State.endLend_eq h]
  rfl

/-- What the entry into STANDBY leaves of the blocks outside the path. -/
structure State.Rests (s t : State) : Prop where
  power : t.pwc.power = .standby ∨ t.pwc.power = .dormant
  pins : t.pins = s.pins
  rst : t.rst = s.rst
  gmx : t.gmx = s.gmx
  ser : t.ser = s.ser
  pln : t.pln = s.pln
  run : t.run = s.run
  tun : t.tun = s.tun
  counter : t.clk.counter = s.clk.counter
  trim : t.clk.trim = s.clk.trim
  socrst : t.pwc.socrst = s.pwc.socrst
  lend : t.fpx.lend = none
  owner : t.fpx.owner = s.standbyPath.fpx.owner
  rep : t.rep = s.standbyPath.rep

theorem State.enterStandby_rests (s : State) : s.Rests s.enterStandby := by
  have path : ∃ f r, s.standbyPath = { s with fpx := f, rep := r } ∧ f.lend = none := by
    cases h : s.fpx.lend with
    | none => exact ⟨s.takePath.fpx, s.rep, State.standbyPath_taken h, h⟩
    | some l => exact ⟨_, _, by rw [State.standbyPath_lent h, State.post_posted], rfl⟩
  obtain ⟨f, r, hv, hlend⟩ := path
  let v : State := { s with fpx := f, rep := r, pwc := { s.pwc with power := .standby } }
  have ht : s.enterStandby = v.reloadWake.dormantTest := by
    change (State.reloadWake { s.standbyPath with pwc := { s.standbyPath.pwc with power := .standby } }).dormantTest = _
    rw [hv]
  obtain ⟨tg, c, hc, hw⟩ := v.reloadWake_cases
  have hb := v.reloadWake.dormantTest_beyondSleep
  have hpower : v.reloadWake.pwc.power = .standby := by rw [hw]
  rw [ht]
  refine ⟨?_, (beyondSleep_pins hb).trans (by simp [v]), (beyondSleep_rst hb).trans (by simp [v]),
    (beyondSleep_gmx hb).trans (by simp [v]), (beyondSleep_ser hb).trans (by simp [v]), (beyondSleep_pln hb).trans (by simp [v]),
    (beyondSleep_run hb).trans (by simp [v]), (beyondSleep_tun hb).trans (by simp [v]),
    (congrArg Clk.counter (beyondSleep_clk hb)).trans hc.rework.counter,
    (congrArg Clk.trim (beyondSleep_clk hb)).trans hc.rework.trim,
    (beyondSleep_socrst hb).trans (by rw [hw]), (beyondSleep_lend hb).trans (by simpa [v] using hlend),
    (beyondSleep_owner hb).trans (by simp [v, hv]), (beyondSleep_rep hb).trans (by simp [v, hv])⟩
  rcases v.reloadWake.dormantTest_cases with h | ⟨-, h⟩ | ⟨sleep, wake, -, -, h⟩ <;> rw [h]
  · exact .inl hpower
  · exact .inr rfl
  · exact .inr rfl

/-- Settles O4: each edge by the power state, the rise through the return from DORMANT and the hand-back, the fall through the
entry into STANDBY. -/
theorem vddAndPwrgoodEdges : Obligations.VddAndPwrgoodEdges := by
  unfold Obligations.VddAndPwrgoodEdges
  refine ⟨fun s hv => exec_vddFall hv, fun s hv hp => ?_, fun s hv hp => ?_⟩
  · simp only [exec_pwrgoodRise hv]
    have hp' : s.clearPorts.pins.pwrgood = false := hp
    refine ⟨fun h => ?_, fun h hscan => ?_, fun h ⟨x, p, hscan⟩ => ?_, fun h hscan hn => ?_, fun code h hscan hn => ?_⟩
    · rw [State.pwrgoodUp_awake hp' h, State.dormantTest_power (by rcases h with h | h <;> simp [h])]
      rfl
    · rw [State.pwrgoodUp_resting hp' (.inl h), State.dormantReturn_standby (by exact h), State.startHandBack_free (by exact hscan),
        State.finishHandBack_dormantTest]
      rfl
    · rw [State.pwrgoodUp_resting hp' (.inl h), State.dormantReturn_standby (by exact h), State.startHandBack_reading (by exact hscan),
        State.dormantTest_still (by simp [State.dormantReady])]
      rfl
    · rw [State.pwrgoodUp_resting hp' (.inr h), State.dormantReturn_silent (by exact h) (by exact hn),
        State.startHandBack_free (fun x p hx => by cases hscan.symm.trans hx), State.finishHandBack_dormantTest]
      rfl
    · rw [State.pwrgoodUp_resting hp' (.inr h), State.dormantReturn_noted (by exact h) (by exact hn),
        State.startHandBack_free (fun x p hx => by cases hscan.symm.trans hx), State.finishHandBack_dormantTest]
      simp only [State.finishHandBack, State.endWake]
      rfl
  · simp only [exec_pwrgoodFall hv]
    refine ⟨fun h => congrArg _ (State.pwrgoodDown_other (s := s.clearPorts) hp h), fun h => ⟨_, rfl, ?_⟩⟩
    rw [State.pwrgoodDown_run (s := s.clearPorts) hp h]
    have r := State.enterStandby_rests { s.clearPorts with pins := { s.clearPorts.pins with pwrgood := false } }
    refine ⟨r.power, r.pins, fun hl => ?_, fun l hl => ?_, r.lend, r.socrst, r.run, r.tun, r.rst, r.gmx, r.counter, r.trim, r.pln⟩
    · rw [r.owner, r.rep, State.standbyPath_taken (by exact hl)]
      exact ⟨rfl, rfl⟩
    · rw [r.owner, r.rep, State.standbyPath_lent (by exact hl), State.post_fpx, State.post_rep, State.post_rep]
      exact ⟨rfl, rfl⟩

end Sys2Proof.Machine

/-! PROOFS. What a completion leaves, and what the run engine's ends and reports leave of the matched events and of the
planner's snapshot. -/

namespace Sys2Proof.Machine

/-! ### A completion -/

section
variable (s : State) (code : Byte) (r : CmdResult)

@[simp] theorem State.complete_pins : (s.complete code r).pins = s.pins := by rw [State.complete_eq]
@[simp] theorem State.complete_fpx : (s.complete code r).fpx = s.fpx := by rw [State.complete_eq]
@[simp] theorem State.complete_rst : (s.complete code r).rst = s.rst := by rw [State.complete_eq]
@[simp] theorem State.complete_gmx : (s.complete code r).gmx = s.gmx := by rw [State.complete_eq]
@[simp] theorem State.complete_ser : (s.complete code r).ser = s.ser := by rw [State.complete_eq]
@[simp] theorem State.complete_pln : (s.complete code r).pln = s.pln := by rw [State.complete_eq]
@[simp] theorem State.complete_clk : (s.complete code r).clk = s.clk := by rw [State.complete_eq]
@[simp] theorem State.complete_run : (s.complete code r).run = s.run := by rw [State.complete_eq]
@[simp] theorem State.complete_tun : (s.complete code r).tun = s.tun := by rw [State.complete_eq]
@[simp] theorem State.complete_pwc : (s.complete code r).pwc = s.pwc := by rw [State.complete_eq]
@[simp] theorem State.complete_ports : (s.complete code r).ports = s.ports := by rw [State.complete_eq]
@[simp] theorem State.complete_freeCount : (s.complete code r).freeCount = s.freeCount := by rw [State.complete_eq]
@[simp] theorem State.complete_pending : (s.complete code r).pending = s.pending := by rw [State.complete_eq]

@[simp] theorem State.complete_notices : (s.complete code r).rep.notices = s.rep.notices := by rw [State.complete_eq]

end

/-! ### Reports -/

/-- What a piece of the run engine's work with its triggers does to the matched events and the planner: a relation `R` that holds
over work which touches neither, and over the trigger wherever `I` holds, which `R` keeps. -/
structure Reports (I : State → Prop) (R : State → State → Prop) (trig : Trigger) : Prop where
  refl : ∀ s, R s s
  trans : ∀ {s t u}, R s t → R t u → R s u
  of : ∀ {s t : State}, t.gmx = s.gmx → t.pln = s.pln → R s t
  keeps : ∀ {s t}, R s t → I s → I t
  trig : ∀ {s}, I s → R s (trig s)

/-! ### Ends -/

/-- A run that ends, up to the deferred tuner change (R118). -/
def State.ended (s : State) (r : ActiveRun) (o : RunOutcome) (stop : Nat) : State :=
  let s1 := (s.releaseRun r).addHistory ⟨r.ref, o, some stop, r.windowEnd⟩
  let s2 := (s1.markEnd r o).post ⟨.stop, some r.tuner, o.detail, stop, r.ref, (r.actualStart : Nat)⟩
  { s2 with run := s2.run.clearBlocked }

theorem State.endRun_eq (trig : Trigger) (r : ActiveRun) (o : RunOutcome) (stop : Nat) (s : State) :
    s.endRun trig r o stop =
      trig (if (s.ended r o stop).run.runs.isEmpty then (s.ended r o stop).applyDeferred trig
        else s.ended r o stop).reloadRunChannels := rfl

section
variable {I : State → Prop} {R : State → State → Prop} {trig : Trigger} (h : Reports I R trig)
include h

/-- The trigger after work that the relation covers. -/
theorem Reports.after {s t : State} (hs : I s) (hst : R s t) : R s (trig t) := h.trans hst (h.trig (h.keeps hst hs))

theorem Reports.foldl {α : Type} {f : State → α → State} (hf : ∀ s a, I s → R s (f s a)) (xs : List α) {s : State} (hs : I s) :
    R s (xs.foldl f s) := by
  induction xs generalizing s with
  | nil => exact h.refl s
  | cons x xs ih =>
    have hx := hf s x hs
    exact h.trans hx (ih (h.keeps hx hs))

theorem Reports.manualEnd (s : State) (b v : Nat) (o : RunOutcome) : R s (s.manualEnd b v o) := by
  unfold State.manualEnd
  split
  · exact h.refl s
  · exact h.of (by simp) (by simp)

theorem Reports.markEnd (s : State) (r : ActiveRun) (o : RunOutcome) : R s (s.markEnd r o) := by
  unfold State.markEnd
  split
  · exact h.manualEnd s _ _ _
  · split
    · exact h.of (by simp) (by simp)
    · exact h.refl s

theorem Reports.reloadRunChannels (s : State) : R s s.reloadRunChannels := h.of (by simp) (by simp)

theorem Reports.ended (s : State) (r : ActiveRun) (o : RunOutcome) (stop : Nat) : R s (s.ended r o stop) := by
  have h1 : R s ((s.releaseRun r).addHistory ⟨r.ref, o, some stop, r.windowEnd⟩) := h.of (by simp) (by simp)
  have h2 := h.trans h1 (h.markEnd _ r o)
  exact h.trans (h.trans h2 (h.of (State.post_gmx _ _) (State.post_pln _ _))) (h.of rfl rfl)

theorem Reports.applyTunerMode (s : State) : R s s.applyTunerMode := by
  unfold State.applyTunerMode
  split <;> exact h.of (by simp) (by simp)

theorem Reports.applyDeferred {s : State} (hs : I s) : R s (s.applyDeferred trig) := by
  unfold State.applyDeferred
  split
  · exact h.refl s
  · exact h.after hs (h.trans (h.of (by simp) (by simp)) (h.applyTunerMode _))

theorem Reports.endRun {s : State} (hs : I s) (r : ActiveRun) (o : RunOutcome) (stop : Nat) : R s (s.endRun trig r o stop) := by
  rw [State.endRun_eq]
  have he := h.ended s r o stop
  refine h.after hs (h.trans ?_ (h.reloadRunChannels _))
  split
  · exact h.trans he (h.applyDeferred (h.keeps he hs))
  · exact he

theorem Reports.recomputeEnd {s : State} (hs : I s) (r : ActiveRun) : R s (s.recomputeEnd trig r) := by
  unfold State.recomputeEnd
  split
  · exact h.refl s
  · split
    · exact h.endRun hs _ _ _
    · exact h.of (by simp) (by simp)

theorem Reports.followRecord {s : State} (hs : I s) (r : ActiveRun) (sv st : Nat) : R s (s.followRecord trig r sv st) := by
  unfold State.followRecord
  split
  · exact h.endRun hs _ _ _
  · exact h.recomputeEnd hs _

theorem Reports.runBookingChange {s : State} (hs : I s) (r : ActiveRun) (c : Change) (b : Option BookingRec) :
    R s (s.runBookingChange trig r c b) := by
  have follow : ∀ r' sv st, R s ((s.setRun r').followRecord trig r' sv st) := fun r' sv st => by
    have hset : R s (s.setRun r') := h.of (by simp) (by simp)
    exact h.trans hset (h.followRecord (h.keeps hset hs) r' sv st)
  unfold State.runBookingChange
  split
  · exact h.endRun hs _ _ _
  · exact follow _ _ _
  · exact follow _ _ _
  · exact h.refl s

theorem Reports.runEventChange {s : State} (hs : I s) (r : ActiveRun) (c : Change) (e : Option Event) :
    R s (s.runEventChange trig r c e) := by
  unfold State.runEventChange
  split
  · exact h.followRecord hs _ _ _
  · exact h.followRecord hs _ _ _
  · exact h.refl s

theorem Reports.waitingChange (s : State) (ref : Nat) : R s (s.waitingChange ref) := by
  unfold State.waitingChange
  split
  · exact h.of (by simp) (by simp)
  · exact h.refl s

theorem Reports.bookingChange {s : State} (hs : I s) (id : Nat) (c : Change) (b : Option BookingRec) :
    R s (s.bookingChange trig id c b) := by
  have run : ∀ u : State, R s u → R s (match u.runOf id with
      | some r => (u.runBookingChange trig r c b).reloadRunChannels
      | none => u) := by
    intro u hu
    split
    · exact h.trans hu (h.trans (h.runBookingChange (h.keeps hu hs) _ _ _) (h.reloadRunChannels _))
    · exact hu
  unfold State.bookingChange
  cases b with
  | some b => exact h.trans (run _ (h.of (by simp) (by simp))) (h.waitingChange _ _)
  | none => exact h.trans (run _ (h.refl _)) (h.waitingChange _ _)

theorem Reports.eventChange {s : State} (hs : I s) (id : Nat) (c : Change) (e : Option Event) :
    R s (s.eventChange trig id c e) := by
  unfold State.eventChange
  refine h.trans ?_ (h.waitingChange _ _)
  split
  · exact h.trans (h.runEventChange hs _ _ _) (h.reloadRunChannels _)
  · exact h.refl _

theorem Reports.reportEvents {s : State} (hs : I s) (request : Bool) (before : List MatchedEntry) :
    R s (s.reportEvents trig request before) := by
  unfold State.reportEvents
  simp only
  have hfold := h.foldl (fun s (p : Nat × Change × Option Event) hs => h.eventChange hs p.1 p.2.1 p.2.2)
    (eventChanges before s.gmx.entries) hs
  split
  · exact h.after hs hfold
  · exact hfold

end

/-! ### While a trigger only marks the replan stale -/

/-- The matched events and the snapshot in work are as they were. -/
structure Told (s t : State) : Prop where
  gmx : t.gmx = s.gmx
  snapshot : t.pln.snapshot = s.pln.snapshot

/-- Within a replan's start a trigger only sets the stale flag (R83). -/
theorem markStale_reports : Reports (fun _ => True) Told State.markStale where
  refl _ := ⟨rfl, rfl⟩
  trans h k := ⟨k.gmx.trans h.gmx, k.snapshot.trans h.snapshot⟩
  of hg hp := ⟨hg, by rw [hp]⟩
  keeps _ _ := trivial
  trig _ := ⟨rfl, rfl⟩

/-- So it does while a replan is RUNNING (R83). -/
theorem trigger_reports : Reports (fun s => s.pln.snapshot.isSome = true) Told State.trigger where
  refl _ := ⟨rfl, rfl⟩
  trans h k := ⟨k.gmx.trans h.gmx, k.snapshot.trans h.snapshot⟩
  of hg hp := ⟨hg, by rw [hp]⟩
  keeps h hs := by rw [h.snapshot]; exact hs
  trig hs := by
    rw [State.trigger_running _ hs]
    exact ⟨rfl, rfl⟩

end Sys2Proof.Machine

/-! PROOFS. The clock: the advance and the wrap, the channels an advance fires, the replan trigger with its purges, and the
setting of the time. -/

namespace Sys2Proof.Machine

/-! ### What a second leaves alone -/

/-- What the channels, a replan's start and the power state's sleep leave alone together. -/
def State.bulk (s : State) : State := s.still.beyondSleep

theorem Calm.bulk {s t : State} (h : Calm s t) : t.bulk = s.bulk := congrArg State.beyondSleep h.still

theorem State.dormantTest_bulk (s : State) : s.dormantTest.bulk = s.bulk :=
  congrArg State.still s.dormantTest_beyondSleep

theorem State.dormantReturn_bulk (s : State) : s.dormantReturn.bulk = s.bulk :=
  congrArg State.still s.dormantReturn_beyondSleep

/-- The state in which the advanced counter is checked against the channels. -/
def State.ticked (s : State) : State := State.checkChannels { s with clk := s.clk.advance }

/-- Below the wrap: the channels are checked, and an hour or an event wakes the part from DORMANT (R98, R100, R176). -/
theorem State.advancePowered_below {s : State} (h : s.clk.counter < 0xFFFFFFFF) :
    s.advancePowered =
      if s.ticked.clk.counter % 3600 = 0 then s.ticked.dormantReturn.trigger.dormantTest
      else if s.clk.advance.events.length < s.ticked.clk.events.length then s.ticked.dormantReturn.dormantTest
      else s.ticked := by
  have hlow : ¬ timeMax ≤ s.clk.counter := by simpa [timeMax] using h
  simp only [State.advancePowered, if_neg hlow]
  change (if decide (s.ticked.clk.counter % 3600 = 0) || decide (s.clk.advance.events.length < s.ticked.clk.events.length)
    then (if decide (s.ticked.clk.counter % 3600 = 0) then s.ticked.dormantReturn.trigger else s.ticked.dormantReturn).dormantTest
    else s.ticked) = _
  by_cases hh : s.ticked.clk.counter % 3600 = 0
  · simp only [hh, decide_true, Bool.true_or, if_true]
  · simp only [hh, decide_false, Bool.false_or, decide_eq_true_eq, if_false, Bool.false_eq_true]

theorem Clk.advance_below {k : Clk} (h : k.counter < 0xFFFFFFFF) : k.advance = k.runOut.beginSecond (k.counter + 1) :=
  if_neg (by simpa [timeMax] using h)

theorem State.ticked_calm (s : State) : Calm { s with clk := s.clk.advance } s.ticked := State.checkChannels_calm _

theorem State.ticked_counter {s : State} (h : s.clk.counter < 0xFFFFFFFF) : s.ticked.clk.counter = s.clk.counter + 1 := by
  rw [s.ticked_calm.rework.counter, Clk.advance_below h]
  rfl

theorem State.advanceCounter_bulk {s : State} (h : s.clk.counter < 0xFFFFFFFF) :
    s.advanceCounter.bulk = State.bulk { s with clk := s.clk.advance } := by
  unfold State.advanceCounter
  split
  · rw [State.advancePowered_below h, ← s.ticked_calm.bulk]
    split
    · rw [State.dormantTest_bulk, (State.trigger_calm _).bulk, State.dormantReturn_bulk]
    · split
      · rw [State.dormantTest_bulk, State.dormantReturn_bulk]
      · rfl
  · rfl

/-- The wrap with VDD present or absent (R97, R105). -/
theorem exec_counterAdvance_wrap {s : State} (h : s.clk.counter = 0xFFFFFFFF) :
    exec .counterAdvance s = .next (
      let wrapped : State := { s.clearPorts with clk :=
        { s.clk.runOut.beginSecond 0 with valid := false, channels := s.clk.channels.disabled } }
      if s.pins.vdd then wrapped.post ⟨.clockWrapped, none, 0, 0, 0xFFFFFFFF, s.clk.trim⟩ else wrapped) := by
  have hwrap : timeMax ≤ s.clk.counter := by simp [timeMax, h]
  have hclk : s.clk.advance =
      { s.clk.runOut.beginSecond 0 with valid := false, channels := s.clk.channels.disabled } := by
    rw [Clk.advance, if_pos hwrap, Clk.disableAll_eq]
    rfl
  have hclear : s.clearPorts.clk = s.clk := rfl
  simp only [exec, execCounterAdvance, State.advanceCounter, State.clearPorts_pins, State.advancePowered, hclear, hclk,
    if_pos hwrap]
  rfl

/-- Settles O5: below the wrap by what a second leaves alone, at the wrap by the clock's disabling. -/
theorem counterAdvancesOrWraps : Obligations.CounterAdvancesOrWraps := by
  unfold Obligations.CounterAdvancesOrWraps
  refine ⟨fun s h => ⟨_, rfl, ?_⟩, fun s h => ?_⟩
  · have b := State.advanceCounter_bulk (s := s.clearPorts) h
    have hclk : s.clearPorts.clk.advance = s.clk.runOut.beginSecond (s.clk.counter + 1) := Clk.advance_below h
    rw [hclk] at b
    exact ⟨congrArg (fun u => u.clk.counter) b, congrArg (fun u => u.clk.prescaler) b, congrArg (fun u => u.clk.secondLen) b,
      congrArg (fun u => u.clk.trim) b, congrArg (fun u => u.clk.lastSet) b, congrArg (fun u => u.clk.valid) b,
      congrArg (fun u => u.pins) b, congrArg (fun u => u.rst.anchor) b, congrArg (fun u => u.rst.schedule) b,
      congrArg (fun u => u.rst.tables) b, congrArg (fun u => u.pln.plan) b, congrArg (fun u => u.pln.generation) b,
      congrArg (fun u => u.fpx.owner) b⟩
  · refine ⟨fun hv => ?_, fun hv => ?_⟩
    · rw [exec_counterAdvance_wrap h, if_pos hv]
      rfl
    · rw [exec_counterAdvance_wrap h, if_neg (by simp [hv])]
      rfl

/-! ### The channels an advance fires -/

theorem Channels.get_set_same (cs : Channels) (c : Channel) (v : ChannelState) : (cs.set c v).get c = v := by
  rcases c with (_ | _) | (_ | _) | _ | _ | _ <;> rfl

theorem Channels.get_set_ne (cs : Channels) {c d : Channel} (h : d ≠ c) (v : ChannelState) : (cs.set c v).get d = cs.get d := by
  rcases c with (_ | _) | (_ | _) | _ | _ | _ <;> rcases d with (_ | _) | (_ | _) | _ | _ | _ <;>
    first | rfl | exact absurd rfl h

/-- The events of one channel that wait for its owner. -/
def Clk.waitingFor (k : Clk) (c : Channel) : List CompareEvent := k.events.filter fun e => e.channel = c

/-- A channel, its waiting events and the counter are as they were. -/
def Clk.SameFor (k k' : Clk) (c : Channel) : Prop :=
  k'.channels.get c = k.channels.get c ∧ k'.waitingFor c = k.waitingFor c ∧ k'.counter = k.counter

theorem Clk.SameFor.refl (k : Clk) (c : Channel) : k.SameFor k c := ⟨rfl, rfl, rfl⟩

theorem Clk.SameFor.trans {k l m : Clk} {c : Channel} (h : k.SameFor l c) (g : l.SameFor m c) : k.SameFor m c :=
  ⟨g.1.trans h.1, g.2.1.trans h.2.1, g.2.2.trans h.2.2⟩

/-- The channel is enabled and at or below the counter (R100). -/
def Clk.DueAt (k : Clk) (c : Channel) : Prop := (k.channels.get c).enabled = true ∧ (k.channels.get c).value ≤ k.counter

theorem Clk.SameFor.due_iff {k l : Clk} {c : Channel} (h : k.SameFor l c) : l.DueAt c ↔ k.DueAt c := by
  obtain ⟨hget, -, hcounter⟩ := h
  rw [Clk.DueAt, Clk.DueAt, hget, hcounter]

theorem Clk.fireIfDue_due {k : Clk} {c : Channel} (h : k.DueAt c) (tg : Option WakeTarget) :
    k.fireIfDue tg c = { Clk.disable k c with
      events := k.events ++ [⟨c, k.counter, k.crystal, if c = .wake then tg else none⟩] } :=
  if_pos (by simpa [Clk.DueAt] using h)

theorem Clk.fireIfDue_rests {k : Clk} {c : Channel} (h : ¬ k.DueAt c) (tg : Option WakeTarget) : k.fireIfDue tg c = k :=
  if_neg (by simpa [Clk.DueAt] using h)

/-- Firing one channel leaves the others. -/
theorem Clk.fireIfDue_other (k : Clk) (tg : Option WakeTarget) {c d : Channel} (h : d ≠ c) : k.SameFor (k.fireIfDue tg c) d := by
  by_cases hd : k.DueAt c
  · rw [Clk.fireIfDue_due hd]
    exact ⟨Channels.get_set_ne _ h _, by simp [Clk.waitingFor, Ne.symm h], rfl⟩
  · rw [Clk.fireIfDue_rests hd]
    exact .refl k d

section
variable (tg : Option WakeTarget) {c : Channel}

theorem foldl_fireIfDue_other {l : List Channel} (h : c ∉ l) (k : Clk) :
    k.SameFor (l.foldl (fun k d => k.fireIfDue tg d) k) c := by
  induction l generalizing k with
  | nil => exact .refl k c
  | cons d l ih =>
    rw [List.mem_cons, not_or] at h
    exact (Clk.fireIfDue_other k tg h.1).trans (ih h.2 _)

theorem foldl_fireIfDue_rests {k : Clk} (h : ¬ k.DueAt c) (l : List Channel) :
    k.SameFor (l.foldl (fun k d => k.fireIfDue tg d) k) c := by
  induction l generalizing k with
  | nil => exact .refl k c
  | cons d l ih =>
    have hd : k.SameFor (k.fireIfDue tg d) c := by
      by_cases hcd : c = d
      · subst hcd
        rw [Clk.fireIfDue_rests h]
        exact .refl k c
      · exact Clk.fireIfDue_other k tg hcd
    exact hd.trans (ih (fun hdue => h (hd.due_iff.1 hdue)))

/-- Among channels checked in turn, each once, the due one is disabled and leaves one event with the counter's value. -/
theorem foldl_fireIfDue_fires {l : List Channel} (hl : l.Nodup) (hc : c ∈ l) {k : Clk} (h : k.DueAt c) :
    (l.foldl (fun k d => k.fireIfDue tg d) k).channels.get c = ⟨(k.channels.get c).value, false⟩
      ∧ ∃ e, (l.foldl (fun k d => k.fireIfDue tg d) k).waitingFor c = k.waitingFor c ++ [e] ∧ e.time = k.counter := by
  induction l generalizing k with
  | nil => cases hc
  | cons d l ih =>
    obtain ⟨hd, hnodup⟩ := List.nodup_cons.1 hl
    by_cases hcd : c = d
    · subst hcd
      obtain ⟨hget, hwaiting, -⟩ := foldl_fireIfDue_other tg hd (k.fireIfDue tg c)
      rw [List.foldl_cons, hget, hwaiting, Clk.fireIfDue_due h]
      exact ⟨Channels.get_set_same _ _ _, ⟨c, k.counter, k.crystal, if c = .wake then tg else none⟩, by simp [Clk.waitingFor], rfl⟩
    · have hsame := Clk.fireIfDue_other k tg hcd
      obtain ⟨hget, e, hwaiting, htime⟩ := ih hnodup ((List.mem_cons.1 hc).resolve_left hcd) (hsame.due_iff.2 h)
      exact ⟨by rw [List.foldl_cons, hget, hsame.1], e, by rw [List.foldl_cons, hwaiting, hsame.2.1], htime.trans hsame.2.2⟩

end

theorem mem_allChannels (c : Channel) : c ∈ allChannels := by
  rcases c with (_ | _) | (_ | _) | _ | _ | _ <;> decide

/-- Settles O6: no hourly replan comes, so the checked channels are those the advance leaves. -/
theorem advanceFiresDueChannels : Obligations.AdvanceFiresDueChannels := by
  unfold Obligations.AdvanceFiresDueChannels
  intro s c hv hlow hhour
  have hlow' : s.clearPorts.clk.counter < 0xFFFFFFFF := hlow
  have hclk : s.clearPorts.advanceCounter.clk = s.clearPorts.ticked.clk := by
    rw [State.advanceCounter, if_pos (by exact hv), State.advancePowered_below hlow', State.ticked_counter hlow', if_neg (by exact hhour)]
    split
    · rw [State.dormantTest_clk, State.dormantReturn_clk]
    · rfl
  have hk : s.clk.advance = s.clk.runOut.beginSecond (s.clk.counter + 1) := Clk.advance_below hlow
  have hchannel : s.clk.advance.channels.get c = s.clk.channels.get c := by rw [hk]; rfl
  have hevents : s.clk.advance.waitingFor c = s.clk.waitingFor c := by rw [hk]; rfl
  have hcounter : s.clk.advance.counter = s.clk.counter + 1 := by rw [hk]; rfl
  have hdue : s.clk.advance.DueAt c ↔ (s.clk.channels.get c).enabled = true ∧ (s.clk.channels.get c).value ≤ s.clk.counter + 1 := by
    rw [Clk.DueAt, hchannel, hcounter]
  refine ⟨s.clearPorts.advanceCounter, rfl, fun henabled hvalue => ?_, fun hrest => ?_⟩ <;> rw [hclk]
  · obtain ⟨hget, e, hwaiting, htime⟩ :=
      foldl_fireIfDue_fires s.pwc.wakeTarget (by decide) (mem_allChannels c) (hdue.2 ⟨henabled, hvalue⟩)
    rw [hchannel] at hget
    rw [hevents] at hwaiting
    exact ⟨hget, e, (congrArg (fun k => k.waitingFor c) hclk).trans hwaiting, htime.trans hcounter⟩
  · have hnot : ¬ s.clk.advance.DueAt c := by
      rw [hdue]
      rintro ⟨henabled, hvalue⟩
      rcases hrest with hoff | hlate
      · simp [hoff] at henabled
      · omega
    obtain ⟨hget, hwaiting, -⟩ := foldl_fireIfDue_rests s.pwc.wakeTarget hnot allChannels
    exact ⟨hget.trans hchannel, (congrArg (fun k => k.waitingFor c) hclk).trans (hwaiting.trans hevents)⟩

/-! ### A replan's start -/

/-- The state a replan's start takes its snapshot of: after the guide's purge, the history's, and the removal of untagged keys
(R84). -/
def State.purged (s : State) : State :=
  ((State.guidePurge State.markStale { s with pln := { s.pln with stale := false } }).historyPurge).removeUntagged

theorem State.startReplan_eq (s : State) : s.startReplan =
    { s.purged with
      pln := { s.purged.pln with snapshot := some s.purged.takeSnapshot }, run := { s.purged.run with changed := [] } } := rfl

/-- Recomputing the effective flags keeps every entry's slot and event. -/
theorem mem_recomputeEffective {es : List MatchedEntry} {e : MatchedEntry} (h : e ∈ recomputeEffective es) :
    ∃ x ∈ es, e = { x with effective := e.effective } := by
  obtain ⟨x, hx, rfl⟩ := List.mem_map.1 h
  exact ⟨x, hx, rfl⟩

theorem recomputeEffective_mem {es : List MatchedEntry} {x : MatchedEntry} (h : x ∈ es) :
    ∃ b, { x with effective := b } ∈ recomputeEffective es :=
  ⟨_, List.mem_map.2 ⟨x, h, rfl⟩⟩

/-- A matched entry is never pruned. -/
theorem mem_pruneDisplacing {es : List MatchedEntry} {e : MatchedEntry} (h : e ∈ es) (hm : e.matched = true) :
    e ∈ pruneDisplacing es := by
  refine List.mem_filter.2 ⟨h, ?_⟩
  rw [Bool.or_eq_true]
  exact .inr (List.any_eq_true.2 ⟨e, h, by simp [hm]⟩)

theorem State.purged_calm (s : State) : Calm s s.purged := by
  have h0 : Calm s { s with pln := { s.pln with stale := false } } :=
    ⟨⟨fun f => { f with }, fun _ h => h, BitVec.or_self, [], by simp⟩, rfl⟩
  exact ((h0.trans (State.guidePurge_calm State.markStale_calm _)).trans (State.historyPurge_calm _)).trans
    (State.removeUntagged_calm _)

theorem State.purged_gmx (s : State) : s.purged.gmx =
    ⟨recomputeEffective (pruneDisplacing (s.gmx.entries.filter fun e => !(e.event.stop ≤ s.clk.counter - 86400)))⟩ := by
  rw [State.purged, State.removeUntagged_gmx, State.historyPurge_gmx, State.guidePurge,
    (markStale_reports.reportEvents trivial _ _).gmx]
  rfl

theorem State.purged_fresh {s : State} {e : MatchedEntry} (h : e ∈ s.purged.gmx.entries) :
    s.clk.counter - 86400 < e.event.stop := by
  rw [State.purged_gmx] at h
  obtain ⟨x, hx, he⟩ := mem_recomputeEffective h
  have hstop := (List.mem_filter.1 (List.mem_filter.1 hx).1).2
  rw [congrArg MatchedEntry.event he]
  simpa using hstop

theorem State.purged_keeps {s : State} {e : MatchedEntry} (h : e ∈ s.gmx.entries) (hm : e.matched = true)
    (hf : s.clk.counter - 86400 < e.event.stop) : ∃ e' ∈ s.purged.gmx.entries, e'.slot = e.slot ∧ e'.event = e.event := by
  have hk : e ∈ s.gmx.entries.filter fun e => !(e.event.stop ≤ s.clk.counter - 86400) :=
    List.mem_filter.2 ⟨h, by simpa using hf⟩
  obtain ⟨b, hb⟩ := recomputeEffective_mem (mem_pruneDisplacing hk hm)
  rw [State.purged_gmx]
  exact ⟨_, hb, rfl, rfl⟩

theorem State.purged_history {s : State} {h : HistoryEntry} (hh : h ∈ s.purged.run.history) :
    s.clk.counter < min (h.windowEnd + 86400) 0xFFFFFFFF := by
  have hcalm := State.guidePurge_calm State.markStale_calm { s with pln := { s.pln with stale := false } }
  rw [State.purged, State.removeUntagged_run] at hh
  have hlate := of_decide_eq_true (List.mem_filter.1 hh).2
  rw [hcalm.rework.counter] at hlate
  exact hlate

theorem State.purged_pending {s : State} {p : PendingKey} (h : p ∈ s.purged.ser.pendingMarks) {ev part : Nat}
    (hk : p.key = .untagged ev part) :
    (s.purged.effectiveEvent ev).isSome = true ∨ ∃ x ∈ s.purged.run.history, x.ref = p.ref := by
  have hkept := (List.mem_filter.1 h).2
  rw [hk] at hkept
  simp only [Bool.or_eq_true, List.any_eq_true, decide_eq_true_eq] at hkept
  exact hkept

/-- A replan's start only removes matched events: whichever remain stood before. -/
theorem State.startReplan_entries {s : State} {e : MatchedEntry} (h : e ∈ s.startReplan.gmx.entries) :
    ∃ x ∈ s.gmx.entries, x.slot = e.slot ∧ x.event = e.event := by
  rw [State.startReplan_eq, State.purged_gmx] at h
  obtain ⟨x, hx, he⟩ := mem_recomputeEffective h
  exact ⟨x, (List.mem_filter.1 (List.mem_filter.1 hx).1).1, by rw [he], by rw [he]⟩

/-- Every matched event there is now stood there before, at its slot. -/
def Dwindles (s t : State) : Prop := ∀ e ∈ t.gmx.entries, ∃ x ∈ s.gmx.entries, x.slot = e.slot ∧ x.event = e.event

theorem dwindles_reports : Reports (fun _ => True) Dwindles State.trigger where
  refl _ e he := ⟨e, he, rfl, rfl⟩
  trans h k e he := by
    obtain ⟨x, hx, hslot, hevent⟩ := k e he
    obtain ⟨y, hy, hslot', hevent'⟩ := h x hx
    exact ⟨y, hy, hslot'.trans hslot, hevent'.trans hevent⟩
  of hg _ e he := ⟨e, hg ▸ he, rfl, rfl⟩
  keeps _ _ := trivial
  trig {s} _ e he := by
    rcases s.trigger_eq with ⟨-, h⟩ | ⟨-, -, h⟩ | ⟨-, -, h⟩ <;> rw [h] at he
    · exact ⟨e, he, rfl, rfl⟩
    · exact State.startReplan_entries he
    · exact ⟨e, he, rfl, rfl⟩

theorem State.pinnedRun_run (s : State) (r : ActiveRun) : (s.pinnedRun r).run = r := by
  unfold State.pinnedRun
  split <;> rfl

/-- An hourly advance in a state that VDD supplies ends in the trigger of the awake part (R98). -/
theorem exec_counterAdvance_hourly {s : State} (hv : s.pins.vdd = true) (hlow : s.clk.counter < 0xFFFFFFFF)
    (hhour : (s.clk.counter + 1) % 3600 = 0) :
    exec .counterAdvance s = .next s.clearPorts.ticked.dormantReturn.trigger.dormantTest := by
  have hlow' : s.clearPorts.clk.counter < 0xFFFFFFFF := hlow
  have h : s.clearPorts.advanceCounter = s.clearPorts.ticked.dormantReturn.trigger.dormantTest := by
    rw [State.advanceCounter, if_pos (by exact hv), State.advancePowered_below hlow', State.ticked_counter hlow',
      if_pos (by exact hhour)]
  rw [← h]
  rfl

/-- Settles O7: the trigger by the planner's state, its start through the purges; the hourly advance is a trigger of the awake
part. -/
theorem triggersStartOrMarkTheReplan : Obligations.TriggersStartOrMarkTheReplan := by
  unfold Obligations.TriggersStartOrMarkTheReplan
  refine ⟨fun s => ⟨fun h => State.trigger_running s h, fun h hv => ?_, fun h hv => ?_⟩, fun s hv hlow hhour => ?_⟩
  · simp [State.trigger, h, hv]
  · have hc := s.purged_calm
    rw [State.trigger_idle s h hv, State.startReplan_eq]
    have hpln : { s.purged.pln with snapshot := none, stale := false } = { s.pln with snapshot := none, stale := false } :=
      congrArg (fun u => u.pln) hc.still
    refine ⟨s.purged.takeSnapshot, ?_, hc.rework.counter, congrArg Records.services hc.tables, rfl,
      congrArg (fun u => u.rst.inForce.schedule.prePad) hc.still, congrArg (fun u => u.rst.inForce.schedule.postPad) hc.still,
      congrArg (fun u => u.rst.inForce.schedule.horizon) hc.still, rfl, rfl, ?_, fun e => State.purged_fresh,
      fun e => State.purged_keeps, fun x => State.purged_history, fun p hp ev part => State.purged_pending hp, rfl, hc.tables,
      hc.fpx, hc.rework.pwc, hc.rework.pins⟩
    · exact congrArg (fun q : Pln => { q with snapshot := some s.purged.takeSnapshot, stale := s.purged.pln.stale }) hpln
    · simp [State.takeSnapshot, State.pinnedRun_run, Function.comp_def]
  · rw [exec_counterAdvance_hourly hv hlow hhour]
    have hcounter := State.ticked_counter (s := s.clearPorts) hlow
    have hticked := s.clearPorts.ticked_calm
    have hvalid : s.clearPorts.ticked.clk.valid = s.clk.valid := by
      rw [hticked.rework.valid, Clk.advance_below (by exact hlow)]
      rfl
    have hret := s.clearPorts.ticked.dormantReturn_beyondSleep
    have hpln : s.clearPorts.ticked.dormantReturn.pln = s.pln := (beyondSleep_pln hret).trans (State.checkChannels_pln _)
    have hclk := beyondSleep_clk hret
    refine ⟨_, rfl, fun hvalid' hs => ?_, fun sn hs => ?_, fun hvalid' hs => ?_⟩ <;>
      rw [beyondSleep_pln (State.dormantTest_beyondSleep _)]
    · rw [State.trigger_idle _ (by rw [hpln, hs]) (by rw [hclk, hvalid, hvalid'])]
      obtain ⟨sn, hsn, hnow, -⟩ := State.startReplan_snapshot s.clearPorts.ticked.dormantReturn
      exact ⟨sn, hsn, by rw [hnow, hclk, hcounter]; rfl⟩
    · rw [State.trigger_running _ (by rw [hpln, hs]; rfl)]
      exact ⟨by rw [← hs, ← hpln]; rfl, rfl⟩
    · rw [State.trigger, if_neg (by rw [hpln, hs]; nofun), if_neg (by rw [hclk, hvalid, hvalid']; nofun), hpln]

/-! ### The drift estimate (R96) -/

/-- A quotient rounded at the half: at most half the divisor away, and upwards on an exact half. -/
theorem rounded_bounds (n e : Nat) (he : 0 < e) :
    2 * n ≤ 2 * ((2 * n + e) / (2 * e) * e) + e ∧ 2 * ((2 * n + e) / (2 * e) * e) ≤ 2 * n + e
      ∧ (2 * n = 2 * ((2 * n + e) / (2 * e) * e) + e → n ≤ (2 * n + e) / (2 * e) * e) := by
  have hlow := Nat.div_mul_le_self (2 * n + e) (2 * e)
  have hhigh := Nat.lt_div_mul_add (a := 2 * n + e) (b := 2 * e) (by omega)
  have hassoc : (2 * n + e) / (2 * e) * (2 * e) = 2 * ((2 * n + e) / (2 * e) * e) := by ring
  rw [hassoc] at hlow hhigh
  omega

theorem driftDelta_natAbs (c : Int) (e : Nat) : (driftDelta c e).natAbs = (2 * (c.natAbs * 8388608) + e) / (2 * e) := by
  rw [← Nat.mul_assoc]
  unfold driftDelta
  split
  · rw [Int.natAbs_neg, Int.natAbs_natCast]
  · rw [Int.natAbs_natCast]

/-- The estimate has the sign against the correction. -/
theorem driftDelta_eq (c : Int) (e : Nat) :
    driftDelta c e = if 0 < c then -((driftDelta c e).natAbs : Int) else ((driftDelta c e).natAbs : Int) := by
  rw [driftDelta_natAbs, ← Nat.mul_assoc]
  rfl

/-- The estimate times the elapsed seconds, with the correction in periods, by their sizes. -/
theorem driftDelta_rest (c : Int) (e : Nat) :
    (driftDelta c e * e + c * 8388608).natAbs
      = ((((driftDelta c e).natAbs * e : Nat) : Int) - ((c.natAbs * 8388608 : Nat) : Int)).natAbs := by
  rw [driftDelta_eq]
  have habs : ((if 0 < c then -((driftDelta c e).natAbs : Int) else ((driftDelta c e).natAbs : Int))).natAbs
      = (driftDelta c e).natAbs := by
    split
    · rw [Int.natAbs_neg, Int.natAbs_natCast]
    · rw [Int.natAbs_natCast]
  rw [habs]
  generalize (driftDelta c e).natAbs = q
  have hq : (((q * e : Nat) : Int)) = (q : Int) * e := by push_cast; rfl
  split
  · rw [hq, neg_mul]
    omega
  · rw [hq]
    omega

theorem driftDelta_nearest (c : Int) (e : Nat) (he : 0 < e) :
    2 * (driftDelta c e * e + c * 8388608).natAbs ≤ e
      ∧ (2 * (driftDelta c e * e + c * 8388608).natAbs = e → (c * 8388608).natAbs ≤ (driftDelta c e).natAbs * e) := by
  obtain ⟨hlow, hhigh, htie⟩ := rounded_bounds (c.natAbs * 8388608) e he
  rw [driftDelta_rest, driftDelta_natAbs, Int.natAbs_mul]
  generalize (2 * (c.natAbs * 8388608) + e) / (2 * e) * e = q at *
  have habs : (8388608 : Int).natAbs = 8388608 := rfl
  rw [habs]
  omega

/-! ### Setting the time -/

theorem isSmall_iff (limit : Nat) (c : Int) : isSmall limit c = true ↔ c.natAbs ≤ limit := decide_eq_true_iff

theorem Clk.load_trim_small {k : Clk} {limit tn l : Nat} (h : (correction k.counter tn).natAbs ≤ limit)
    (hl : k.lastSet = some l) (hlate : l + 3600 ≤ k.counter) :
    (k.load limit tn).trim =
      max (-255) (min 255 (k.trim + driftDelta (correction k.counter tn) (k.counter - l))) := by
  simp only [Clk.load, Clk.beginSecond, (isSmall_iff _ _).2 h, if_true, Clk.estimate, hl, if_pos hlate, clampTrim]

theorem Clk.load_trim_kept {k : Clk} {limit tn : Nat}
    (h : ¬ (correction k.counter tn).natAbs ≤ limit ∨ k.lastSet = none ∨ ∃ l, k.lastSet = some l ∧ k.counter < l + 3600) :
    (k.load limit tn).trim = k.trim := by
  simp only [Clk.load, Clk.beginSecond]
  split
  · next hs =>
    rcases h with hbig | hnone | ⟨l, hl, hearly⟩
    · exact absurd ((isSmall_iff _ _).1 hs) hbig
    · simp only [Clk.estimate, hnone]
    · simp only [Clk.estimate, hl, if_neg (Nat.not_le.2 hearly)]
  · rfl

/-- The set time before the channels are checked: the clock loaded, a step announced (R94, R95). -/
def State.timeLoaded (s : State) (tn : Nat) : State :=
  let c := correction s.clk.counter tn
  let s1 := { s with clk := s.clk.load s.rst.inForce.schedule.stepLimit tn }
  if c.natAbs ≤ s.rst.inForce.schedule.stepLimit then s1
  else s1.post ⟨.timeStepped, none, max (-32767) (min 32767 c), tn, s.clk.counter, s.clk.trim⟩

theorem State.setTime_eq (s : State) (tn : Nat) : s.setTime tn = (s.timeLoaded tn).checkChannels.trigger := by
  unfold State.setTime State.timeLoaded
  by_cases h : (correction s.clk.counter tn).natAbs ≤ s.rst.inForce.schedule.stepLimit
  · simp only [(isSmall_iff _ _).2 h, if_pos h, if_true]
  · have hn : isSmall s.rst.inForce.schedule.stepLimit (correction s.clk.counter tn) = false := by
      rw [Bool.eq_false_iff, ne_eq, isSmall_iff]
      exact h
    simp only [hn, if_neg h, Bool.false_eq_true, if_false]
    rfl

theorem State.timeLoaded_calm (s : State) (tn : Nat) :
    Calm { s with clk := s.clk.load s.rst.inForce.schedule.stepLimit tn } (s.timeLoaded tn) := by
  unfold State.timeLoaded
  exact Calm.ite (Calm.refl _) (State.post_calm _ _)

/-- Settles O9: the clock's load by its trim's cases, and the rest of SET_TIME as calm work over the loaded clock. -/
theorem setTimeLoadsTheClock : Obligations.SetTimeLoadsTheClock := by
  unfold Obligations.SetTimeLoadsTheClock
  refine ⟨driftDelta_nearest, fun s e tn h he => ?_⟩
  let cut := s.clearPorts.cut e.code
  let loaded : State := { s with clk := s.clk.load s.rst.inForce.schedule.stepLimit tn.toNat }
  have hcheck : Calm (loaded.clearPorts.cut e.code) (cut.timeLoaded tn.toNat).checkChannels :=
    (State.timeLoaded_calm cut tn.toNat).trans (State.checkChannels_calm _)
  have hcalm : Calm (loaded.clearPorts.cut e.code) (cut.setTime tn.toNat) :=
    State.setTime_eq cut _ ▸ hcheck.trans (State.trigger_calm _)
  have hexec : exec (.setTime tn) s = .next (((cut.setTime tn.toNat).complete 0x04 .ok).disarm) := by
    have hrow := exec_row_heard h he (.setTime tn)
    rwa [State.runCommand_ok rfl] at hrow
  have frame := hcalm.commandFrame 0x04 .ok
  have hbegun : ∀ u v : Clk, u.still = v.still → (u.Begun ↔ v.Begun) := fun u v huv => by
    rw [← Clk.begun_still, huv, Clk.begun_still]
  have hvalid : (cut.timeLoaded tn.toNat).checkChannels.clk.valid = true := hcheck.rework.valid
  have hheld : (cut.timeLoaded tn.toNat).checkChannels.pln = s.pln := by
    rw [State.checkChannels_pln]
    unfold State.timeLoaded
    simp only
    split
    · rfl
    · rw [State.post_pln]; rfl
  refine ⟨_, hexec, ?_⟩
  simp only [State.disarm_clk, State.disarm_pln, State.disarm_rep, State.complete_clk, State.complete_pln, State.complete_notices]
  have hb : (cut.setTime tn.toNat).clk.Begun := (hbegun _ _ hcalm.clkStill).2 (Clk.beginSecond_begun _ _)
  have hcounter : (cut.setTime tn.toNat).clk.counter = tn.toNat := hcalm.rework.counter
  refine ⟨hcounter, hb.1, hcalm.rework.lastSet, hcalm.rework.valid, by rw [hb.2, hcounter], fun l hs hl hlate => ?_,
    fun hkept => ?_, ?_, fun hrun => ?_, { frame with }⟩
  · exact hcalm.rework.trim.trans (Clk.load_trim_small hs hl hlate)
  · exact hcalm.rework.trim.trans (Clk.load_trim_kept hkept)
  · rw [State.setTime_eq]
    cases hr : s.pln.snapshot with
    | none =>
      rw [State.trigger_idle _ (by rw [hheld, hr]) hvalid]
      rfl
    | some sn =>
      rw [State.trigger_running _ (by rw [hheld, hr]; rfl)]
      change (cut.timeLoaded tn.toNat).checkChannels.pln.snapshot.isSome = true
      rw [hheld, hr]
      rfl
  · rw [State.setTime_eq, State.trigger_running _ (by rw [hheld]; exact hrun)]
    refine ⟨rfl, ?_⟩
    change (cut.timeLoaded tn.toNat).checkChannels.rep.notices = _
    rw [State.checkChannels_rep]
    unfold State.timeLoaded
    simp only
    split
    · next hs => rw [if_pos (by exact hs)]; rfl
    · next hs => rw [if_neg (by exact hs), State.post_rep, State.post_rep]; rfl

end Sys2Proof.Machine

/-! PROOFS. The work after a write or a verification, up to its reports: what the resolution settles of the record store and
of FPX, and that nothing after it changes these. -/

namespace Sys2Proof.Machine

/-! ### The record store and FPX, beyond reports -/

/-- The record store without its reported and rejected marks and its tuner group, and FPX: what reports and hand-offs leave
alone. -/
def State.store (s : State) : Rst × Fpx :=
  ({ s.rst with
      reported := [], rejected := [], deferred := none, inForce := { s.rst.inForce with tuner := defaultTunerGroup } }, s.fpx)

theorem Calm.store {s t : State} (h : Calm s t) : t.store = s.store :=
  congrArg (fun u => (({ u.rst with reported := [], rejected := [] } : Rst), u.fpx)) h.still

section
variable {s t : State} (h : t.store = s.store)
include h

theorem store_fpx : t.fpx = s.fpx := congrArg (fun p => p.2) h
theorem store_anchor : t.rst.anchor = s.rst.anchor := congrArg (fun p => p.1.anchor) h
theorem store_schedule : t.rst.schedule = s.rst.schedule := congrArg (fun p => p.1.schedule) h
theorem store_verify : t.rst.verify = s.rst.verify := congrArg (fun p => p.1.verify) h
theorem store_tables : t.rst.tables = s.rst.tables := congrArg (fun p => p.1.tables) h
theorem store_leftOut : t.rst.leftOut = s.rst.leftOut := congrArg (fun p => p.1.leftOut) h
theorem store_effConfig : t.rst.effConfig = s.rst.effConfig := congrArg (fun p => p.1.effConfig) h
theorem store_effOpcodes : t.rst.effOpcodes = s.rst.effOpcodes := congrArg (fun p => p.1.effOpcodes) h
theorem store_adopted : t.rst.adopted = s.rst.adopted := congrArg (fun p => p.1.adopted) h
theorem store_layout : t.rst.inForce.layout = s.rst.inForce.layout := congrArg (fun p => p.1.inForce.layout) h
theorem store_scheduleGroup : t.rst.inForce.schedule = s.rst.inForce.schedule := congrArg (fun p => p.1.inForce.schedule) h

end

theorem store_ite {s a b : State} {c : Prop} [Decidable c] (ha : a.store = s.store) (hb : b.store = s.store) :
    (if c then a else b).store = s.store := by
  by_cases h : c
  · rwa [if_pos h]
  · rwa [if_neg h]

theorem store_foldl {α : Type} {f : State → α → State} (hf : ∀ s a, (f s a).store = s.store) (xs : List α) (s : State) :
    (xs.foldl f s).store = s.store := by
  induction xs generalizing s with
  | nil => rfl
  | cons x xs ih => exact (ih _).trans (hf s x)

theorem State.postNow_store (s : State) (k : NoticeKind) (t : Option Tuner) (d : Int) (r : Nat) (a : Int) :
    (s.postNow k t d r a).store = s.store := (State.postNow_calm s k t d r a).store

theorem State.reportDamaged_store (s : State) : s.reportDamaged.store = s.store :=
  store_foldl (fun s _ => State.postNow_store s _ _ _ _ _) _ _

theorem State.reportRejected_store (s : State) : s.reportRejected.store = s.store :=
  store_foldl (fun s _ => State.postNow_store s _ _ _ _ _) _ _

theorem State.raiseScan_store (s : State) : s.raiseScan.store = s.store := store_ite rfl rfl

section
variable {trig : Trigger} (ht : ∀ s, Calm s (trig s))
include ht

theorem State.handOff_store (before : Records) (s : State) : (s.handOff trig before).store = s.store := by
  unfold State.handOff
  simp only
  refine (store_foldl (fun s m => (State.markEntered_calm s m).store) _ _).trans ?_
  have h1 : (if before.bookings ≠ s.rst.tables.bookings ∨ before.links ≠ s.rst.tables.links then s.guideRetest trig
      else s).store = s.store := store_ite (State.guideRetest_calm ht s).store rfl
  have h2 := (store_foldl (fun s (p : Nat × Change × Option BookingRec) => (State.bookingChange_calm ht p.1 p.2.1 p.2.2 s).store)
    (State.bookingChanges before.bookings s) _).trans h1
  have h3 := fun c [Decidable c] => store_ite (c := c) ((State.raiseScan_store _).trans h2) h2
  exact store_ite ((State.reloadWarn_calm _).store.trans (h3 _)) (h3 _)

end

/-! ### The work of R4 -/

/-- The tables and the anchor's records brought up to the slots as they stand. -/
def State.resolved (s : State) : State := s.recomputeTables.resolveAnchor

/-- The resolution with the configuration change it calls for. -/
def State.settled (s : State) : State × ConfigOutcome :=
  if s.resolved.rst.effConfig ≠ s.rst.effConfig then s.resolved.changeConfig else (s.resolved, ⟨false, false, false⟩)

/-- The notices of a resolution, and the arbiter's part of a change of its group. -/
def State.announced (s : State) : State :=
  let s3 := ((s.settled.1.reportDamaged.reportRejected).reportLeftOut s.rst.leftOut).postConfig s.settled.2
  if s.settled.2.tunerApplied then s3.applyTunerMode else s3

theorem State.storeUpdate_eq (trig : Trigger) (s : State) : s.storeUpdate trig =
    if s.settled.1.rst.tables ≠ s.rst.tables ∨ s.settled.2.scheduleApplied ∨ s.settled.2.tunerApplied then
      trig (s.announced.handOff trig s.rst.tables)
    else s.announced.handOff trig s.rst.tables := by
  unfold State.storeUpdate State.announced State.settled
  by_cases h : s.resolved.rst.effConfig ≠ s.rst.effConfig
  · simp only [State.resolved] at h
    simp only [State.resolved, h, decide_true, if_true, ne_eq, not_false_eq_true]
  · simp only [State.resolved] at h
    simp only [State.resolved, h, decide_false, if_false, Bool.false_eq_true]

theorem State.announced_store (s : State) : s.announced.store = s.settled.1.store := by
  have h := (State.postConfig_calm (s.settled.1.reportDamaged.reportRejected.reportLeftOut s.rst.leftOut) s.settled.2).store.trans
    ((State.reportLeftOut_calm s.rst.leftOut _).store.trans
      ((State.reportRejected_store _).trans (State.reportDamaged_store s.settled.1)))
  exact store_ite ((State.applyTunerMode_calm _).store.trans h) h

theorem State.storeUpdate_store {trig : Trigger} (ht : ∀ s, Calm s (trig s)) (s : State) :
    (s.storeUpdate trig).store = s.settled.1.store := by
  have h := (State.handOff_store ht s.rst.tables s.announced).trans s.announced_store
  rw [State.storeUpdate_eq]
  exact store_ite ((ht _).store.trans h) h

/-! ### What the resolution leaves -/

theorem State.resolveAnchor_cases (s : State) :
    (s.doubtfulAt s.anchorBase = true ∧ s.resolveAnchor = s)
    ∨ (s.doubtfulAt s.anchorBase = false ∧ s.resolveAnchor = { s with
        rst := { s.rst with effConfig := s.resolveConfig, effOpcodes := s.resolveOpcodes }
        fpx := { s.fpx with classTable :=
          if s.resolveOpcodes = s.rst.effOpcodes then s.fpx.classTable else classTableOf s.resolveOpcodes } }) := by
  unfold State.resolveAnchor
  cases hd : s.doubtfulAt s.anchorBase
  · refine .inr ⟨rfl, ?_⟩
    simp only [Bool.false_eq_true, if_false]
    split <;> rfl
  · exact .inl ⟨rfl, rfl⟩

/-- What neither the resolution nor a configuration change touches: the mirrors, the verify set, the adopted mark, the layout in
force and the flash path but for its class table. -/
def State.lasting (s : State) : Memory × Memory × List Nat × Bool × LayoutGroup × Fpx :=
  (s.rst.anchor, s.rst.schedule, s.rst.verify, s.rst.adopted, s.rst.inForce.layout, { s.fpx with classTable := builtinTable })

theorem lasting_of_store {s t : State} (h : t.store = s.store) : t.lasting = s.lasting :=
  congrArg (fun p => (p.1.anchor, p.1.schedule, p.1.verify, p.1.adopted, p.1.inForce.layout,
    ({ p.2 with classTable := builtinTable } : Fpx))) h

theorem State.resolved_lasting (s : State) : s.resolved.lasting = s.lasting := by
  rcases s.recomputeTables.resolveAnchor_cases with ⟨-, h⟩ | ⟨-, h⟩ <;> rw [State.resolved, h] <;> rfl

theorem State.changeConfig_lasting (s : State) : s.changeConfig.1.lasting = s.lasting := by
  unfold State.changeConfig
  simp only
  split <;> rfl

theorem State.settled_lasting (s : State) : s.settled.1.lasting = s.lasting := by
  unfold State.settled
  split
  · exact (State.changeConfig_lasting _).trans s.resolved_lasting
  · exact s.resolved_lasting

section
variable {trig : Trigger} (ht : ∀ s, Calm s (trig s))
include ht

theorem State.storeUpdate_lasting (s : State) : (s.storeUpdate trig).lasting = s.lasting :=
  (lasting_of_store (State.storeUpdate_store ht s)).trans s.settled_lasting

theorem State.joinVerify_lasting (sectors : List Nat) (s : State) : (s.joinVerify trig sectors).lasting =
    State.lasting { s with rst := { s.rst with verify := natSet (sectors ++ s.rst.verify) } } := by
  unfold State.joinVerify
  exact (lasting_of_store (State.reportEvents_calm ht _ _ _).store).trans (State.storeUpdate_lasting ht _)

end

/-- Members join the verify set, and nothing else of what lasts changes (R17). -/
theorem State.joinSectors_verify (s : State) (sectors : List Nat) (x : Nat) :
    x ∈ (s.joinSectors sectors).rst.verify ↔ x ∈ s.rst.verify ∨ x ∈ sectors := by
  unfold State.joinSectors
  split
  · next h => simp [List.isEmpty_iff.1 h]
  · have hv : (s.joinVerify State.trigger sectors).rst.verify = natSet (sectors ++ s.rst.verify) :=
      congrArg (fun p => p.2.2.1) (State.joinVerify_lasting State.trigger_calm sectors s)
    rw [hv, mem_natSet, List.mem_append, or_comm]

theorem State.joinSectors_fpx (s : State) (sectors : List Nat) :
    ({ (s.joinSectors sectors).fpx with classTable := builtinTable } : Fpx) = { s.fpx with classTable := builtinTable } := by
  unfold State.joinSectors
  split
  · rfl
  · exact congrArg (fun p => p.2.2.2.2.2) (State.joinVerify_lasting State.trigger_calm sectors s)

end Sys2Proof.Machine

/-! PROOFS. The SoC's selections: dropped while the K240 owns the path, passed where FPX does not decode them, and the counted
codes with the flash reset. -/

namespace Sys2Proof.Machine

/-! ### The rows of the selections -/

theorem exec_selection {i : Instr} {sel : Selection} (h : selectionOf i = some sel) {s : State} (hv : s.pins.vdd = true) :
    exec i s = .next (s.clearPorts.select sel) := by
  have hrow : exec i s = .next (s.powered fun s => s.select sel) := by
    cases i <;> simp only [selectionOf, Option.some.injEq, reduceCtorEq] at h <;> subst h <;> rfl
  rw [hrow, State.powered_of_vdd hv]

theorem selectionOf_bytes {i : Instr} {sel : Selection} (h : selectionOf i = some sel) :
    sel.response = [] ∨ sel.count = 0 := by
  cases i <;> simp only [selectionOf, Option.some.injEq, reduceCtorEq] at h <;> subst h <;> simp

/-- A forwarded selection that only disarms the reset arm is one that passed. -/
theorem State.forward_disarm (s : State) (sel : Selection) :
    (s.clearPorts.forward sel).disarm = s.passed sel.code sel.answer := rfl

/-! ### While the K240 owns the path -/

theorem State.dropSelection_eq (s : State) (sel : Selection) :
    s.dropSelection sel = { s with
      ports := { s.ports with soc := s.ports.soc ++ List.replicate sel.reads (some 0xFF) }
      rep := { s.rep with sticky :=
        if s.pwc.power = .startUp ∨ s.pwc.power = .run then s.rep.sticky ||| 0x0080 else s.rep.sticky } } := by
  unfold State.dropSelection
  split <;> rfl

/-- A program into the command page while the K240 owns the path. -/
theorem State.commandProgram_owned {s : State} (ho : s.fpx.owner = .k240) (offset : Byte) (sent : List Byte)
    (act : State → State) :
    s.commandProgram offset sent act = match s.fpx.classTable.firstOf .program with
      | none => s
      | some e => s.dropSelection (s.commandSelection e offset sent) := by
  unfold State.commandProgram
  cases s.fpx.classTable.firstOf .program with
  | none => rfl
  | some e => simp only [ho]

theorem exec_commandRow (c : Command) {s : State} (hv : s.pins.vdd = true) :
    exec c.row s = .next (s.clearPorts.windowCommand c) := by
  have hrow : exec c.row s = .next (s.powered fun s => s.windowCommand c) := by cases c <;> rfl
  rw [hrow, State.powered_of_vdd hv]

theorem exec_invalidCommand (offset : Byte) (sent : List Byte) {s : State} (hv : s.pins.vdd = true) :
    exec (.invalidCommand offset sent) s =
      .next (s.clearPorts.commandProgram offset sent fun s => s.takeCommand offset sent) :=
  congrArg Host.Outcome.next (State.powered_of_vdd hv _)

theorem State.serveAlone_owned {s : State} (ho : s.fpx.owner = .k240) (off : Nat) : s.serveAlone off = s :=
  if_neg (by simp [ho])

/-- Settles O10: every row of the SoC ends in the dropped selection. -/
theorem selectionsDroppedWhileOwned : Obligations.SelectionsDroppedWhileOwned := by
  unfold Obligations.SelectionsDroppedWhileOwned
  intro s hv ho
  have hc : s.clearPorts.fpx.owner = .k240 := ho
  have hdrop : ∀ sel : Selection, s.clearPorts.dropSelection sel = { s with
      ports := ⟨List.replicate sel.reads (some 0xFF), []⟩
      rep := { s.rep with sticky :=
        if s.pwc.power = .startUp ∨ s.pwc.power = .run then s.rep.sticky ||| 0x0080 else s.rep.sticky } } := fun sel =>
    State.dropSelection_eq _ _
  refine ⟨fun i sel h => ?_, fun e he => ⟨fun c => ?_, fun offset sent => ?_⟩,
    fun he => ⟨fun c => ?_, fun offset sent => ?_⟩, ?_, ?_⟩
  · rw [exec_selection h hv, State.select_owned hc, hdrop]
  · rw [exec_commandRow c hv, State.windowCommand, State.commandProgram_owned hc, State.clearPorts_fpx, he]
    exact congrArg _ (hdrop _)
  · rw [exec_invalidCommand offset sent hv, State.commandProgram_owned hc, State.clearPorts_fpx, he]
    exact congrArg _ (hdrop _)
  · rw [exec_commandRow c hv, State.windowCommand, State.commandProgram_owned hc, State.clearPorts_fpx, he]
    rfl
  · rw [exec_invalidCommand offset sent hv, State.commandProgram_owned hc, State.clearPorts_fpx, he]
    rfl
  · exact congrArg _ ((State.powered_of_vdd hv _).trans (State.serveAlone_owned hc _))
  · exact congrArg _ ((State.powered_of_vdd hv _).trans (State.serveAlone_owned hc _))

/-! ### What FPX does not decode -/

theorem State.select_detached {s : State} (ho : s.fpx.owner = .soc) (ha : s.fpx.attached = false) (sel : Selection) :
    s.select sel = s.selectDetached sel := by
  simp [State.select, ho, ha]

/-- While DETACHED a selection that is not one of the counted reset pair is passed (R150). -/
theorem State.selectDetached_other (s : State) {sel : Selection}
    (h : sel.counted = false ∨ (¬ s.classIs sel.code .resetArm ∧ ¬ s.classIs sel.code .reset)) :
    s.selectDetached sel = (s.forward sel).disarm := by
  unfold State.selectDetached
  split
  · next hcounted hclass => exact absurd hclass (h.resolve_left (by simp [hcounted])).1
  · next hcounted hclass => exact absurd hclass (h.resolve_left (by simp [hcounted])).2
  · rfl

theorem classOf_none {t : ClassTable} {code : Byte} (h : t.classOf code = none) : t.entryOf code = none :=
  Option.map_eq_none_iff.1 h

/-- Settles O12: detached by the two decoded codes, attached by the class table. -/
theorem undecodedSelectionsPassThrough : Obligations.UndecodedSelectionsPassThrough := by
  unfold Obligations.UndecodedSelectionsPassThrough
  refine ⟨fun s i sel hv ho ha hi h => ?_, fun s i sel h hi hc => ?_⟩
  · rw [exec_selection hi hv, State.select_detached (s := s.clearPorts) ho ha, State.selectDetached_other _ (by exact h),
      State.forward_disarm]
    rfl
  · rw [exec_selection hi h.1, State.select_unlisted (s := s.clearPorts) h (classOf_none hc), State.forward_disarm]
    rfl

/-! ### Classes with no phases after their code -/

/-- The classes whose selections end with their code (R141). -/
def InstrClass.phaseless (c : InstrClass) : Prop :=
  c ∈ [InstrClass.writeEnable, .writeDisable, .suspend, .resume, .resetArm, .reset, .powerDown, .release, .detaching]

theorem State.selectClass_phaseless (s : State) (sel : Selection) {e : ClassEntry} (h : e.cls.phaseless) :
    s.selectClass sel e = if sel.counted then (s.forward sel).countedEffect e.cls else s.forward sel := by
  unfold InstrClass.phaseless at h
  unfold State.selectClass
  cases hc : e.cls <;> simp [hc] at h ⊢

/-- A heard selection of a phaseless class. -/
theorem exec_phaseless {s : State} {i : Instr} {sel : Selection} {c : InstrClass} (hs : s.Listening)
    (hi : selectionOf i = some sel) (hc : s.classIs sel.code c) (h : c.phaseless) :
    exec i s = .next
      ((if sel.counted then (s.clearPorts.forward sel).countedEffect c else s.clearPorts.forward sel).settleArm
        sel.counted (some c)) := by
  obtain ⟨e, rfl, -, hsel⟩ := State.select_listed (s := s.clearPorts) (sel := sel) hs hc
  rw [exec_selection hi hs.1, hsel, State.selectClass_phaseless _ _ h]

theorem exec_counted {s : State} {i : Instr} {code : Byte} {c : InstrClass} (hs : s.Listening)
    (hi : selectionOf i = some (codeOnly code true)) (hc : s.classIs code c) (h : c.phaseless) (hr : c ≠ .resetArm) :
    exec i s = .next ((s.clearPorts.forward (codeOnly code true)).countedEffect c).disarm := by
  rw [exec_phaseless hs hi hc h, State.settleArm_other _ _ hr]
  rfl

theorem exec_uncounted {s : State} {i : Instr} {code : Byte} {c : InstrClass} (hs : s.Listening)
    (hi : selectionOf i = some (codeOnly code false)) (hc : s.classIs code c) (h : c.phaseless) :
    exec i s = .next (s.passed code []) := by
  rw [exec_phaseless hs hi hc h]
  rfl

theorem State.doSuspend_taken {s : State} {w : InFlight} (hi : s.fpx.inFlight = some w) (hs : s.fpx.suspended = none) :
    s.doSuspend = { s with fpx := { s.fpx with
      inFlight := none, suspended := some ⟨w.kind, w.range, w.deadline - s.clk.crystal⟩ } } := by
  simp [State.doSuspend, hi, hs]

theorem State.doSuspend_ignored {s : State} (h : s.fpx.inFlight = none ∨ s.fpx.suspended ≠ none) : s.doSuspend = s := by
  unfold State.doSuspend
  split
  · next hi hs => rcases h with h | h <;> simp_all
  · rfl

theorem State.doResume_taken {s : State} {w : Suspended} (hi : s.fpx.inFlight = none) (hs : s.fpx.suspended = some w) :
    s.doResume = { s with fpx := { s.fpx with
      inFlight := some ⟨w.kind, w.range, s.clk.crystal + w.remaining⟩, suspended := none } } := by
  simp [State.doResume, hi, hs]

theorem State.doResume_ignored {s : State} (h : s.fpx.inFlight ≠ none ∨ s.fpx.suspended = none) : s.doResume = s := by
  unfold State.doResume
  split
  · next hi hs => rcases h with h | h <;> simp_all
  · rfl

/-- Settles O13: each counted code by its effect on the forwarded state, the uncounted forms at once. -/
theorem countedCodesActOnTheReplicas : Obligations.CountedCodesActOnTheReplicas := by
  unfold Obligations.CountedCodesActOnTheReplicas
  refine ⟨fun s code h => ⟨fun hc => ?_, fun hc => ?_, fun hc => ?_, fun hc => ?_, fun hc => ?_, fun hc => ?_⟩,
    fun s code c h hc hmem i hi => ?_, fun s code h => ⟨fun hc => ⟨fun w hw hs => ?_, fun hf => ?_⟩,
      fun hc => ⟨fun w hw hs => ?_, fun hf => ?_⟩⟩, fun s code hv ho ha hc => ?_⟩
  · exact exec_counted h rfl hc (by simp [InstrClass.phaseless]) nofun
  · exact exec_counted h rfl hc (by simp [InstrClass.phaseless]) nofun
  · exact exec_phaseless (sel := codeOnly code true) (c := .resetArm) h rfl hc (by simp [InstrClass.phaseless])
  · exact exec_counted h rfl hc (by simp [InstrClass.phaseless]) nofun
  · exact exec_counted h rfl hc (by simp [InstrClass.phaseless]) nofun
  · exact exec_counted h rfl hc (by simp [InstrClass.phaseless]) nofun
  · have hsel : selectionOf i = some (codeOnly code false) := by
      simp only [List.mem_cons, List.not_mem_nil, or_false] at hi
      rcases hi with rfl | rfl | rfl | rfl | rfl | rfl | rfl | rfl | rfl <;> rfl
    exact exec_uncounted h hsel hc hmem
  · rw [exec_counted h rfl hc (by simp [InstrClass.phaseless]) nofun, State.countedEffect,
      State.doSuspend_taken (by exact hw) (by exact hs)]
    rfl
  · rw [exec_counted h rfl hc (by simp [InstrClass.phaseless]) nofun, State.countedEffect,
      State.doSuspend_ignored (by exact hf)]
    rfl
  · rw [exec_counted h rfl hc (by simp [InstrClass.phaseless]) nofun, State.countedEffect,
      State.doResume_taken (by exact hw) (by exact hs)]
    rfl
  · rw [exec_counted h rfl hc (by simp [InstrClass.phaseless]) nofun, State.countedEffect,
      State.doResume_ignored (by exact hf)]
    rfl
  · have hclass : s.clearPorts.fpx.classTable.classOf code = some .resetArm := hc
    rw [exec_selection rfl hv, State.select_detached (s := s.clearPorts) ho ha]
    simp only [State.selectDetached, hclass]
    rfl

/-! ### The flash reset -/

/-- A counted RESET while the SoC owns the path, ATTACHED or DETACHED (R148, R150). -/
theorem exec_flashReset {s : State} {code : Byte} (hv : s.pins.vdd = true) (ho : s.fpx.owner = .soc) (hc : s.classIs code .reset) :
    exec (.flashReset code true) s = .next ((s.clearPorts.forward (codeOnly code true)).doReset).disarm := by
  cases ha : s.fpx.attached with
  | true => exact exec_counted ⟨hv, ho, ha⟩ rfl hc (by simp [InstrClass.phaseless]) nofun
  | false =>
    have hclass : s.clearPorts.fpx.classTable.classOf code = some .reset := hc
    rw [exec_selection rfl hv, State.select_detached (s := s.clearPorts) ho ha]
    simp only [State.selectDetached, hclass]
    rfl

/-- The members a RESET taken puts into the verify set (R148, R150). -/
theorem State.mem_resetSectors (s : State) (x : Nat) : x ∈ s.resetSectors ↔
    (∃ w, s.fpx.inFlight = some w ∧ x ∈ s.sectorsMeeting w.range)
      ∨ (∃ w, s.fpx.suspended = some w ∧ x ∈ s.sectorsMeeting w.range)
      ∨ (s.fpx.attached = false ∧ x ∈ s.watchedSectors) := by
  unfold State.resetSectors
  rw [List.mem_append, List.mem_append, or_assoc]
  refine or_congr ?_ (or_congr ?_ ?_)
  · cases s.fpx.inFlight <;> simp
  · cases s.fpx.suspended <;> simp
  · cases s.fpx.attached <;> simp

/-- Settles O14: unarmed it passes; armed it clears the tracker, and the sectors join as one piece of work. -/
theorem flashResetTakenWhenArmed : Obligations.FlashResetTakenWhenArmed := by
  unfold Obligations.FlashResetTakenWhenArmed
  intro s code hv ho hc
  rw [exec_flashReset hv ho hc]
  refine ⟨fun harm => ?_, fun harm => ⟨_, rfl, ?_⟩⟩
  · rw [State.doReset, if_neg (by simp [harm])]
    rfl
  · let f := s.clearPorts.forward (codeOnly code true)
    let b : State := { f with fpx := { f.fpx with
      wel := false, resetArm := false, inFlight := none, suspended := none, asleep := false, attached := true } }
    have hreset : f.doReset = b.joinSectors f.resetSectors := if_pos harm
    have hr := State.joinSectors_rework b f.resetSectors
    have hf := State.joinSectors_fpx b f.resetSectors
    rw [hreset]
    refine ⟨hr.ports, (congrArg (fun g : Fpx => g.wel) hf :), rfl, (congrArg (fun g : Fpx => g.inFlight) hf :), (congrArg (fun g : Fpx => g.suspended) hf :), (congrArg (fun g : Fpx => g.asleep) hf :),
      (congrArg (fun g : Fpx => g.attached) hf :), (congrArg (fun g : Fpx => g.guard) hf :), (congrArg (fun g : Fpx => g.owner) hf).trans ho, hr.anchor, hr.schedule, fun x => ?_⟩
    rw [State.disarm_rst, State.joinSectors_verify, State.mem_resetSectors]
    rfl

/-! ### Writes that are not handed to a mirror -/

theorem classIs_clearPorts {s : State} {code : Byte} {c : InstrClass} (h : s.classIs code c) : s.clearPorts.classIs code c := h

/-- A heard selection with an address, by its class. -/
theorem exec_addressed {s : State} {i : Instr} {sel : Selection} {c : InstrClass} (hs : s.Listening)
    (hi : selectionOf i = some sel) (hc : s.classIs sel.code c) (hr : c ≠ .resetArm) :
    ∃ e, e.cls = c ∧ exec i s = .next (s.clearPorts.selectClass sel e).disarm := by
  obtain ⟨e, he, -, hsel⟩ := State.select_listed (s := s.clearPorts) (sel := sel) hs hc
  exact ⟨e, he, by rw [exec_selection hi hs.1, hsel, State.settleArm_other _ _ hr]⟩

section
variable {s : State} {code : Byte} (hs : s.Listening)
include hs

theorem exec_program (hc : s.classIs code .program) (addr : FlashAddr) (data : List Byte) (whole : Bool) :
    exec (.program code addr data whole) s =
      .next (s.clearPorts.selectProgram ⟨code, some addr, data, whole, 0, []⟩ addr.toNat data).disarm := by
  obtain ⟨e, he, h⟩ := exec_addressed (i := .program code addr data whole) hs rfl hc nofun
  rw [h]
  simp only [State.selectClass, he, Selection.addressed]

theorem exec_eraseSector {i : Instr} {addr : FlashAddr} {whole : Bool} {n : Nat}
    (hi : selectionOf i = some ⟨code, some addr, [], whole, n, []⟩) (hc : s.classIs code .eraseSector) :
    exec i s =
      .next (s.clearPorts.selectErase ⟨code, some addr, [], whole, n, []⟩ .eraseSector .eraseSector addr.toNat
        ⟨sectorOf addr.toNat, 4096⟩ (s.inAnchor addr.toNat) (whole && decide (n = 0))).disarm := by
  obtain ⟨e, he, h⟩ := exec_addressed hs hi hc nofun
  rw [h]
  simp only [State.selectClass, he, Selection.addressed, Selection.endsAfterAddress, List.isEmpty_nil, Bool.and_true]
  rfl

theorem exec_eraseBlock {i : Instr} {addr : FlashAddr} {whole : Bool} {n : Nat}
    (hi : selectionOf i = some ⟨code, some addr, [], whole, n, []⟩) (hc : s.classIs code .eraseBlock) :
    exec i s =
      .next (s.clearPorts.selectErase ⟨code, some addr, [], whole, n, []⟩ .eraseBlock .eraseBlock addr.toNat
        ⟨blockOf addr.toNat, 65536⟩ (decide (blockOf addr.toNat = s.pins.fsize.anchorBlock))
        (whole && decide (n = 0))).disarm := by
  obtain ⟨e, he, h⟩ := exec_addressed hs hi hc nofun
  rw [h]
  simp only [State.selectClass, he, Selection.addressed, Selection.endsAfterAddress, List.isEmpty_nil, Bool.and_true]
  rfl

theorem exec_eraseChip (hc : s.classIs code .eraseChip) (counted : Bool) :
    exec (.eraseChip code counted) s =
      .next (if s.fpx.guard then s.clearPorts.guardCancel (codeOnly code counted) .eraseChip noRef
        else (s.clearPorts.forward (codeOnly code counted)).judgeErase .eraseChip ⟨0, s.pins.fsize.bytes⟩ counted).disarm := by
  obtain ⟨e, he, h⟩ := exec_addressed (i := .eraseChip code counted) hs rfl hc nofun
  rw [h]
  simp only [State.selectClass, he]
  rfl

theorem exec_writeStatus (hc : s.classIs code .writeStatus) (data : List Byte) (whole : Bool) :
    exec (.writeStatus code data whole) s =
      .next ((s.clearPorts.forward ⟨code, none, data, whole, 0, []⟩).judgeStatusWrite (whole && !data.isEmpty)).disarm := by
  obtain ⟨e, he, h⟩ := exec_addressed (i := .writeStatus code data whole) hs rfl hc nofun
  rw [h]
  simp only [State.selectClass, he]
  rfl

theorem exec_readStatus (hc : s.classIs code .readStatus) (response : List Byte) :
    exec (.readStatus code response) s =
      .next (response.foldl State.statusResponse (s.clearPorts.forward ⟨code, none, [], false, 0, response⟩)).disarm := by
  obtain ⟨e, he, h⟩ := exec_addressed (i := .readStatus code response) hs rfl hc nofun
  rw [h]
  simp only [State.selectClass, he]

end

/-! ### The window, the guard and the judgment -/

section
variable {s : State} {sel : Selection} {addr : Nat}

theorem State.selectProgram_judged (hw : s.inWindow addr = false) (hg : s.fpx.guard = false ∨ s.inAnchor addr = false)
    (data : List Byte) : s.selectProgram sel addr data = (s.forward sel).judgeProgram addr data sel.whole := by
  unfold State.selectProgram
  rw [if_neg (by simp [hw]), if_neg (by rcases hg with hg | hg <;> simp [hg])]

theorem State.selectProgram_guarded (hw : s.inWindow addr = false) (hg : s.fpx.guard = true) (ha : sectorOf addr = s.anchorBase)
    (data : List Byte) : s.selectProgram sel addr data = s.guardCancel sel .program addr := by
  unfold State.selectProgram
  rw [if_neg (by simp [hw]), if_pos (by simp [hg, State.inAnchor, ha])]

variable {cls : InstrClass} {kind : WriteKind} {r : FlashRange} {guarded ended : Bool}

theorem State.selectErase_judged (hw : s.inWindow addr = false) (hg : s.fpx.guard = false ∨ guarded = false) :
    s.selectErase sel cls kind addr r guarded ended = (s.forward sel).judgeErase kind r ended := by
  unfold State.selectErase
  rw [if_neg (by simp [hw]), if_neg (by rcases hg with hg | hg <;> simp [hg])]

theorem State.selectErase_guarded (hw : s.inWindow addr = false) (hg : s.fpx.guard = true) (ha : guarded = true) :
    s.selectErase sel cls kind addr r guarded ended = s.guardCancel sel cls addr := by
  unfold State.selectErase
  rw [if_neg (by simp [hw]), if_pos (by simp [hg, ha])]

theorem State.selectErase_window (hw : s.inWindow addr = true) :
    s.selectErase sel cls kind addr r guarded ended = s.cut sel.code := if_pos hw

theorem State.judgeProgram_refused {data : List Byte} {whole : Bool}
    (h : s.fpx.accepts .program ⟨pageOf addr, 256⟩ (whole && !data.isEmpty) = false) : s.judgeProgram addr data whole = s :=
  if_neg (by rw [Config.pageSize, h]; nofun)

theorem State.judgeProgram_accepted {data : List Byte} {whole : Bool}
    (h : s.fpx.accepts .program ⟨pageOf addr, 256⟩ (whole && !data.isEmpty) = true) :
    s.judgeProgram addr data whole = (s.enterWrite .program ⟨pageOf addr, 256⟩).handProgram addr data := if_pos h

theorem State.judgeErase_refused (h : s.fpx.accepts kind r ended = false) : s.judgeErase kind r ended = s :=
  if_neg (by rw [h]; nofun)

theorem State.judgeErase_accepted (h : s.fpx.accepts kind r ended = true) :
    s.judgeErase kind r ended = (s.enterWrite kind r).handErase r := if_pos h

theorem State.judgeStatusWrite_refused (h : s.fpx.accepts .writeStatus ⟨0, 0⟩ ended = false) : s.judgeStatusWrite ended = s :=
  if_neg (by rw [h]; nofun)

theorem State.judgeStatusWrite_accepted (h : s.fpx.accepts .writeStatus ⟨0, 0⟩ ended = true) :
    s.judgeStatusWrite ended = s.enterWrite .writeStatus ⟨0, 0⟩ := if_pos h

/-- A program that meets no watched partition is handed to no block. -/
theorem State.handProgram_apart {data : List Byte} (hm : s.meetsMirror ⟨pageOf addr, 256⟩ = false)
    (hg : s.meetsGuide ⟨pageOf addr, 256⟩ = false) : s.handProgram addr data = s := by
  simp [State.handProgram, Config.pageSize, hm, hg]

/-- A write without the last of its phases is accepted of no state (R144). -/
theorem Fpx.accepts_unended (f : Fpx) (kind : WriteKind) (r : FlashRange) : f.accepts kind r false = false := by
  simp [Fpx.accepts]

end

/-- Settles O15: the judgment accepts, and no watched partition is met. -/
theorem acceptedWriteEntersTheTracker : Obligations.AcceptedWriteEntersTheTracker := by
  unfold Obligations.AcceptedWriteEntersTheTracker
  refine fun s code h => ⟨fun addr data hc hw hg hd ha hm hguide => ?_, fun data hc hd ha => ?_⟩
  · have he : (true && !data.isEmpty) = true := by simpa using hd
    rw [exec_program h hc, State.selectProgram_judged (by exact hw) (by exact hg),
      State.judgeProgram_accepted (by simp only [he]; exact ha), State.handProgram_apart (by exact hm) (by exact hguide)]
    rfl
  · have he : (true && !data.isEmpty) = true := by simpa using hd
    rw [exec_writeStatus h hc, State.judgeStatusWrite_accepted (by simp only [he]; exact ha)]
    rfl

/-- Settles O18: each refused write by its judgment, the running-on erases as unended ones, the responses as one fold. -/
theorem unacceptedWritesAndStatusReads : Obligations.UnacceptedWritesAndStatusReads := by
  unfold Obligations.UnacceptedWritesAndStatusReads
  refine ⟨fun s code addr data whole h => ⟨fun hc hw hg ha => ?_, fun hc hw hg ha => ?_, fun hc hw hg ha => ?_, fun hc hg ha => ?_,
    fun hc ha => ?_, fun n hn hw => ⟨fun hc hg => ?_, fun hc hg => ?_⟩⟩, fun s code response h hc => ?_⟩
  · rw [exec_program h hc, State.selectProgram_judged (by exact hw) (by exact hg), State.judgeProgram_refused (by exact ha)]
    rfl
  · rw [exec_eraseSector h rfl hc, State.selectErase_judged (by exact hw) (by exact hg), State.judgeErase_refused (by simpa using ha)]
    rfl
  · rw [exec_eraseBlock h rfl hc, State.selectErase_judged (by exact hw) (by simpa using hg),
      State.judgeErase_refused (by simpa using ha)]
    rfl
  · rw [exec_eraseChip h hc, if_neg (by simp [hg]), State.judgeErase_refused (by exact ha)]
    rfl
  · rw [exec_writeStatus h hc, State.judgeStatusWrite_refused (by exact ha)]
    rfl
  · have hended : (true && decide (n = 0)) = false := by simp; omega
    rw [exec_eraseSector h rfl hc, State.selectErase_judged (by exact hw) (by exact hg), hended,
      State.judgeErase_refused (Fpx.accepts_unended _ _ _)]
    rfl
  · have hended : (true && decide (n = 0)) = false := by simp; omega
    rw [exec_eraseBlock h rfl hc, State.selectErase_judged (by exact hw) (by simpa using hg), hended,
      State.judgeErase_refused (Fpx.accepts_unended _ _ _)]
    rfl
  · rw [exec_readStatus h hc, State.statusResponses_eq]
    simp only [State.passed, State.forward, State.flashPort, State.socPort, State.clearPorts, State.disarm, Selection.answer,
      flashDriven, List.replicate_zero, List.append_nil, List.nil_append]

/-- Settles O19: the guard's cancellation comes before any judgment. -/
theorem guardCancelsAnchorWrites : Obligations.GuardCancelsAnchorWrites := by
  unfold Obligations.GuardCancelsAnchorWrites
  intro s code addr data whole h hg
  have hcancel : ∀ (sel : Selection) (cls : InstrClass) (ref : Nat), sel.code = code →
      (s.clearPorts.guardCancel sel cls ref).disarm =
        State.post { s with ports := ⟨[], [.cut code]⟩, fpx := { s.fpx with resetArm := false } }
          ⟨.guardBlocked, none, (classValue cls : Nat), s.clk.counter, ref, 0⟩ := by
    rintro sel cls ref rfl
    rw [State.guardCancel, State.postNow, State.post_posted, State.post_posted]
    rfl
  refine ⟨fun hc hw ha => ?_, fun hc hw ha => ?_, fun hc hw ha => ?_, fun hc => ?_⟩
  · rw [exec_program h hc, State.selectProgram_guarded (by exact hw) (by exact hg) (by exact ha), hcancel _ _ _ (by rfl)]
    rfl
  · rw [exec_eraseSector h rfl hc, State.selectErase_guarded (by exact hw) (by exact hg) (by simp [State.inAnchor, ha]),
      hcancel _ _ _ (by rfl)]
    rfl
  · rw [exec_eraseBlock h rfl hc, State.selectErase_guarded (by exact hw) (by exact hg) (by simp [ha]), hcancel _ _ _ (by rfl)]
    rfl
  · rw [exec_eraseChip h hc, if_pos hg, hcancel _ _ _ (by rfl)]
    rfl

end Sys2Proof.Machine

/-! PROOFS. The accepted writes into the watched partitions: a program's bytes in the mirror, an erase's blank range and the
matched entries it removes. -/

namespace Sys2Proof.Machine

/-! ### The hand-over of an accepted write -/

/-- The mirrors with an accepted program's bytes. -/
def State.programmed (s : State) (addr : Nat) (data : List Byte) : State :=
  if s.meetsMirror ⟨pageOf addr, Config.pageSize⟩ then s.mirrorProgram addr data else s

/-- The mirrors with an accepted erase's range blank. -/
def State.blanked (s : State) (r : FlashRange) : State := if s.meetsMirror r then s.mirrorErase r.lo r.len else s

theorem State.handProgram_programmed (s : State) (addr : Nat) (data : List Byte) :
    Rework (s.programmed addr data) (s.handProgram addr data) := by
  have hg : ∀ u : State, Rework u (if u.meetsGuide ⟨pageOf addr, Config.pageSize⟩ then u.guideProgram State.trigger addr data else u) := by
    intro u
    split
    · exact State.guideProgram_rework State.trigger_calm _ _ _
    · exact Rework.refl u
  simp only [State.handProgram, State.programmed]
  split
  · exact (State.storeUpdate_rework State.trigger_calm _).trans (hg _)
  · exact hg _

theorem State.handErase_blanked (s : State) (r : FlashRange) : Rework (s.blanked r) (s.handErase r) := by
  have hg : ∀ u : State, Rework u (if u.meetsGuide r then u.guideErase State.trigger r.lo r.len else u) := by
    intro u
    split
    · exact (State.guideErase_calm State.trigger_calm _ _ _).rework
    · exact Rework.refl u
  simp only [State.handErase, State.blanked]
  split
  · exact (State.storeUpdate_rework State.trigger_calm _).trans (hg _)
  · exact hg _

/-- An applied write changes the mirrors alone. -/
def State.OnlyMirrors (s t : State) : Prop := ∃ a m, t = { s with rst := { s.rst with anchor := a, schedule := m } }

theorem State.OnlyMirrors.refl (s : State) : s.OnlyMirrors s := ⟨s.rst.anchor, s.rst.schedule, rfl⟩

theorem State.programmed_mirrors (s : State) (addr : Nat) (data : List Byte) : s.OnlyMirrors (s.programmed addr data) := by
  unfold State.programmed
  split
  · unfold State.mirrorProgram
    simp only
    split
    · exact ⟨_, _, rfl⟩
    · split
      · split
        · exact ⟨_, _, rfl⟩
        · exact .refl s
      · exact .refl s
  · exact .refl s

theorem State.blanked_mirrors (s : State) (r : FlashRange) : s.OnlyMirrors (s.blanked r) := by
  unfold State.blanked
  split
  · unfold State.mirrorErase
    simp only
    split
    · exact ⟨_, _, rfl⟩
    · exact ⟨_, _, rfl⟩
  · exact .refl s

section
variable {s t : State} (h : s.OnlyMirrors t)
include h

theorem State.OnlyMirrors.fpx : t.fpx = s.fpx := by obtain ⟨a, m, rfl⟩ := h; rfl
theorem State.OnlyMirrors.pins : t.pins = s.pins := by obtain ⟨a, m, rfl⟩ := h; rfl
theorem State.OnlyMirrors.pwc : t.pwc = s.pwc := by obtain ⟨a, m, rfl⟩ := h; rfl
theorem State.OnlyMirrors.ports : t.ports = s.ports := by obtain ⟨a, m, rfl⟩ := h; rfl
theorem State.OnlyMirrors.clk : t.clk = s.clk := by obtain ⟨a, m, rfl⟩ := h; rfl
theorem State.OnlyMirrors.inForce : t.rst.inForce = s.rst.inForce := by obtain ⟨a, m, rfl⟩ := h; rfl

end

/-! ### The anchor's place -/

theorem FlashSize.anchor_sector (f : FlashSize) : f.anchor % 4096 = 0 := by cases f <;> decide

theorem sectorOf_eq_anchor {s : State} {x : Nat} : sectorOf x = s.anchorBase ↔ s.anchorBase ≤ x ∧ x < s.anchorBase + 4096 := by
  have h : s.anchorBase % 4096 = 0 := s.pins.fsize.anchor_sector
  generalize s.anchorBase = a at *
  simp only [sectorOf, Config.sectorSize]
  omega

theorem rangesMeet_iff (lo len lo' len' : Nat) :
    rangesMeet lo len lo' len' = true ↔ 0 < len ∧ 0 < len' ∧ lo < lo' + len' ∧ lo' < lo + len := by
  simp [rangesMeet, and_assoc]

theorem State.meetsMirror_anchor {s : State} {page : Nat} (h : sectorOf page = s.anchorBase) : s.meetsMirror ⟨page, 256⟩ = true := by
  rw [sectorOf_eq_anchor] at h
  rw [State.meetsMirror, Bool.or_eq_true]
  exact .inl ((rangesMeet_iff _ _ _ _).2 ⟨Nat.succ_pos 255, Nat.succ_pos 4095, by simp only [Config.sectorSize]; omega, by simp only; omega⟩)

theorem State.meetsMirror_schedule {s : State} {page base : Nat} (hb : s.scheduleBase = some base) (hlow : base ≤ page)
    (hhigh : page < base + 65536) : s.meetsMirror ⟨page, 256⟩ = true := by
  rw [State.meetsMirror, Bool.or_eq_true]
  simp only [hb]
  exact .inr ((rangesMeet_iff _ _ _ _).2 ⟨Nat.succ_pos 255, Nat.succ_pos 65535, by simp only [Config.blockSize]; omega, by omega⟩)

section
variable {s : State} {addr : Nat} {data : List Byte}

theorem State.programmed_anchor (h : sectorOf (pageOf addr) = s.anchorBase) : s.programmed addr data =
    { s with rst := { s.rst with anchor := s.rst.anchor.program (pageOf addr - s.anchorBase) (appliedBytes addr data) } } := by
  rw [State.programmed, Config.pageSize, if_pos (State.meetsMirror_anchor h)]
  rw [sectorOf_eq_anchor] at h
  simp only [State.mirrorProgram, Config.sectorSize, if_pos h]

theorem State.programmed_schedule {base : Nat} (hb : s.scheduleBase = some base) (hlow : base ≤ pageOf addr)
    (hhigh : pageOf addr < base + 65536) (ha : sectorOf (pageOf addr) ≠ s.anchorBase) : s.programmed addr data =
    { s with rst := { s.rst with schedule := s.rst.schedule.program (pageOf addr - base) (appliedBytes addr data) } } := by
  rw [State.programmed, Config.pageSize, if_pos (State.meetsMirror_schedule hb hlow hhigh)]
  rw [ne_eq, sectorOf_eq_anchor] at ha
  simp only [State.mirrorProgram, Config.sectorSize, if_neg ha, hb, Config.blockSize]
  exact if_pos ⟨hlow, hhigh⟩

end

/-- The bytes of a program that fall on one mirror address, ANDed in their order (R2). -/
theorem Memory.read_program_stored {m : Memory} (h : m.wf = true) (page : Nat) (applied : List (Nat × Byte)) (x : Nat) :
    (m.program page applied).read x =
      ((applied.filter fun p => page + p.1 = x).map Prod.snd).foldl (· &&& ·) (m.read x) := by
  rw [Memory.read_program h, List.foldl_map]

/-- What the mirrors hold after an applied program: the bytes ANDed into the mirror it meets, no other byte changed (R1, R2). -/
theorem State.programmed_reads {s : State} (h : s.MirrorsCanonical) (addr : Nat) (data : List Byte) :
    (sectorOf (pageOf addr) = s.anchorBase → (s.programmed addr data).rst.schedule = s.rst.schedule
      ∧ ∀ a, (s.programmed addr data).rst.anchor.read a =
          (((appliedBytes addr data).filter fun p => pageOf addr - s.anchorBase + p.1 = a).map Prod.snd).foldl (· &&& ·)
            (s.rst.anchor.read a))
    ∧ (∀ base, s.scheduleBase = some base → base ≤ pageOf addr → pageOf addr < base + 65536 →
        sectorOf (pageOf addr) ≠ s.anchorBase →
        (s.programmed addr data).rst.anchor = s.rst.anchor
        ∧ ∀ a, (s.programmed addr data).rst.schedule.read a =
          (((appliedBytes addr data).filter fun p => pageOf addr - base + p.1 = a).map Prod.snd).foldl (· &&& ·)
            (s.rst.schedule.read a))
    ∧ (s.meetsMirror ⟨pageOf addr, 256⟩ = false →
        (s.programmed addr data).rst.anchor = s.rst.anchor ∧ (s.programmed addr data).rst.schedule = s.rst.schedule) := by
  refine ⟨fun hanchor => ?_, fun base hb hlow hhigh hanchor => ?_, fun hapart => ?_⟩
  · rw [State.programmed_anchor hanchor]
    dsimp only
    exact ⟨rfl, fun a => Memory.read_program_stored h.anchor _ _ _⟩
  · rw [State.programmed_schedule hb hlow hhigh hanchor]
    dsimp only
    exact ⟨rfl, fun a => Memory.read_program_stored h.schedule _ _ _⟩
  · rw [State.programmed, Config.pageSize, if_neg (by rw [hapart]; nofun)]
    exact ⟨rfl, rfl⟩

/-- What the hand-over of an accepted write leaves of the state `w` in which it entered the tracker, `p` holding its mirrors. -/
theorem Rework.handedOver {w p t : State} (hm : w.OnlyMirrors p) (hr : Rework p t) :
    t.disarm.fpx.wel = w.fpx.wel ∧ t.disarm.fpx.resetArm = false ∧ t.disarm.fpx.inFlight = w.fpx.inFlight
      ∧ t.disarm.ports = w.ports ∧ t.disarm.pins = w.pins ∧ t.disarm.pwc = w.pwc ∧ t.disarm.clk.counter = w.clk.counter
      ∧ t.disarm.rst.anchor = p.rst.anchor ∧ t.disarm.rst.schedule = p.rst.schedule := by
  have hf := hr.fpx
  rw [hm.fpx] at hf
  exact ⟨(congrArg (fun g : Fpx => g.wel) hf :), rfl, (congrArg (fun g : Fpx => g.inFlight) hf :), hr.ports.trans hm.ports,
    hr.pins.trans hm.pins, hr.pwc.trans hm.pwc, hr.counter.trans (congrArg Clk.counter hm.clk), hr.anchor, hr.schedule⟩

/-- Settles O16: the mirror takes the bytes before the work of R4, which leaves both mirrors alone. -/
theorem acceptedProgramAndsIntoTheMirror : Obligations.AcceptedProgramAndsIntoTheMirror := by
  unfold Obligations.AcceptedProgramAndsIntoTheMirror
  intro s code addr data h hcanon hc hw hg hd page stored ha
  have hended : (true && !data.isEmpty) = true := by simpa using hd
  let w := (s.clearPorts.forward ⟨code, some addr, data, true, 0, []⟩).enterWrite .program ⟨pageOf addr.toNat, 256⟩
  have hexec : exec (.program code addr data true) s = .next (w.handProgram addr.toNat data).disarm := by
    rw [exec_program h hc, State.selectProgram_judged (by exact hw) (by exact hg),
      State.judgeProgram_accepted (by simp only [hended]; exact ha)]
  have hwcanon : w.MirrorsCanonical := ⟨hcanon.anchor, hcanon.schedule⟩
  have hbase : w.anchorBase = s.anchorBase := rfl
  have hsched : w.scheduleBase = s.scheduleBase := rfl
  have hrst : w.rst = s.rst := rfl
  have hmeets : w.meetsMirror ⟨pageOf addr.toNat, 256⟩ = s.meetsMirror ⟨pageOf addr.toNat, 256⟩ := rfl
  have hreads := State.programmed_reads hwcanon addr.toNat data
  obtain ⟨hwel, harm, hflight, hports, hpins, hpwc, hcounter, hanchor, hschedule⟩ :=
    (w.handProgram_programmed addr.toNat data).handedOver (w.programmed_mirrors addr.toNat data)
  rw [hbase, hsched, hrst, hmeets, ← hanchor, ← hschedule] at hreads
  rw [hexec]
  exact ⟨_, rfl, hwel, harm, hflight, hports, hpins, hpwc, hcounter, hreads⟩

/-! ### Erases -/

theorem State.blanked_anchor (s : State) (r : FlashRange) {a : Nat} (ha : a < 4096) :
    (s.blanked r).rst.anchor.read a =
      if r.lo ≤ s.anchorBase + a ∧ s.anchorBase + a < r.lo + r.len then 0xFF else s.rst.anchor.read a := by
  unfold State.blanked
  by_cases hm : s.meetsMirror r = true
  · have herase : (s.mirrorErase r.lo r.len).rst.anchor =
        s.rst.anchor.erase (r.lo - s.anchorBase) (r.lo + r.len - s.anchorBase - (r.lo - s.anchorBase)) := by
      unfold State.mirrorErase
      simp only
      split <;> rfl
    rw [if_pos hm, herase, Memory.read_erase]
    exact if_congr (by omega) rfl rfl
  · have hapart : ¬ (r.lo ≤ s.anchorBase + a ∧ s.anchorBase + a < r.lo + r.len) := fun hin => hm (by
      rw [State.meetsMirror, Bool.or_eq_true]
      exact .inl ((rangesMeet_iff _ _ _ _).2 ⟨by omega, Nat.succ_pos 4095, by simp only [Config.sectorSize]; omega, by omega⟩))
    rw [if_neg hm, if_neg hapart]

theorem State.blanked_schedule (s : State) (r : FlashRange) {base a : Nat} (hb : s.scheduleBase = some base) (ha : a < 65536) :
    (s.blanked r).rst.schedule.read a =
      if r.lo ≤ base + a ∧ base + a < r.lo + r.len then 0xFF else s.rst.schedule.read a := by
  unfold State.blanked
  by_cases hm : s.meetsMirror r = true
  · have herase : (s.mirrorErase r.lo r.len).rst.schedule =
        s.rst.schedule.erase (r.lo - base) (r.lo + r.len - base - (r.lo - base)) := by
      simp only [State.mirrorErase, hb]
    rw [if_pos hm, herase, Memory.read_erase]
    exact if_congr (by omega) rfl rfl
  · have hapart : ¬ (r.lo ≤ base + a ∧ base + a < r.lo + r.len) := fun hin => hm (by
      rw [State.meetsMirror, Bool.or_eq_true]
      simp only [hb]
      exact .inr ((rangesMeet_iff _ _ _ _).2 ⟨by omega, Nat.succ_pos 65535, by simp only [Config.blockSize]; omega, by omega⟩))
    rw [if_neg hm, if_neg hapart]

/-- After a guide erase and its reports no entry of the range is held (R36). -/
theorem State.guideErase_entries (s : State) (lo len : Nat) {e : MatchedEntry}
    (h : e ∈ (s.guideErase State.trigger lo len).gmx.entries) : ¬ (lo ≤ e.slot ∧ e.slot < lo + len) := by
  obtain ⟨x, hx, hslot, -⟩ := dwindles_reports.reportEvents trivial _ _ e h
  obtain ⟨y, hy, hxy⟩ := mem_recomputeEffective hx
  have hkept := (List.mem_filter.1 (List.mem_filter.1 hy).1).2
  rw [← hslot, congrArg MatchedEntry.slot hxy]
  simpa [imp_iff_not_or] using hkept

theorem State.handErase_entries (s : State) {r : FlashRange} (hg : s.meetsGuide r = true) {e : MatchedEntry}
    (h : e ∈ (s.handErase r).gmx.entries) : ¬ (r.lo ≤ e.slot ∧ e.slot < r.lo + r.len) := by
  have hmeets : ∀ u : State, u.rst.inForce.layout = s.rst.inForce.layout → u.meetsGuide r = true := fun u hu => by
    rw [State.meetsGuide, hu]
    exact hg
  unfold State.handErase at h
  by_cases hm : s.meetsMirror r = true
  · have hlayout : ((s.mirrorErase r.lo r.len).storeUpdate State.trigger).rst.inForce.layout = s.rst.inForce.layout := by
      have hstored := congrArg (fun p => p.2.2.2.2.1) (State.storeUpdate_lasting State.trigger_calm (s.mirrorErase r.lo r.len))
      have hmirror := s.blanked_mirrors r
      rw [State.blanked, if_pos hm] at hmirror
      exact hstored.trans (congrArg Cfg.layout hmirror.inForce)
    simp only [if_pos hm, if_pos (hmeets _ hlayout)] at h
    exact State.guideErase_entries _ _ _ h
  · simp only [if_neg hm, if_pos hg] at h
    exact State.guideErase_entries _ _ _ h

/-- What the judgment of an accepted erase over a forwarded selection leaves. -/
theorem acceptedErase_leaves {s : State} {sel : Selection} {kind : WriteKind} {r : FlashRange} (ha : sel.answer = []) :
    let t := (((s.clearPorts.forward sel).enterWrite kind r).handErase r).disarm
    t.fpx.wel = false ∧ t.fpx.resetArm = false ∧ t.fpx.inFlight = some ⟨kind, r, s.clk.crystal + kind.periods⟩
      ∧ t.ports = ⟨[], [.forward sel.code]⟩ ∧ t.pins = s.pins ∧ t.pwc = s.pwc ∧ t.clk.counter = s.clk.counter
      ∧ (∀ a, a < 4096 → t.rst.anchor.read a =
          if r.lo ≤ s.anchorBase + a ∧ s.anchorBase + a < r.lo + r.len then 0xFF else s.rst.anchor.read a)
      ∧ (∀ base, s.scheduleBase = some base → ∀ a, a < 65536 → t.rst.schedule.read a =
          if r.lo ≤ base + a ∧ base + a < r.lo + r.len then 0xFF else s.rst.schedule.read a)
      ∧ (s.meetsGuide r = true → ∀ e ∈ t.gmx.entries, ¬ (r.lo ≤ e.slot ∧ e.slot < r.lo + r.len)) := by
  intro t
  let w := (s.clearPorts.forward sel).enterWrite kind r
  have hports : w.ports = ⟨[], [.forward sel.code]⟩ := by
    change (⟨[] ++ sel.answer, [] ++ [.forward sel.code]⟩ : Ports) = _
    rw [ha]
    rfl
  obtain ⟨hwel, harm, hflight, hp, hpins, hpwc, hcounter, hanchor, hschedule⟩ :=
    (w.handErase_blanked r).handedOver (w.blanked_mirrors r)
  exact ⟨hwel, harm, hflight, hp.trans hports, hpins, hpwc, hcounter,
    fun a hlow => (congrArg (fun m => m.read a) hanchor).trans (w.blanked_anchor r hlow),
    fun base hb a hlow => (congrArg (fun m => m.read a) hschedule).trans (w.blanked_schedule r hb hlow),
    fun hg e he => w.handErase_entries hg he⟩

/-- Settles O17: the three erases by their rows, what they leave by the judgment. -/
theorem acceptedEraseBlanksItsRange : Obligations.AcceptedEraseBlanksItsRange := by
  unfold Obligations.AcceptedEraseBlanksItsRange
  intro s code addr h i cls kind r seconds hrow hc ha
  rcases hrow with ⟨rfl, rfl, rfl, rfl, rfl, hw, hg⟩ | ⟨rfl, rfl, rfl, rfl, rfl, hw, hg⟩ | ⟨rfl, rfl, rfl, rfl, rfl, hg⟩
  · rw [exec_eraseSector h rfl hc, State.selectErase_judged (by exact hw) (by exact hg), State.judgeErase_accepted (by exact ha)]
    exact ⟨_, rfl, acceptedErase_leaves rfl⟩
  · rw [exec_eraseBlock h rfl hc, State.selectErase_judged (by exact hw) (by simpa using hg),
      State.judgeErase_accepted (by exact ha)]
    exact ⟨_, rfl, acceptedErase_leaves rfl⟩
  · rw [exec_eraseChip h hc, if_neg (by simp [hg]), State.judgeErase_accepted (by exact ha)]
    exact ⟨_, rfl, acceptedErase_leaves rfl⟩

end Sys2Proof.Machine

/-! PROOFS. The window commands' bytes and checks, the commands of the mask, the guard and the verify set, and the flags. -/

namespace Sys2Proof.Machine

/-! ### The bytes of a command -/

theorem length_leBytes (n v : Nat) : (leBytes n v).length = n := by simp [leBytes]

theorem leBytes_succ (n v : Nat) : leBytes (n + 1) v = BitVec.ofNat 8 v :: leBytes n (v / 256) := by
  rw [leBytes, List.range_succ_eq_map, List.map_cons, List.map_map]
  congr 1
  refine List.map_congr_left fun i _ => ?_
  have h : v >>> (8 * (i + 1)) = (v / 256) >>> (8 * i) := by
    rw [Nat.mul_succ, Nat.add_comm, Nat.shiftRight_add, Nat.shiftRight_eq_div_pow v 8]
  exact congrArg (BitVec.ofNat 8) h

/-- Little-endian bytes give their value back, modulo what they hold. -/
theorem leValue_leBytes (n v : Nat) : leValue (leBytes n v) = v % 256 ^ n := by
  induction n generalizing v with
  | zero => simp [leBytes, leValue, Nat.mod_one]
  | succ n ih =>
    rw [leBytes_succ, leValue, ih, BitVec.toNat_ofNat, Nat.pow_succ' (n := n), Nat.mod_mul]

theorem ofNat_leValue (w n : Nat) (h : 2 ^ w = 256 ^ n) (x : BitVec w) : BitVec.ofNat w (leValue (leBytes n x.toNat)) = x := by
  rw [leValue_leBytes, ← h, Nat.mod_eq_of_lt x.isLt, BitVec.ofNat_toNat, BitVec.setWidth_eq]

theorem commandLength_encode (c : Command) : commandLength (commandCode c) = some (encodeCommand c).length := by
  cases c <;> rfl

theorem encodeCommand_cons (c : Command) : encodeCommand c = commandCode c :: (encodeCommand c).tail := by
  cases c <;> rfl

theorem commandOf_encode (c : Command) : commandOf (commandCode c) (encodeCommand c).tail = c := by
  cases c with
  | ackNotices n =>
    change Command.ackNotices (BitVec.ofNat 8 (n.toNat + 256 * 0)) = _
    rw [Nat.mul_zero, Nat.add_zero, BitVec.ofNat_toNat, BitVec.setWidth_eq]
  | clearFlags m => exact congrArg Command.clearFlags (ofNat_leValue 16 2 rfl m)
  | setAttnMask m => exact congrArg Command.setAttnMask (ofNat_leValue 16 2 rfl m)
  | setTime t => exact congrArg Command.setTime (ofNat_leValue 32 4 rfl t)
  | confirmStart r => exact congrArg Command.confirmStart (ofNat_leValue 32 4 rfl r)
  | reportFailure r => exact congrArg Command.reportFailure (ofNat_leValue 32 4 rfl r)
  | view v => exact congrArg Command.view (ofNat_leValue 16 2 rfl v)
  | viewEnd => rfl
  | keepViewing r => exact congrArg Command.keepViewing (ofNat_leValue 32 4 rfl r)
  | lend ms => exact congrArg Command.lend (ofNat_leValue 16 2 rfl ms)
  | standby => rfl
  | replan => rfl
  | guardAnchor => rfl
  | rescan => rfl

theorem length_encodeCommand_le (c : Command) : (encodeCommand c).length ≤ 5 := by
  cases c <;> simp [encodeCommand, length_leBytes]

theorem parseCommand_encode (c : Command) : parseCommand 0 (encodeCommand c) = .command c := by
  have hlen := length_encodeCommand_le c
  have hcode := commandLength_encode c
  have hof := commandOf_encode c
  rw [encodeCommand_cons] at hlen hcode ⊢
  generalize hcmd : commandCode c = code at *
  generalize (encodeCommand c).tail = arg at *
  simp only [List.length_cons] at hlen hcode
  simp only [parseCommand, ne_eq, not_true_eq_false, if_false, List.length_cons, hcode, if_true, hof,
    if_neg (show ¬ 256 < arg.length + 1 by omega)]

/-- Settles O24: length, code and argument of each command's bytes. -/
theorem commandBytesSpellTheCommand : Obligations.CommandBytesSpellTheCommand := fun c =>
  ⟨parseCommand_encode c, length_encodeCommand_le c, by rw [encodeCommand_cons]; rfl⟩

/-! ### The checks of a command (R167) -/

theorem parseCommand_misplaced {offset : Byte} {sent : List Byte} (h : offset ≠ 0 ∨ 256 < sent.length) :
    parseCommand offset sent = .failed (some 0xFF) .badLength := by
  unfold parseCommand
  by_cases ho : offset = 0
  · simp [ho, h.resolve_left (not_not.2 ho)]
  · rw [if_pos ho]

theorem parseCommand_cons {code : Byte} {arg : List Byte} (h : (code :: arg).length ≤ 256) :
    parseCommand 0 (code :: arg) = (commandLength code).elim (.failed (some code) .badCode) fun n =>
      if arg.length + 1 = n then .command (commandOf code arg) else .failed (some code) .badLength := by
  simp only [parseCommand, ne_eq, not_true_eq_false, if_false, if_neg (Nat.not_lt.2 h)]
  cases commandLength code <;> rfl

theorem commandLength_unlisted {code : Byte} (h : code = 0 ∨ 0x0E < code.toNat) : commandLength code = none := by
  rcases h with rfl | h
  · rfl
  · unfold commandLength
    split <;> first | omega | rfl

/-- A heard program into the command page is taken where it was absorbed. -/
theorem exec_invalidCommand_heard {s : State} {e : ClassEntry} (h : s.Listening) (he : s.fpx.classTable.firstOf .program = some e)
    (offset : Byte) (sent : List Byte) :
    exec (.invalidCommand offset sent) s = .next ((s.clearPorts.cut e.code).takeCommand offset sent).disarm := by
  rw [exec_invalidCommand offset sent h.1]
  exact congrArg _ (State.commandProgram_listening h he offset sent _)

theorem exec_failed {s : State} {e : ClassEntry} (h : s.Listening) (he : s.fpx.classTable.firstOf .program = some e)
    {offset : Byte} {sent : List Byte} {code : Byte} {r : CmdResult} (hp : parseCommand offset sent = .failed (some code) r) :
    exec (.invalidCommand offset sent) s = .next (s.answered e.code code r) := by
  rw [exec_invalidCommand_heard h he, State.takeCommand, hp]
  exact congrArg _ (State.complete_disarm s e.code code r)

theorem argOk_view_of_outside {v : BitVec 16} (h : v = 0 ∨ v = 0xFFFF) : argOk (.view v) = false := by
  rcases h with rfl | rfl <;> rfl

theorem argOk_lend_of_outside {ms : BitVec 16} (h : ms = 0 ∨ 60000 < ms.toNat) : argOk (.lend ms) = false := by
  rcases h with rfl | h
  · rfl
  · simp only [argOk, Bool.and_eq_false_iff, decide_eq_false_iff_not]
    omega

/-- Settles O26: the four checks by the parsed answer, the fifth by the argument's range. -/
theorem failedChecksAreAnswered : Obligations.FailedChecksAreAnswered := by
  unfold Obligations.FailedChecksAreAnswered
  refine ⟨fun s e offset h he => ⟨fun sent hbad => ?_, fun code arg hlen hcode => ?_, fun code arg n hlen hn hne => ?_, ?_⟩,
    fun s e h he => ⟨fun n hn => ?_, fun v hv => ?_, fun ms hms => ?_⟩⟩
  · exact exec_failed h he (parseCommand_misplaced hbad)
  · exact exec_failed h he (by rw [parseCommand_cons hlen, commandLength_unlisted hcode, Option.elim_none])
  · have hne' : ¬ arg.length + 1 = n := hne
    refine exec_failed h he ?_
    rw [parseCommand_cons hlen, hn]
    exact if_neg hne'
  · refine ⟨Config.freeCode s.freeCount, ?_⟩
    rw [exec_invalidCommand_heard h he]
    exact congrArg _ (State.complete_disarm { s with freeCount := s.freeCount + 1 } e.code _ _)
  · exact exec_row_badArg h he (argOk_ackNotices_of_outside hn)
  · exact exec_row_badArg h he (argOk_view_of_outside hv)
  · exact exec_row_badArg h he (argOk_lend_of_outside hms)

/-! ### The mask, the guard and the verify set -/

/-- A heard command with its argument in range and nothing after its completion. -/
theorem exec_row_ok {s : State} {e : ClassEntry} (h : s.Listening) (he : s.fpx.classTable.firstOf .program = some e)
    {c : Command} (hok : argOk c = true) (hafter : ∀ u : State, u.afterCommand c = u) :
    exec c.row s = .next ((((s.clearPorts.cut e.code).commandWork c).2.complete (commandCode c)
      ((s.clearPorts.cut e.code).commandWork c).1).disarm) := by
  rw [exec_row_heard h he, State.runCommand_ok hok, hafter]

/-- What is recorded of a command that is answered. -/
theorem State.completed_rep (t : State) (code : Byte) (r : CmdResult) :
    (t.complete code r).disarm.rep.lastCode = code ∧ (t.complete code r).disarm.rep.lastResult = resultCode r ∧
      (t.complete code r).disarm.rep.counter = t.rep.counter + 1 := by
  rw [State.disarm_rep, State.complete_eq]
  exact ⟨rfl, rfl, rfl⟩

/-- Settles O29: the mask and the guard by their answers, RESCAN by the sectors that join. -/
theorem maskGuardAndRescan : Obligations.MaskGuardAndRescan := by
  unfold Obligations.MaskGuardAndRescan
  refine ⟨fun s e h he => ⟨fun mask => ?_, ?_⟩, fun s e h he => ?_⟩
  · exact (exec_row_ok h he (c := .setAttnMask mask) rfl fun _ => rfl).trans
      (congrArg _ (State.complete_disarm { s with rep := { s.rep with mask := mask } } e.code 0x03 .ok))
  · exact (exec_row_ok h he (c := .guardAnchor) rfl fun _ => rfl).trans
      (congrArg _ (State.complete_disarm { s with fpx := { s.fpx with guard := true } } e.code 0x0D .ok))
  · let cut := s.clearPorts.cut e.code
    have hexec : exec .rescan s = .next ((cut.joinSectors cut.watchedSectors).complete 0x0E .ok).disarm :=
      exec_row_ok h he (c := .rescan) rfl fun _ => rfl
    have hv := cut.joinSectors_verify cut.watchedSectors
    have hr := cut.joinSectors_rework cut.watchedSectors
    have hf := cut.joinSectors_fpx cut.watchedSectors
    generalize cut.joinSectors cut.watchedSectors = u at hexec hv hr hf
    have hcount : u.rep.counter = s.rep.counter := congrArg (fun u => u.rep.counter) hr.outer
    obtain ⟨hlc, hlr, hc⟩ := u.completed_rep 0x0E .ok
    refine ⟨_, hexec, fun x => ?_, ?_⟩
    · rw [State.disarm_rst, State.complete_rst]
      exact hv x
    · simp only [State.disarm_rst, State.complete_rst, State.disarm_ports, State.complete_ports, State.disarm_pwc,
        State.complete_pwc, State.disarm_pins, State.complete_pins, State.disarm_clk, State.complete_clk]
      refine ⟨hr.anchor, hr.schedule, hr.ports, ?_, hr.pwc, hr.pins, hr.counter, hlc, hlr, hc.trans (congrArg (· + 1) hcount)⟩
      rw [State.disarm, State.complete_fpx]
      exact (congrArg (fun g : Fpx => g.owner) hf :)

/-! ### Posts, flags and ATTN -/

theorem State.post_below {s : State} {n : Notice} (h : s.rep.notices.length < 32) :
    s.post n = { s with rep := { s.rep with notices := s.rep.notices ++ [n] } } := by
  rw [State.post_posted, Rep.posted, if_pos h]

theorem State.post_full {s : State} {n : Notice} (h : 32 ≤ s.rep.notices.length) :
    s.post n = { s with rep := { s.rep with
      notices := s.rep.notices.drop 1 ++ [n], sticky := s.rep.sticky ||| 0x0002 } } := by
  rw [State.post_posted, Rep.posted, if_neg (Nat.not_lt.2 h)]
  rfl

/-- A word is not zero exactly where one of its bits is set. -/
theorem bitVec_ne_zero_iff {w : Nat} (x : BitVec w) : x ≠ 0 ↔ ∃ i, x.getLsbD i = true := by
  refine ⟨fun h => ?_, fun ⟨i, hi⟩ h => by simp [h] at hi⟩
  by_contra hnone
  exact h (BitVec.eq_of_getLsbD_eq fun i _ => by simpa using not_exists.1 hnone i)

theorem getLsbD_low12 (i : Nat) : (0x0FFF : BitVec 16).getLsbD i = decide (i < 12) := by
  by_cases h : i < 16
  · interval_cases i <;> rfl
  · rw [BitVec.getLsbD_of_ge _ _ (by omega), decide_eq_false (by omega)]

/-- Which bit of the flag set a following flag is (R165). -/
theorem getLsbD_flagBit (f : Flag) (i : Nat) : f.bit.getLsbD i = decide (i = f.number) := by
  have hlt : f.number < 16 := by cases f <;> decide
  have hbit : f.bit = BitVec.twoPow 16 f.number := rfl
  rw [hbit, BitVec.getLsbD_twoPow]
  by_cases h : f.number = i
  · subst h
    simp [hlt]
  · simp [h, Ne.symm h]

theorem getLsbD_ite_zero (c : Prop) [Decidable c] (x : BitVec 16) (i : Nat) :
    (if c then 0 else x).getLsbD i = (!decide c && x.getLsbD i) := by
  by_cases h : c <;> simp [h]

theorem getLsbD_ite (c : Prop) [Decidable c] (x : BitVec 16) (i : Nat) :
    (if c then x else 0).getLsbD i = (decide c && x.getLsbD i) := by
  by_cases h : c <;> simp [h]

/-- The flag set's bits: what was raised, and the four conditions at their numbers (R165). -/
theorem State.getLsbD_flagSet (s : State) (i : Nat) : s.flagSet.getLsbD i = (s.rep.sticky.getLsbD i
    || (!s.rep.notices.isEmpty && decide (i = 0)) || (s.scanPending && decide (i = 5)) || (!s.clk.valid && decide (i = 6))
    || (!s.fpx.attached && decide (i = 9))) := by
  simp only [State.flagSet, State.following, BitVec.getLsbD_or, getLsbD_ite_zero, getLsbD_ite, getLsbD_flagBit, Flag.number,
    Bool.or_assoc, Bool.decide_eq_true]
  rfl

theorem State.sticky_high {s : State} (h : s.StickyLaw) {i : Nat} (hi : 12 ≤ i) : s.rep.sticky.getLsbD i = false := by
  by_cases hlt : i < 16
  · have hbit := congrArg (fun x => x.getLsbD i) (h : s.rep.sticky &&& ~~~0x0D9E = 0)
    simp only [BitVec.getLsbD_and, BitVec.getLsbD_not, hlt, decide_true, Bool.true_and] at hbit
    have hclear : (0x0D9E : BitVec 16).getLsbD i = false := by interval_cases i <;> rfl
    rw [hclear, Bool.not_false, Bool.and_true] at hbit
    exact hbit.trans BitVec.getLsbD_zero
  · exact BitVec.getLsbD_of_ge _ _ (by omega)

/-- A bit that a mask with it shows clear. -/
theorem getLsbD_of_and_zero {x m : BitVec 16} (h : x &&& m = 0) {i : Nat} (hm : m.getLsbD i = true) : x.getLsbD i = false := by
  have hbit := congrArg (fun x => x.getLsbD i) h
  simpa [hm] using hbit

/-- Settles O23: the post by the queue's length, the flags bit by bit. -/
theorem postsAndAttentionFollowTheQueue : Obligations.PostsAndAttentionFollowTheQueue := by
  unfold Obligations.PostsAndAttentionFollowTheQueue
  refine ⟨fun s n => ⟨State.post_below, State.post_full⟩, fun s => ⟨?_, fun i hi => ?_, fun h i hi => ?_, fun h => ?_⟩⟩
  · simp only [State.attn, decide_eq_true_eq, bitVec_ne_zero_iff, BitVec.getLsbD_and, getLsbD_low12, Bool.and_eq_true]
    exact ⟨fun ⟨i, ⟨hf, hm⟩, hlt⟩ => ⟨i, hlt, hf, hm⟩, fun ⟨i, hlt, hf, hm⟩ => ⟨i, ⟨hf, hm⟩, hlt⟩⟩
  · rw [State.getLsbD_flagSet]
    simp only [List.mem_cons, List.not_mem_nil, or_false] at hi
    rcases hi with rfl | rfl | rfl | rfl | rfl | rfl | rfl | rfl <;> simp
  · rw [State.getLsbD_flagSet, State.sticky_high h hi]
    simp [show i ≠ 0 by omega, show i ≠ 5 by omega, show i ≠ 6 by omega, show i ≠ 9 by omega]
  · simp only [State.getLsbD_flagSet, getLsbD_of_and_zero h (i := 0) rfl, getLsbD_of_and_zero h (i := 5) rfl,
      getLsbD_of_and_zero h (i := 6) rfl, getLsbD_of_and_zero h (i := 9) rfl]
    refine ⟨by simp, ?_, by simp, by simp⟩
    simp [State.scanPending, Option.isSome_iff_ne_none]

/-! ### Programs and erases in the window -/

section
variable {s : State} {sel : Selection} {addr : Nat}

theorem State.selectProgram_command (hw : s.inWindow addr = true) (hp : addr % 65536 < 256) (data : List Byte) :
    s.selectProgram sel addr data = (s.cut sel.code).takeCommand (BitVec.ofNat 8 addr) data := by
  unfold State.selectProgram
  rw [if_pos hw]
  exact if_pos hp

theorem State.selectProgram_ignored (hw : s.inWindow addr = true) (hp : 256 ≤ addr % 65536) (data : List Byte) :
    s.selectProgram sel addr data = s.cut sel.code := by
  unfold State.selectProgram
  rw [if_pos hw]
  exact if_neg (Nat.not_lt.2 hp)

/-- A selection that ends inside its address (R151, R152; log 62). -/
theorem State.selectClass_short {e : ClassEntry} (hc : e.cls ∈ [InstrClass.read, .fastRead, .program, .eraseSector, .eraseBlock])
    (ha : sel.addressed = none) : s.selectClass sel e = s.cutShort sel := by
  simp only [List.mem_cons, List.not_mem_nil, or_false] at hc
  unfold State.selectClass
  rcases hc with hc | hc | hc | hc | hc <;> simp only [hc, ha]

end

theorem exec_short {s : State} {code : Byte} {c : InstrClass} {sent : List Byte} (hs : s.Listening) (hc : s.classIs code c)
    (hmem : c ∈ [InstrClass.read, .fastRead, .program, .eraseSector, .eraseBlock]) (hlen : sent.length < 3) (whole : Bool) :
    exec (.otherInstruction code sent whole) s = .next (s.clearPorts.cutShort ⟨code, none, sent, whole, 0, []⟩).disarm := by
  have harm : c ≠ .resetArm := by
    rintro rfl
    simp at hmem
  obtain ⟨e, rfl, h⟩ := exec_addressed (i := .otherInstruction code sent whole) hs rfl hc harm
  have ha : Selection.addressed ⟨code, none, sent, whole, 0, []⟩ = none := by
    match sent, hlen with
    | [], _ => rfl
    | [_], _ => rfl
    | [_, _], _ => rfl
  rw [h, State.selectClass_short hmem ha]

/-- Settles O25: the command's program is the command's row by the parse, the rest by the window's cases. -/
theorem windowProgramsAreCommandsOrIgnored : Obligations.WindowProgramsAreCommandsOrIgnored := by
  unfold Obligations.WindowProgramsAreCommandsOrIgnored
  refine ⟨fun s e c whole h he hentry hbase hlow => ?_, fun s code addr data whole h hw => ⟨fun hc hp => ?_, fun hc => ?_, fun hc => ?_⟩,
    fun s code c sent whole h hc hmem => ⟨fun b b' hsent => ?_, fun hlen => ?_⟩⟩
  · have hcls : e.cls = .program := by simpa using List.find?_some he
    have hc : s.classIs e.code .program := by
      rw [State.classIs, ClassTable.classOf, hentry, ← hcls]
      rfl
    have haddr : (BitVec.ofNat 24 s.rst.inForce.layout.window).toNat = s.rst.inForce.layout.window := by
      rw [BitVec.toNat_ofNat, Nat.mod_eq_of_lt hlow]
    have hoffset : BitVec.ofNat 8 s.rst.inForce.layout.window = 0 := by
      apply BitVec.eq_of_toNat_eq
      rw [BitVec.toNat_ofNat]
      change _ % 2 ^ 8 = 0
      omega
    rw [exec_program h hc, haddr, State.selectProgram_command (by simp [State.inWindow, State.windowBlock])
      (by rw [hbase]; decide), hoffset, State.takeCommand, parseCommand_encode, exec_row_heard h he]
  · rw [exec_program h hc, State.selectProgram_ignored (by exact hw) hp]
    rfl
  · rw [exec_eraseSector h rfl hc, State.selectErase_window (by exact hw)]
    rfl
  · rw [exec_eraseBlock h rfl hc, State.selectErase_window (by exact hw)]
    rfl
  · subst hsent
    rw [exec_short (sent := [b, b']) h hc hmem (Nat.lt_succ_self 2)]
    have hblock : b.toNat * 65536 / 65536 = b.toNat := Nat.mul_div_cancel _ (by decide)
    refine ⟨fun hb => ?_, fun hb => ?_⟩
    · have hin : s.clearPorts.inWindow (b.toNat * Config.blockSize) = true := by
        simp only [State.inWindow, State.windowBlock, Config.blockSize, hblock]
        exact decide_eq_true hb
      simp only [State.cutShort, hin, if_true]
      rfl
    · have hin : s.clearPorts.inWindow (b.toNat * Config.blockSize) = false := by
        simp only [State.inWindow, State.windowBlock, Config.blockSize, hblock]
        exact decide_eq_false hb
      simp only [State.cutShort, hin, Bool.false_eq_true, if_false]
      rfl
  · rw [exec_short h hc hmem (by omega)]
    match sent, hlen with
    | [], _ => rfl
    | [_], _ => rfl

end Sys2Proof.Machine

/-! PROOFS. Reads of the window (8.7, 9.1): what a run of served bytes changes, and the pages byte by byte. -/

namespace Sys2Proof.Machine

/-! ### Bytes of a page -/

/-- A stretch of a page whose bytes are those of a list, FFh past its end. -/
theorem map_getD_eq_append {f : Nat → Byte} {L : List Byte} {n : Nat} (hlen : L.length ≤ n)
    (hf : ∀ i, i < n → f i = L.getD i 0xFF) :
    (List.range n).map f = L ++ List.replicate (n - L.length) 0xFF := by
  refine List.ext_getElem (by simp; omega) fun i h1 _ => ?_
  have hi : i < n := by simpa using h1
  rw [List.getElem_map, List.getElem_range, hf i hi, List.getD_eq_getElem?_getD, List.getElem_append]
  by_cases h : i < L.length
  · simp [h]
  · simp [h]

/-- One place of a page of places: its bytes, or FFh throughout where it is empty. -/
theorem map_placeByte {α : Type} {bytes : α → List Byte} {size : Nat} {xs : List α} (k : Nat)
    (hlen : ∀ x, (bytes x).length ≤ size) :
    (List.range size).map (fun i => placeByte bytes size xs (size * k + i)) =
      (xs[k]?.elim (List.replicate size 0xFF) fun x => bytes x ++ List.replicate (size - (bytes x).length) 0xFF) := by
  have hplace : ∀ i, i < size → (size * k + i) / size = k ∧ (size * k + i) % size = i := fun i hi => by
    have hpos : 0 < size := by omega
    exact ⟨by rw [Nat.mul_add_div hpos, Nat.div_eq_of_lt hi, Nat.add_zero],
      by rw [Nat.mul_add_mod, Nat.mod_eq_of_lt hi]⟩
  cases hx : xs[k]? with
  | none =>
    refine (List.map_congr_left (g := fun _ => 0xFF) fun i hi => ?_).trans (by simp)
    simp only [placeByte, hplace i (List.mem_range.1 hi), hx]
  | some x =>
    refine map_getD_eq_append (hlen x) fun i hi => ?_
    simp only [placeByte, hplace i hi, hx]

/-- A field of a list replaced by one of the same length leaves every other byte. -/
theorem getD_replace {A L L' B : List Byte} (hlen : L'.length = L.length) {i : Nat}
    (h : i < A.length ∨ A.length + L.length ≤ i) (d : Byte) : (A ++ L' ++ B).getD i d = (A ++ L ++ B).getD i d := by
  simp only [List.getD_eq_getElem?_getD, List.append_assoc]
  rcases h with h | h
  · rw [List.getElem?_append_left h, List.getElem?_append_left h]
  · rw [List.getElem?_append_right (by omega), List.getElem?_append_right (by omega),
      List.getElem?_append_right (by omega), List.getElem?_append_right (by omega), hlen]

@[simp] theorem length_optBytes (n : Nat) (v : Option Nat) : (optBytes n v).length = n := by
  cases v <;> simp [optBytes, length_leBytes]

@[simp] theorem length_intBytes (n : Nat) (v : Int) : (intBytes n v).length = n := length_leBytes n _

theorem TunerRec.length_bytes (r : TunerRec) : r.bytes.length = 8 := by
  simp [TunerRec.bytes, length_leBytes]

theorem Notice.length_bytes (n : Notice) : n.bytes.length = 16 := by
  simp [Notice.bytes, length_leBytes]

theorem PlanEntry.length_bytes (e : PlanEntry) : e.bytes.length = 32 := by
  simp [PlanEntry.bytes, length_leBytes]

/-- A clash record's four opponents are four fields (R81). -/
theorem ClashRec.bytes_eq (c : ClashRec) :
    c.bytes = leBytes 4 c.ref ++ leBytes 4 c.wstart ++ leBytes 3 (c.cend - c.wstart) ++ [boolByte c.more]
      ++ optBytes 4 c.opponents[0]? ++ optBytes 4 c.opponents[1]? ++ optBytes 4 c.opponents[2]?
      ++ optBytes 4 c.opponents[3]? ++ leBytes 4 c.generation.toNat := by
  have hfour : (List.range Config.opponentCap).flatMap (fun i => optBytes 4 c.opponents[i]?) =
      optBytes 4 c.opponents[0]? ++ (optBytes 4 c.opponents[1]? ++ (optBytes 4 c.opponents[2]? ++
        (optBytes 4 c.opponents[3]? ++ []))) := rfl
  rw [ClashRec.bytes, hfour]
  simp only [List.append_assoc, List.append_nil]

theorem ClashRec.length_bytes (c : ClashRec) : c.bytes.length = 32 := by
  simp [ClashRec.bytes_eq, length_leBytes]

theorem State.length_header (s : State) : s.header.length = 28 := by
  simp [State.header, length_leBytes]

/-- One place of a page of places that a record fills. -/
theorem map_placeByte_full {α : Type} {bytes : α → List Byte} {size : Nat} {xs : List α} (k : Nat)
    (hlen : ∀ x, (bytes x).length = size) :
    (List.range size).map (fun i => placeByte bytes size xs (size * k + i)) =
      xs[k]?.elim (List.replicate size 0xFF) bytes := by
  rw [map_placeByte k fun x => (hlen x).le]
  cases xs[k]? with
  | none => rfl
  | some x => simp only [Option.elim_some, hlen, Nat.sub_self, List.replicate_zero, List.append_nil]

/-! ### The places of the pages -/

theorem State.noticePlace (s : State) {i : Nat} (hi : i < 32) :
    (List.range 16).map (fun j => s.windowByte (0x0400 + 16 * i + j)) =
      s.rep.notices[i]?.elim (List.replicate 16 0xFF) Notice.bytes := by
  refine (List.map_congr_left fun j hj => ?_).trans (map_placeByte_full i Notice.length_bytes)
  have hj := List.mem_range.1 hj
  have hoff : 0x0400 + 16 * i + j - 0x400 = 16 * i + j := by omega
  rw [State.windowByte, if_neg (by omega), if_neg (by omega), if_neg (by omega), if_pos (by omega), hoff]

theorem State.planPlace (s : State) {i : Nat} (hi : i < 256) :
    (List.range 32).map (fun j => s.windowByte (0x1000 + 32 * i + j)) =
      s.pln.plan.entries[i]?.elim (List.replicate 32 0xFF) PlanEntry.bytes := by
  refine (List.map_congr_left fun j hj => ?_).trans (map_placeByte_full i PlanEntry.length_bytes)
  have hj := List.mem_range.1 hj
  have hoff : 0x1000 + 32 * i + j - 0x1000 = 32 * i + j := by omega
  rw [State.windowByte, if_neg (by omega), if_neg (by omega), if_neg (by omega), if_neg (by omega), if_neg (by omega),
    if_pos (by omega), hoff]

theorem State.clashPlace (s : State) {i : Nat} (hi : i < 128) :
    (List.range 32).map (fun j => s.windowByte (0x3000 + 32 * i + j)) =
      s.pln.plan.clashes[i]?.elim (List.replicate 32 0xFF) ClashRec.bytes := by
  refine (List.map_congr_left fun j hj => ?_).trans (map_placeByte_full i ClashRec.length_bytes)
  have hj := List.mem_range.1 hj
  have hoff : 0x3000 + 32 * i + j - 0x3000 = 32 * i + j := by omega
  rw [State.windowByte, if_neg (by omega), if_neg (by omega), if_neg (by omega), if_neg (by omega), if_neg (by omega),
    if_neg (by omega), if_pos (by omega), hoff]

/-! ### The latch and the toggle -/

/-- The machine with another latch. -/
def State.withLatch (s : State) (l : BitVec 24) : State := { s with rep := { s.rep with latch := l } }

/-- The machine with another toggle. -/
def State.withToggle (s : State) (b : Bool) : State := { s with pln := { s.pln with toggle := b } }

theorem State.header_withLatch (s : State) (l : BitVec 24) {i : Nat} (h : i < 0x0B ∨ 0x0E ≤ i) (d : Byte) :
    (s.withLatch l).header.getD i d = s.header.getD i d := by
  have hsplit : ∀ u : State, u.header =
      ([0x40, 0x02, 0x01, u.pwc.power.byte, boolByte (!u.fpx.attached), boolByte (u.fpx.owner = .k240)]
        ++ leBytes 2 u.flagSet.toNat ++ leBytes 2 u.rep.mask.toNat ++ leBytes 1 u.clk.counter)
      ++ leBytes 3 u.rep.latch.toNat ++ ([boolByte u.clk.valid] ++ intBytes 2 u.clk.trim ++ [u.pln.toggleByte]
        ++ leBytes 4 u.pln.generation.toNat ++ leBytes 1 u.rep.notices.length ++ leBytes 2 u.pln.plan.deferred
        ++ leBytes 2 u.pln.plan.overCount ++ [boolByte u.pln.plan.truncated]) := fun u => by
    simp only [State.header, List.append_assoc]
  rw [hsplit s, hsplit (s.withLatch l)]
  exact getD_replace (by simp only [length_leBytes]) (by simpa [length_leBytes] using h) d

theorem State.header_withToggle (s : State) (b : Bool) {i : Nat} (h : i ≠ 0x11) (d : Byte) :
    (s.withToggle b).header.getD i d = s.header.getD i d := by
  have hsplit : ∀ u : State, u.header =
      ([0x40, 0x02, 0x01, u.pwc.power.byte, boolByte (!u.fpx.attached), boolByte (u.fpx.owner = .k240)]
        ++ leBytes 2 u.flagSet.toNat ++ leBytes 2 u.rep.mask.toNat ++ leBytes 1 u.clk.counter
        ++ leBytes 3 u.rep.latch.toNat ++ [boolByte u.clk.valid] ++ intBytes 2 u.clk.trim)
      ++ [u.pln.toggleByte] ++ (leBytes 4 u.pln.generation.toNat ++ leBytes 1 u.rep.notices.length
        ++ leBytes 2 u.pln.plan.deferred ++ leBytes 2 u.pln.plan.overCount ++ [boolByte u.pln.plan.truncated]) := fun u => by
    simp only [State.header, List.append_assoc]
  rw [hsplit s, hsplit (s.withToggle b)]
  refine getD_replace (L := [s.pln.toggleByte]) (L' := [(s.withToggle b).pln.toggleByte]) rfl ?_ d
  simp only [List.length_append, length_leBytes, length_intBytes, List.length_cons, List.length_nil]
  omega

/-- A window byte outside the latch's three is the same under every latch. -/
theorem State.windowByte_withLatch (s : State) (l : BitVec 24) {off : Nat}
    (h : (off < 0x10B ∨ 0x10E ≤ off) ∨ l = s.rep.latch) : (s.withLatch l).windowByte off = s.windowByte off := by
  rcases h with h | rfl
  · unfold State.windowByte
    by_cases h1 : off < 0x100
    · rw [if_pos h1, if_pos h1]
      rfl
    by_cases h2 : off < 0x200
    · rw [if_neg h1, if_neg h1, if_pos h2, if_pos h2]
      exact s.header_withLatch l (by omega) _
    · rw [if_neg h1, if_neg h1, if_neg h2, if_neg h2]
      rfl
  · rfl

/-- A window byte other than the toggle is the same under every toggle. -/
theorem State.windowByte_withToggle (s : State) (b : Bool) {off : Nat} (h : off ≠ 0x111 ∨ b = s.pln.toggle) :
    (s.withToggle b).windowByte off = s.windowByte off := by
  rcases h with h | rfl
  · unfold State.windowByte
    by_cases h1 : off < 0x100
    · rw [if_pos h1, if_pos h1]
      rfl
    by_cases h2 : off < 0x200
    · rw [if_neg h1, if_neg h1, if_pos h2, if_pos h2]
      exact s.header_withToggle b (by omega) _
    · rw [if_neg h1, if_neg h1, if_neg h2, if_neg h2]
      rfl
  · rfl

/-! ### A run of served bytes -/

theorem State.passedOver_eq (s : State) (off n : Nat) :
    s.passedOver off n =
      (s.withLatch (if off ≤ 0x10A ∧ 0x10A < off + n then BitVec.ofNat 24 (s.clk.counter / 256) else s.rep.latch)).withToggle
        (if off ≤ 0x111 ∧ 0x111 < off + n ∧ s.pln.snapshot.isSome = true then !s.pln.toggle else s.pln.toggle) := rfl

/-- What follows a served byte does not change it. -/
theorem State.windowByte_passedOver_before (s : State) {x off n : Nat} (h : x < off) :
    (s.passedOver off n).windowByte x = s.windowByte x := by
  rw [State.passedOver_eq]
  refine (State.windowByte_withToggle _ _ ?_).trans (State.windowByte_withLatch _ _ ?_)
  · by_cases ht : x = 0x111
    · exact .inr (if_neg fun hp => by omega)
    · exact .inl ht
  · by_cases hc : off ≤ 0x10A
    · exact .inl (.inl (by omega))
    · exact .inr (if_neg fun hp => hc hp.1)

/-- The first byte's change, then the others', are the run's. -/
theorem State.passedOver_succ (s : State) (off n : Nat) :
    (s.served off).passedOver (off + 1) n = s.passedOver off (n + 1) := by
  rw [State.passedOver_eq, State.passedOver_eq]
  by_cases hc : off = 0x10A
  · have hserved : s.served off = s.loadLatch := if_pos hc
    have hlater : ¬ (off + 1 ≤ 0x10A ∧ 0x10A < off + 1 + n) := by omega
    have hnow : off ≤ 0x10A ∧ 0x10A < off + (n + 1) := by omega
    have htoggle : (off + 1 ≤ 0x111 ∧ 0x111 < off + 1 + n ∧ s.pln.snapshot.isSome = true) ↔
        (off ≤ 0x111 ∧ 0x111 < off + (n + 1) ∧ s.pln.snapshot.isSome = true) :=
      and_congr (by omega) (and_congr (by omega) Iff.rfl)
    have hpln : s.loadLatch.pln = s.pln := rfl
    rw [hserved, if_neg hlater, if_pos hnow, hpln]
    simp only [htoggle]
    rfl
  have hlatch : (off + 1 ≤ 0x10A ∧ 0x10A < off + 1 + n) ↔ (off ≤ 0x10A ∧ 0x10A < off + (n + 1)) := by omega
  by_cases ht : off = 0x111
  · have hserved : s.served off = s.flipToggle := (if_neg hc).trans (if_pos ht)
    have hlater : ¬ (off + 1 ≤ 0x111 ∧ 0x111 < off + 1 + n ∧ s.flipToggle.pln.snapshot.isSome = true) := by omega
    rw [hserved, if_neg hlater]
    simp only [hlatch]
    by_cases hr : s.pln.snapshot.isSome = true
    · have hnow : off ≤ 0x111 ∧ 0x111 < off + (n + 1) ∧ s.pln.snapshot.isSome = true := ⟨by omega, by omega, hr⟩
      rw [if_pos hnow, State.flipToggle, if_pos hr]
      rfl
    · have hnow : ¬ (off ≤ 0x111 ∧ 0x111 < off + (n + 1) ∧ s.pln.snapshot.isSome = true) := fun h => hr h.2.2
      rw [if_neg hnow, State.flipToggle, if_neg hr]
  · have hserved : s.served off = s := (if_neg hc).trans (if_neg ht)
    have htoggle : (off + 1 ≤ 0x111 ∧ 0x111 < off + 1 + n ∧ s.pln.snapshot.isSome = true) ↔
        (off ≤ 0x111 ∧ 0x111 < off + (n + 1) ∧ s.pln.snapshot.isSome = true) :=
      and_congr (by omega) (and_congr (by omega) Iff.rfl)
    rw [hserved]
    simp only [hlatch, htoggle]

/-- A run of served bytes: each as it stands after all of it has been passed over (R159 to R161). -/
theorem State.serve_run (s : State) (off n : Nat) :
    s.serve off n = ((List.range n).map fun i => some ((s.passedOver off n).windowByte (off + i)), s.passedOver off n) := by
  induction n generalizing s off with
  | zero =>
    have hnone : s.passedOver off 0 = s := by
      rw [State.passedOver_eq, if_neg (by omega), if_neg (by omega)]
      rfl
    rw [hnone]
    rfl
  | succ n ih =>
    have hfirst := State.windowByte_passedOver_before (s.served off) (n := n) (Nat.lt_succ_self off)
    rw [State.serve, ih, State.passedOver_succ, List.range_succ_eq_map, List.map_cons, List.map_map, Nat.add_zero]
    rw [State.passedOver_succ] at hfirst
    rw [← hfirst]
    refine Prod.ext (congrArg (List.cons _) (List.map_congr_left fun i _ => ?_)) rfl
    simp only [Function.comp_apply, Nat.succ_eq_add_one, Nat.add_comm, Nat.add_left_comm]

/-! ### The rows -/

section
variable {s : State} {code : Byte} {addr : FlashAddr} {n : Nat}

/-- A heard READ or FAST_READ. -/
theorem exec_read (hs : s.Listening) (hc : s.classIs code .read ∨ s.classIs code .fastRead) :
    exec (.read code addr n) s =
      .next (s.clearPorts.readFlash ⟨code, some addr, [], true, n, []⟩ addr.toNat n).disarm := by
  have hcount : ∀ e, (⟨code, some addr, [], true, n, []⟩ : Selection).readCount e [] = n := fun e => by
    simp [Selection.readCount]
  rcases hc with hc | hc
  · obtain ⟨e, he, h⟩ := exec_addressed (i := .read code addr n) hs rfl hc nofun
    rw [h]
    simp only [State.selectClass, he, Selection.addressed, hcount]
  · obtain ⟨e, he, h⟩ := exec_addressed (i := .read code addr n) hs rfl hc nofun
    rw [h]
    simp only [State.selectClass, he, Selection.addressed, hcount]

/-- A heard read in the window. -/
theorem exec_read_window (hs : s.Listening) (hc : s.classIs code .read ∨ s.classIs code .fastRead)
    (hw : s.inWindow addr.toNat = true) :
    exec (.read code addr n) s = .next
      { s.passedOver (addr.toNat % 65536) n with
        ports := ⟨(List.range n).map fun i =>
          some ((s.passedOver (addr.toNat % 65536) n).windowByte (addr.toNat % 65536 + i)), [.cut code]⟩
        fpx := { s.fpx with resetArm := false } } := by
  have hw' : s.clearPorts.inWindow addr.toNat = true := hw
  rw [exec_read hs hc, State.readFlash, if_pos hw', State.serve_run]
  rfl

/-- A heard read that begins outside the window. -/
theorem exec_read_outside (hs : s.Listening) (hc : s.classIs code .read ∨ s.classIs code .fastRead)
    (hw : s.inWindow addr.toNat = false) {d k : Nat} (hd : d = min n (s.beforeWindow addr.toNat)) (hk : n = d + k) :
    exec (.read code addr n) s = .next ((s.passedOver 0 k).passed code
      (List.replicate d none ++ (List.range k).map fun i => some ((s.passedOver 0 k).windowByte i))) := by
  have hw' : ¬ s.clearPorts.inWindow addr.toNat = true := by
    rw [show s.clearPorts.inWindow addr.toNat = false from hw]
    nofun
  have hd' : min n (s.clearPorts.beforeWindow addr.toNat) = d := hd.symm
  have hrest : n - d = k := by omega
  rw [exec_read hs hc, State.readFlash, if_neg hw', hd']
  dsimp only
  rw [hrest, State.serve_run]
  simp only [Nat.zero_add]
  rfl

end

/-! ### The obligations -/

/-- Settles O20: a read by the run of served bytes; the pages field by field from the lengths of their records. -/
theorem windowReadServesLiveState : Obligations.WindowReadServesLiveState := by
  unfold Obligations.WindowReadServesLiveState
  refine ⟨fun s code addr n hs hc hw => ?_, fun s => ⟨?_, ?_, ?_, fun i hi => ?_, fun i hi => ?_, fun i hi => ?_, fun off hoff => ?_⟩⟩
  · have hbytes : ∀ i, (if addr.toNat % 65536 + i < 65536 then
        (s.passedOver (addr.toNat % 65536) n).windowByte (addr.toNat % 65536 + i) else 0xFF) =
        (s.passedOver (addr.toNat % 65536) n).windowByte (addr.toNat % 65536 + i) := fun i => by
      split
      · rfl
      · exact (State.windowByte_above _ (by omega)).symm
    simp only [hbytes]
    exact exec_read_window hs hc hw
  · have hlen : s.rep.commandPage.length = 3 := rfl
    refine map_getD_eq_append (L := s.rep.commandPage) (by rw [hlen]; decide) fun i hi => ?_
    rw [Nat.zero_add, State.windowByte, if_pos hi]
  · have hlen := s.length_header
    refine (map_getD_eq_append (L := s.header) (by omega) fun i hi => ?_).trans (by rw [hlen]; rfl)
    rw [State.windowByte, if_neg (by omega), if_pos (by omega), Nat.add_sub_cancel_left]
  · have hplace : ∀ k, k < 2 → (List.range 16).map (fun i => s.windowByte (0x0200 + (16 * k + i))) =
        (List.range 16).map fun i => placeByte TunerRec.bytes 16 [s.tun.a, s.tun.b] (16 * k + i) := fun k hk =>
      List.map_congr_left fun i hi => by
        have := List.mem_range.1 hi
        rw [State.windowByte, if_neg (by omega), if_neg (by omega), if_pos (by omega), Nat.add_sub_cancel_left]
    have hbytes := fun k => map_placeByte (bytes := TunerRec.bytes) (size := 16) (xs := [s.tun.a, s.tun.b]) k fun r => by
      rw [r.length_bytes]; decide
    have hrange : (List.range 0x20).map (fun i => s.windowByte (0x0200 + i)) =
        (List.range 16).map (fun i => s.windowByte (0x0200 + (16 * 0 + i))) ++
          (List.range 16).map (fun i => s.windowByte (0x0200 + (16 * 1 + i))) := rfl
    refine hrange.trans ?_
    rw [hplace 0 (by decide), hplace 1 (by decide), hbytes, hbytes]
    have ha := s.tun.a.length_bytes
    have hb := s.tun.b.length_bytes
    simp only [List.getElem?_cons_zero, List.getElem?_cons_succ, Option.elim_some, ha, hb]
    rfl
  · refine (s.noticePlace hi).trans ?_
    cases s.rep.notices[i]? <;> rfl
  · refine (s.planPlace hi).trans ?_
    cases s.pln.plan.entries[i]? <;> rfl
  · refine (s.clashPlace hi).trans ?_
    cases s.pln.plan.clashes[i]? with
    | none => rfl
    | some c => exact c.bytes_eq
  · rcases hoff with hoff | hoff | hoff
    · rw [State.windowByte, if_neg (by omega), if_neg (by omega), if_pos (by omega), placeByte]
      have : [s.tun.a, s.tun.b][(off - 0x200) / 16]? = none := List.getElem?_eq_none (by simp; omega)
      rw [this]
    · rw [State.windowByte, if_neg (by omega), if_neg (by omega), if_neg (by omega), if_neg (by omega), if_pos (by omega)]
    · exact s.windowByte_above hoff

/-- The latch's bytes are the counter's upper three (R160). -/
theorem byteOf_latch (v : Nat) {i : Nat} (h : i < 3) : byteOf (BitVec.ofNat 24 (v / 256)).toNat i = byteOf v (i + 1) := by
  refine BitVec.eq_of_toNat_eq ?_
  simp only [byteOf, BitVec.toNat_ofNat, Nat.shiftRight_eq_div_pow]
  interval_cases i <;> omega

/-- The counter and the latch are one field of four bytes of the header (R160). -/
theorem State.header_clock (s : State) {i : Nat} (h : i < 4) (d : Byte) :
    s.header.getD (10 + i) d = (leBytes 1 s.clk.counter ++ leBytes 3 s.rep.latch.toNat).getD i d := by
  have hsplit : s.header =
      ([0x40, 0x02, 0x01, s.pwc.power.byte, boolByte (!s.fpx.attached), boolByte (s.fpx.owner = .k240)]
        ++ leBytes 2 s.flagSet.toNat ++ leBytes 2 s.rep.mask.toNat)
      ++ ((leBytes 1 s.clk.counter ++ leBytes 3 s.rep.latch.toNat) ++ ([boolByte s.clk.valid] ++ intBytes 2 s.clk.trim
        ++ [s.pln.toggleByte] ++ leBytes 4 s.pln.generation.toNat ++ leBytes 1 s.rep.notices.length
        ++ leBytes 2 s.pln.plan.deferred ++ leBytes 2 s.pln.plan.overCount ++ [boolByte s.pln.plan.truncated])) := by
    simp only [State.header, List.append_assoc]
  simp only [hsplit, List.getD_eq_getElem?_getD]
  rw [List.getElem?_append_right (by simp [length_leBytes]),
    List.getElem?_append_left (by simp [length_leBytes]; omega)]
  congr 2
  simp [length_leBytes]

/-- The four bytes of the counter, as one read serves them. -/
theorem State.clockBytes (s : State) :
    (List.range 4).map (fun i => (s.passedOver 0x10A 4).windowByte (0x10A + i)) = leBytes 4 s.clk.counter := by
  refine List.map_congr_left fun i hi => ?_
  have hi := List.mem_range.1 hi
  have hoff : 0x10A + i - 0x100 = 10 + i := by omega
  have hlatch : (s.passedOver 0x10A 4).rep.latch = BitVec.ofNat 24 (s.clk.counter / 256) := rfl
  have hcount : (s.passedOver 0x10A 4).clk = s.clk := rfl
  rw [State.windowByte, if_neg (by omega), if_pos (by omega), hoff, State.header_clock _ hi, hlatch, hcount]
  cases i with
  | zero => rfl
  | succ i =>
    have hi' : i < 3 := by omega
    rw [← byteOf_latch _ hi']
    interval_cases i <;> rfl

/-- A heard byte served by itself. -/
theorem serveAlone_heard {s : State} (hs : s.Listening) (off : Nat) :
    s.powered (fun s => s.serveAlone off) =
      { s.passedOver off 1 with
        ports := ⟨[some ((s.passedOver off 1).windowByte off)], []⟩
        fpx := { s.fpx with resetArm := false } } := by
  obtain ⟨hvdd, howner, hatt⟩ := hs
  have hheard : s.clearPorts.fpx.owner = .soc ∧ s.clearPorts.fpx.attached = true := ⟨howner, hatt⟩
  rw [State.powered_of_vdd hvdd, State.serveAlone, if_pos hheard, State.serve_run]
  rfl

/-- Settles O21: four bytes of the header from the counter's low byte on, and the served bytes by themselves. -/
theorem clockLatchAndToggleReads : Obligations.ClockLatchAndToggleReads := by
  unfold Obligations.ClockLatchAndToggleReads
  refine ⟨fun s code addr hs => ⟨fun hc hw ha => ?_, ?_⟩, fun s hs => ?_⟩
  · rw [exec_read_window hs hc hw, ha, ← s.clockBytes, List.map_map]
    rfl
  · exact congrArg _ (serveAlone_heard hs 0x10A)
  · refine (congrArg _ (serveAlone_heard hs 0x111)).trans ?_
    by_cases hr : s.pln.snapshot.isSome = true
    · simp only [hr, if_true]
      have : s.passedOver 0x111 1 = s.withToggle (!s.pln.toggle) := by
        rw [State.passedOver_eq, if_neg (by decide), if_pos ⟨by decide, by decide, hr⟩]
        rfl
      rw [this]
      rfl
    · have : s.passedOver 0x111 1 = s := by
        rw [State.passedOver_eq, if_neg (by decide), if_neg fun h => hr h.2.2]
        rfl
      simp only [hr, this]
      rfl

/-- Settles O22: what is driven by the flash, then the window from its first byte on. -/
theorem outsideReadPassesToTheFlash : Obligations.OutsideReadPassesToTheFlash := by
  unfold Obligations.OutsideReadPassesToTheFlash
  intro s code addr n hs hc hw
  refine ⟨fun hn => ?_, fun k hk => exec_read_outside hs hc hw (by omega) hk⟩
  have hnone : s.passedOver 0 0 = s := rfl
  have h := exec_read_outside (d := n) (k := 0) hs hc hw (by omega) rfl
  rw [hnone] at h
  exact h.trans (by simp)

end Sys2Proof.Machine

/-! PROOFS. While the K240 owns the path only its own instructions reach the flash (8.9, law 10). -/

namespace Sys2Proof.Machine

/-- Every instruction on the flash port is one of the K240's own. -/
def State.OwnPort (s : State) : Prop := ∀ op ∈ s.ports.flash, ∀ code, op ≠ .forward code ∧ op ≠ .cut code

theorem State.OwnPort.of_ports {s t : State} (h : s.OwnPort) (hp : t.ports = s.ports) : t.OwnPort := by
  rw [State.OwnPort, hp]
  exact h

theorem State.ownPort_empty {s : State} (h : s.ports.flash = []) : s.OwnPort := by
  rw [State.OwnPort, h]
  nofun

theorem State.OwnPort.sends {s t : State} (h : s.OwnPort) {code : Byte} {addr : Option Nat} {dummy width : Nat}
    (hp : t.ports.flash = s.ports.flash ++ [.own code addr dummy width]) : t.OwnPort := by
  intro op hop other
  rw [hp, List.mem_append, List.mem_singleton] at hop
  rcases hop with hop | rfl
  · exact h op hop other
  · exact ⟨nofun, nofun⟩

/-! ### What leaves the port alone -/

theorem ports_ite {s a b : State} {c : Prop} [Decidable c] (ha : a.ports = s.ports) (hb : b.ports = s.ports) :
    (if c then a else b).ports = s.ports := by
  split
  · exact ha
  · exact hb

theorem State.reloadWake_portsKept (s : State) : s.reloadWake.ports = s.ports := by
  obtain ⟨tg, c, -, ht⟩ := s.reloadWake_cases
  rw [ht]

theorem State.endLend_portsKept (s : State) (why : LendEnd) : (s.endLend why).ports = s.ports := by
  cases hl : s.fpx.lend with
  | none => rw [State.endLend, hl]
  | some l =>
    rw [State.endLend_eq hl]
    exact State.post_ports _ _

theorem State.endStartUp_portsKept (s : State) : s.endStartUp.ports = s.ports := by
  have hend (u : State) (d : Int) (r : Nat) (a : Int) :
      ((u.postNow .startupDone none d r a).raise .startupDone).ports = u.ports := State.postNow_ports _ _ _ _ _ _
  unfold State.endStartUp
  by_cases hp : s.pins.pwrgood = true
  · simp only [hp, if_true]
    exact hend _ _ _ _
  · simp only [hp, Bool.false_eq_true, if_false]
    exact (State.reloadWake_portsKept _).trans (hend _ _ _ _)

theorem State.afterWork_portsKept (s : State) : s.afterWork.ports = s.ports := by
  rcases s.afterWork_cases with ht | ⟨-, -, ht⟩ | ⟨l, -, -, ⟨-, ht⟩ | ⟨-, -, ht⟩⟩ | ⟨-, -, ht⟩ <;> rw [ht]
  · exact s.endStartUp_portsKept
  · exact s.endLend_portsKept _
  · exact s.endLend_portsKept _
  · rfl

theorem State.finishPublish_portsKept (s : State) : s.finishPublish.ports = s.ports := by
  have hreplan := (State.startReplan_calm (s := { s with pln := { s.pln with snapshot := none } }) rfl).rework.ports
  exact ports_ite (ports_ite hreplan rfl) rfl

theorem State.publish_portsKept (s : State) : s.publish.ports = s.ports := by
  have hreplaced (p : Plan) : (s.replacePlan p).ports = s.ports := ports_ite (State.postNow_ports _ _ _ _ _ _) rfl
  unfold State.publish
  split
  · rfl
  · exact ((((State.finishPublish_portsKept _).trans (State.reloadWake_portsKept _)).trans
      (State.reloadWarn_calm _).rework.ports).trans (State.reconcile_calm State.trigger_calm _).rework.ports).trans (hreplaced _)

theorem State.statusResponse_portsKept (s : State) (b : Byte) : (s.statusResponse b).ports = s.ports := by
  unfold State.statusResponse
  split <;> rfl

theorem State.replaceSector_portsKept (s : State) (sector : Nat) (data : List Byte) :
    (s.replaceSector sector data).ports = s.ports := by
  unfold State.replaceSector
  simp only
  split
  · rfl
  · split <;> rfl

theorem State.mirrorVerify_portsKept (s : State) (sector : Nat) (data : List Byte) :
    (s.mirrorVerify State.trigger sector data).ports = s.ports := by
  have hcorrected : State.ports (if (s.replaceSector sector data).rst.anchor ≠ s.rst.anchor
        ∨ (s.replaceSector sector data).rst.schedule ≠ s.rst.schedule then
      (s.replaceSector sector data).postNow .mirrorCorrected none (if sector = s.anchorBase then 1 else 2) sector 0
      else s.replaceSector sector data) = s.ports :=
    ports_ite ((State.postNow_ports _ _ _ _ _ _).trans (s.replaceSector_portsKept _ _)) (s.replaceSector_portsKept _ _)
  have hupdate (u : State) : (u.storeUpdate State.trigger).ports = u.ports := (State.storeUpdate_rework State.trigger_calm u).ports
  unfold State.mirrorVerify
  refine ports_ite ((hupdate _).trans (Eq.trans ?_ hcorrected)) ((hupdate _).trans hcorrected)
  exact (rfl : State.ports (State.adopt _) = State.ports (State.resolveAnchor _)).trans (State.resolveAnchor_rework _).ports

section
variable {s : State} (h : s.OwnPort)
include h

theorem State.OwnPort.calm {t : State} (k : Calm s t) : t.OwnPort := h.of_ports k.rework.ports

theorem State.OwnPort.rework {t : State} (k : Rework s t) : t.OwnPort := h.of_ports k.ports

/-! ### The power controller -/

theorem State.OwnPort.dormantTest : s.dormantTest.OwnPort := by
  rcases s.dormantTest_cases with ht | ⟨-, ht⟩ | ⟨_, _, -, -, ht⟩ <;> rw [ht]
  · exact h
  · exact h.of_ports rfl
  · exact h.sends rfl

theorem State.OwnPort.dormantReturn : s.dormantReturn.OwnPort := by
  rcases s.dormantReturn_cases with ⟨-, ht⟩ | ⟨-, -, ht⟩ | ⟨_, -, -, ht⟩ <;> rw [ht]
  · exact h
  · exact h.of_ports rfl
  · exact h.sends rfl

theorem State.OwnPort.enterStandby : s.enterStandby.OwnPort := by
  refine State.OwnPort.dormantTest (h.of_ports ((State.reloadWake_portsKept _).trans ?_))
  exact ports_ite (State.endLend_portsKept s .standby) rfl

theorem State.OwnPort.startHandBack : s.startHandBack.OwnPort := by
  unfold State.startHandBack
  split <;> exact h.of_ports rfl

theorem State.OwnPort.pwrgoodUp : s.pwrgoodUp.OwnPort := by
  have hpins : State.OwnPort { s with pins := { s.pins with pwrgood := true } } := h.of_ports rfl
  unfold State.pwrgoodUp
  split
  · exact h
  · simp only
    split
    · exact hpins
    · exact hpins
    · exact State.OwnPort.startHandBack (hpins.dormantReturn.of_ports rfl)

theorem State.OwnPort.pwrgoodDown : s.pwrgoodDown.OwnPort := by
  have hpins : State.OwnPort { s with pins := { s.pins with pwrgood := false } } := h.of_ports rfl
  unfold State.pwrgoodDown
  split
  · simp only
    split
    · exact hpins.enterStandby
    · exact hpins
  · exact h

theorem State.OwnPort.wakeFired (e : CompareEvent) : (s.wakeFired e).OwnPort := by
  unfold State.wakeFired
  split
  · exact h.of_ports s.reloadWake_portsKept
  · exact h.of_ports (ports_ite ((State.reloadWake_portsKept _).trans (State.post_ports _ _)) (State.reloadWake_portsKept _))

theorem State.OwnPort.wakeExpired : s.wakeExpired.OwnPort := by
  unfold State.wakeExpired
  split
  · exact h
  · exact h.of_ports (ports_ite (State.postNow_ports _ _ _ _ _ _) rfl)

/-! ### The clock, the events and the planner -/

theorem State.OwnPort.trigger : s.trigger.OwnPort := h.calm s.trigger_calm

theorem State.OwnPort.takeEvent {c : Channel} {act : CompareEvent → State → State}
    (hact : ∀ e u, State.OwnPort u → (act e u).OwnPort) : (s.takeEvent c act).OwnPort := by
  unfold State.takeEvent
  split
  · exact h
  · exact hact _ _ (h.of_ports rfl)

theorem State.OwnPort.advanceCounter : s.advanceCounter.OwnPort := by
  have hadvanced : State.OwnPort { s with clk := s.clk.advance } := h.of_ports rfl
  unfold State.advanceCounter
  split
  · unfold State.advancePowered
    simp only
    split
    · exact hadvanced.of_ports (State.postNow_ports _ _ _ _ _ _)
    · have hchecked := hadvanced.calm (State.checkChannels_calm _)
      split
      · refine State.OwnPort.dormantTest ?_
        split
        · exact hchecked.dormantReturn.trigger
        · exact hchecked.dormantReturn
      · exact hchecked
  · exact hadvanced

/-! ### The scan engine -/

theorem State.OwnPort.pollFlash : s.pollFlash.OwnPort := by
  have hsent : State.OwnPort (match s.fpx.classTable.ownOf .readStatus with
      | some e => s.flashPort (.own e.code none e.dummy 1)
      | none => s) := by
    split
    · exact h.sends rfl
    · exact h
  unfold State.pollFlash
  simp only
  split
  · exact hsent
  · exact hsent.of_ports rfl

theorem State.OwnPort.beginRead (x : Nat) (p : Purpose) : (s.beginRead x p).OwnPort := by
  unfold State.beginRead
  simp only
  split
  · exact h.sends rfl
  · exact h.of_ports rfl

theorem State.OwnPort.busyTimeout : s.busyTimeout.OwnPort := by
  unfold State.busyTimeout
  split
  · refine State.OwnPort.beginRead ?_ _ _
    exact h.of_ports rfl
  · exact h

theorem State.OwnPort.wakeForRead : s.wakeForRead.OwnPort := by
  unfold State.wakeForRead
  split
  · exact h.sends rfl
  · exact h

theorem State.OwnPort.finishSector {p : Purpose} {act : Nat → State → State} (hact : ∀ x u, (act x u).ports = u.ports) :
    (s.finishSector p act).OwnPort := by
  unfold State.finishSector
  split
  · split
    · exact State.OwnPort.dormantTest (h.of_ports ((State.afterWork_portsKept _).trans (hact _ _)))
    · exact h
  · exact h

theorem State.OwnPort.expireWrite : s.expireWrite.OwnPort := by
  unfold State.expireWrite
  split
  · exact State.OwnPort.dormantTest (h.of_ports (State.joinSectors_rework _ _).ports)
  · exact h

theorem State.OwnPort.expireLend : s.expireLend.OwnPort := by
  unfold State.expireLend
  split
  · exact h.of_ports rfl
  · exact h.of_ports (State.endLend_portsKept _ _)
  · exact h

end

theorem State.OwnPort.pollFor {s : State} (h : s.OwnPort) (x : Nat) (p : Purpose) (responses : List Byte) :
    (s.pollFor x p responses).OwnPort := by
  induction responses generalizing s with
  | nil => exact h.of_ports rfl
  | cons b rest ih =>
    have hpolled := h.pollFlash.of_ports (State.statusResponse_portsKept _ b)
    rw [State.pollFor]
    split
    · exact hpolled.beginRead x p
    · exact ih hpolled

theorem State.OwnPort.pollWrite {s : State} (h : s.OwnPort) (responses : List Byte) : (s.pollWrite responses).OwnPort := by
  induction responses generalizing s with
  | nil => exact h
  | cons b rest ih =>
    have hpolled := h.pollFlash.of_ports (State.statusResponse_portsKept _ b)
    rw [State.pollWrite]
    split
    · exact hpolled
    · exact ih hpolled

theorem State.OwnPort.startSector {s : State} (h : s.OwnPort) (responses : List Byte) : (s.startSector responses).OwnPort := by
  unfold State.startSector
  split
  · split
    · split
      · exact h.wakeForRead.pollFor _ _ _
      · exact h
    · exact h.pollFor _ _ _
    · exact h
  · exact h

theorem State.OwnPort.standbyPoll {s : State} (h : s.OwnPort) (responses : List Byte) : (s.standbyPoll responses).OwnPort := by
  unfold State.standbyPoll
  split
  · exact (h.pollWrite responses).dormantTest
  · exact h

/-! ### The rows -/

theorem State.ownPort_powered {s : State} {act : State → State} (hact : ∀ u, State.OwnPort u → (act u).OwnPort) :
    (s.powered act).OwnPort := by
  unfold State.powered
  split
  · exact hact _ (State.ownPort_empty rfl)
  · exact State.ownPort_empty rfl

theorem startupOps_own {s : State} {note : Option Byte} (h : s.ports.flash = startupOps note) : s.OwnPort := by
  intro op hop code
  rw [h] at hop
  cases note with
  | none =>
    obtain rfl := List.mem_singleton.1 hop
    exact ⟨nofun, nofun⟩
  | some c =>
    rcases List.mem_pair.1 hop with rfl | rfl
    · exact ⟨nofun, nofun⟩
    · exact ⟨nofun, nofun⟩

/-- A row that is no selection of the SoC's sends the flash the K240's instructions only. -/
theorem exec_ownPort {i : Instr} {s t : State} (hsel : selectionOf i = none) (hrow : i.command = none)
    (hserved : i ≠ .clockLatchRead ∧ i ≠ .replanToggleRead) (hinvalid : ∀ offset sent, i ≠ .invalidCommand offset sent)
    (hexec : exec i s = .next t) : t.OwnPort := by
  have hempty : s.clearPorts.OwnPort := State.ownPort_empty rfl
  cases i with
  | coldReset =>
    cases hexec
    exact startupOps_own (note := none) rfl
  | warmReset =>
    cases hexec
    exact startupOps_own (note := s.pwc.sleepNote) rfl
  | vddFall =>
    cases hexec
    exact State.ownPort_powered fun u hu => hu.of_ports rfl
  | pwrgoodRise =>
    cases hexec
    split
    · exact hempty.pwrgoodUp.dormantTest
    · exact hempty.of_ports rfl
  | pwrgoodFall =>
    cases hexec
    split
    · exact hempty.pwrgoodDown
    · exact hempty.of_ports rfl
  | counterAdvance =>
    cases hexec
    exact hempty.advanceCounter
  | clockLatchRead => exact absurd rfl hserved.1
  | replanToggleRead => exact absurd rfl hserved.2
  | invalidCommand offset sent => exact absurd rfl (hinvalid offset sent)
  | writeDeadlineExpiry =>
    cases hexec
    exact State.ownPort_powered fun u hu => hu.expireWrite
  | startEvent T =>
    cases hexec
    exact State.ownPort_powered fun u hu =>
      (hu.takeEvent fun e u hu => hu.calm (State.startDue_calm State.trigger_calm T e.time u)).dormantTest
  | stopEvent T =>
    cases hexec
    exact State.ownPort_powered fun u hu =>
      (hu.takeEvent fun e u hu => hu.calm (State.stopDue_calm State.trigger_calm T e.time u)).dormantTest
  | confirmEvent =>
    cases hexec
    exact State.ownPort_powered fun u hu =>
      (hu.takeEvent fun e u hu => hu.calm (State.confirmDue_calm State.trigger_calm e.time u)).dormantTest
  | warnEvent =>
    cases hexec
    exact State.ownPort_powered fun u hu => (hu.takeEvent fun e u hu => hu.calm (State.warnDue_calm e.time u)).dormantTest
  | wakeEvent =>
    cases hexec
    exact State.ownPort_powered fun u hu => (hu.takeEvent fun e u hu => hu.wakeFired e).dormantTest
  | replanPublish =>
    cases hexec
    exact State.ownPort_powered fun u hu => State.OwnPort.dormantTest (hu.of_ports u.publish_portsKept)
  | sectorReadStart responses =>
    cases hexec
    exact State.ownPort_powered fun u hu => hu.startSector responses
  | busyWaitTimeout =>
    cases hexec
    exact State.ownPort_powered fun u hu => hu.busyTimeout
  | mirrorSectorVerify data =>
    cases hexec
    exact State.ownPort_powered fun u hu =>
      hu.finishSector fun x u => u.mirrorVerify_portsKept x (sectorData data)
  | guideSectorVerify data =>
    cases hexec
    exact State.ownPort_powered fun u hu =>
      hu.finishSector fun x u => (State.guideVerify_rework State.trigger_calm x (sectorData data) u).ports
  | guideSectorScan data =>
    cases hexec
    exact State.ownPort_powered fun u hu =>
      hu.finishSector fun x u => (State.guideScan_rework State.trigger_calm x (sectorData data) u).ports
  | lendExpiry =>
    cases hexec
    exact State.ownPort_powered fun u hu => hu.expireLend
  | wakeDeadlineExpiry =>
    cases hexec
    exact State.ownPort_powered fun u hu => hu.wakeExpired.dormantTest
  | standbyStatusPoll responses =>
    cases hexec
    exact State.ownPort_powered fun u hu => hu.standbyPoll responses
  | read | program | eraseSector | eraseBlock | eraseChip | writeStatus | readStatus | writeEnable | writeDisable | suspend
  | resume | resetArm | flashReset | powerDown | release | detaching | otherInstruction => cases hsel
  | ackNotices | clearFlags | setAttnMask | setTime | confirmStart | reportFailure | view | viewEnd | keepViewing | lend
  | standby | replan | guardAnchor | rescan => cases hrow

theorem row_of_command {i : Instr} {c : Command} (h : i.command = some c) : i = c.row := by
  cases i <;> first | (cases h; rfl) | cases h

/-- Settles O11: the SoC's selections are dropped, and every other row sends only the K240's own instructions. -/
theorem ownedPathCarriesNoSocInstruction : Obligations.OwnedPathCarriesNoSocInstruction := by
  unfold Obligations.OwnedPathCarriesNoSocInstruction
  intro i s t ho hv hexec
  change t.OwnPort
  obtain ⟨hsels, hheard, hunheard, hlatch, htoggle⟩ := selectionsDroppedWhileOwned s hv ho
  have answered {u : State} (hu : exec i s = .next u) (hempty : u.ports.flash = []) : t.OwnPort := by
    cases hu.symm.trans hexec
    exact State.ownPort_empty hempty
  cases hsel : selectionOf i with
  | some sel => exact answered (hsels i sel hsel) rfl
  | none =>
    cases hrow : i.command with
    | some c =>
      obtain rfl := row_of_command hrow
      cases he : s.fpx.classTable.firstOf .program with
      | none => exact answered ((hunheard he).1 c) rfl
      | some e => exact answered ((hheard e he).1 c) rfl
    | none =>
      by_cases hserved : i = .clockLatchRead ∨ i = .replanToggleRead
      · rcases hserved with rfl | rfl
        · exact answered hlatch rfl
        · exact answered htoggle rfl
      by_cases hinvalid : ∃ offset sent, i = .invalidCommand offset sent
      · obtain ⟨offset, sent, rfl⟩ := hinvalid
        cases he : s.fpx.classTable.firstOf .program with
        | none => exact answered ((hunheard he).2 offset sent) rfl
        | some e => exact answered ((hheard e he).2 offset sent) rfl
      · exact exec_ownPort hsel hrow (not_or.1 hserved) (fun offset sent h => hinvalid ⟨offset, sent, h⟩) hexec

end Sys2Proof.Machine

/-! PROOFS. The commands on recordings (6.4, 6.6) and a start request's judgment (7.2). -/

namespace Sys2Proof.Machine

/-! ### Run work -/

/-- Calm work that leaves the record store, the matcher and the planner alone and raises no flag but NOTICE_LOST. -/
theorem Calm.runWork {s u : State} (h : Calm s u) (hrst : u.rst = s.rst) (hgmx : u.gmx = s.gmx) (hpln : u.pln = s.pln)
    (hlost : u.rep.sticky = s.rep.sticky ∨ u.rep.sticky = s.rep.sticky ||| 0x0002) : s.RunWork u where
  pins := h.rework.pins
  fpx := h.fpx
  rst := hrst
  gmx := hgmx
  pln := hpln
  pwc := h.rework.pwc
  scanRequest := h.scanRequest
  clk := congrArg (fun k : Clk => { k with channels := u.clk.channels, events := u.clk.events }) h.clkStill
  rep := congrArg (fun v => { v.rep with notices := u.rep.notices, sticky := u.rep.sticky }) h.still
  lost := hlost

/-- The absorbed program shows at the ports only. -/
theorem State.RunWork.of_cut {s u : State} {code : Byte} (h : State.RunWork (s.clearPorts.cut code) u) : s.RunWork u :=
  ⟨h.pins, h.fpx, h.rst, h.gmx, h.pln, h.pwc, h.scanRequest, h.clk, h.rep, h.lost⟩

theorem Rep.posted_lost (r : Rep) (n : Notice) :
    (r.posted n).sticky = r.sticky ∨ (r.posted n).sticky = r.sticky ||| 0x0002 := by
  unfold Rep.posted
  split
  · exact .inl rfl
  · exact .inr rfl

/-! ### An end -/

/-- The end states once a run has ended: a manual run takes one, but for CUT (R125). -/
def ActiveRun.endStatesAfter (r : ActiveRun) (o : RunOutcome) (l : List EndState) : List EndState :=
  match r.kind with
  | .manual v => if o = .cut then l else enterEndState l ⟨r.ref, v, o⟩
  | .series _ _ => l

/-- The pending marks once a run has ended: a series run that ended COMPLETE or PARTIAL hands its key on (R55). -/
def ActiveRun.pendingAfter (r : ActiveRun) (o : RunOutcome) (marks : List MarkRec) (l : List PendingKey) : List PendingKey :=
  match r.kind with
  | .manual _ => l
  | .series _ origin => if o = .complete ∨ o = .partly then enterPending marks l ⟨origin.key, r.ref⟩ else l

section
variable {r : ActiveRun} {o : RunOutcome} {l : List EndState}

theorem ActiveRun.endStatesAfter_manual {v : Nat} (h : r.kind = .manual v) (ho : o ≠ .cut) :
    r.endStatesAfter o l = enterEndState l ⟨r.ref, v, o⟩ := by
  simp only [ActiveRun.endStatesAfter, h, if_neg ho]

theorem ActiveRun.endStatesAfter_cut : r.endStatesAfter .cut l = l := by
  unfold ActiveRun.endStatesAfter
  split
  · exact if_pos rfl
  · rfl

theorem ActiveRun.endStatesAfter_series {v : Nat} {x : Origin} (h : r.kind = .series v x) : r.endStatesAfter o l = l := by
  simp only [ActiveRun.endStatesAfter, h]

theorem ActiveRun.pendingAfter_unrecorded {marks : List MarkRec} {l : List PendingKey} (hc : o ≠ .complete) (hp : o ≠ .partly) :
    r.pendingAfter o marks l = l := by
  unfold ActiveRun.pendingAfter
  split
  · rfl
  · exact if_neg fun h => h.elim hc hp

theorem ActiveRun.pendingAfter_manual {v : Nat} {marks : List MarkRec} {l : List PendingKey} (h : r.kind = .manual v) :
    r.pendingAfter o marks l = l := by
  simp only [ActiveRun.pendingAfter, h]

theorem ActiveRun.pendingAfter_series {v : Nat} {x : Origin} {marks : List MarkRec} {l : List PendingKey}
    (h : r.kind = .series v x) :
    r.pendingAfter o marks l = if o = .complete ∨ o = .partly then enterPending marks l ⟨x.key, r.ref⟩ else l := by
  simp only [ActiveRun.pendingAfter, h]

end

/-- The STOP notice of an end (R118). -/
def ActiveRun.stopNotice (r : ActiveRun) (o : RunOutcome) (stop : Nat) : Notice :=
  ⟨.stop, some r.tuner, o.detail, stop, r.ref, (r.actualStart : Nat)⟩

theorem State.markEnd_eq (s : State) (r : ActiveRun) (o : RunOutcome) :
    s.markEnd r o = { s with
      run := { s.run with endStates := r.endStatesAfter o s.run.endStates }
      ser := { s.ser with pendingMarks := r.pendingAfter o s.rst.tables.marks s.ser.pendingMarks } } := by
  unfold State.markEnd ActiveRun.endStatesAfter ActiveRun.pendingAfter
  cases r.kind with
  | manual v =>
    by_cases ho : o = .cut
    · simp only [State.manualEnd, if_pos ho]
    · simp only [State.manualEnd, if_neg ho]
      rfl
  | series v origin =>
    by_cases ho : o = .complete ∨ o = .partly
    · simp only [if_pos ho]
      rfl
    · simp only [if_neg ho]

/-- What the end of a run changes before the triggers: its record, its stream, the history, the end states, the pending marks, the
blocked marks and the notices (R118). -/
theorem State.ended_eq (s : State) (r : ActiveRun) (o : RunOutcome) (stop : Nat) :
    s.ended r o stop = { s with
      tun := s.tun.set r.tuner (s.tun.get r.tuner).releaseStream
      run := { s.run with
        runs := s.run.runs.filter fun x => x.ref ≠ r.ref
        waiting := s.run.waiting.map fun w => { w with blocked := none }
        history := enterHistory s.run.history ⟨r.ref, o, some stop, r.windowEnd⟩
        endStates := r.endStatesAfter o s.run.endStates }
      ser := { s.ser with pendingMarks := r.pendingAfter o s.rst.tables.marks s.ser.pendingMarks }
      rep := s.rep.posted (r.stopNotice o stop) } := by
  unfold State.ended
  dsimp only
  rw [State.markEnd_eq, State.post_posted]
  rfl

theorem State.ended_calm (s : State) (r : ActiveRun) (o : RunOutcome) (stop : Nat) : Calm s (s.ended r o stop) :=
  ((((State.releaseRun_calm s r).trans (State.addHistory_calm _ _)).trans (State.markEnd_calm _ r o)).trans
    (State.post_calm _ _)).trans (State.clearBlocked_calm _)

/-- An end with its channels reloaded is run work. -/
theorem State.ended_runWork (s : State) (r : ActiveRun) (o : RunOutcome) (stop : Nat) :
    s.RunWork (s.ended r o stop).reloadRunChannels := by
  refine Calm.runWork ((s.ended_calm r o stop).trans (State.reloadRunChannels_calm _)) ?_ ?_ ?_ ?_
  · rw [State.reloadRunChannels_rst, State.ended_eq]
  · rw [State.reloadRunChannels_gmx, State.ended_eq]
  · rw [State.reloadRunChannels_pln, State.ended_eq]
  · rw [State.reloadRunChannels_rep, State.ended_eq]
    exact Rep.posted_lost _ _

/-- An end that does not free a deferred tuner change is the trigger over it (R118). -/
theorem State.endRun_ended {s : State} {r : ActiveRun} {o : RunOutcome} {stop : Nat}
    (h : s.rst.deferred = none ∨ ∃ x ∈ s.run.runs, x.ref ≠ r.ref) :
    s.endRun State.trigger r o stop = (s.ended r o stop).reloadRunChannels.trigger := by
  rw [State.endRun_eq]
  split
  · next hempty =>
    have hnone : s.rst.deferred = none := h.resolve_right fun ⟨x, hx, hne⟩ => by
      rw [State.ended_eq, List.isEmpty_iff] at hempty
      exact List.filter_eq_nil_iff.1 hempty x hx (by simpa using hne)
    have hsame : (s.ended r o stop).applyDeferred State.trigger = s.ended r o stop := by
      have hdeferred : (s.ended r o stop).rst.deferred = none := by rw [State.ended_eq, hnone]
      rw [State.applyDeferred, hdeferred]
    rw [hsame]
  · rfl

/-! ### A trigger with no run active -/

/-- The run table, the configuration and the tuner records are as they were. -/
structure Unrun (s t : State) : Prop where
  runs : t.run.runs = s.run.runs
  rst : t.rst = s.rst
  tun : t.tun = s.tun

theorem Unrun.trans {s t u : State} (h : Unrun s t) (k : Unrun t u) : Unrun s u :=
  ⟨k.runs.trans h.runs, k.rst.trans h.rst, k.tun.trans h.tun⟩

theorem State.waitingChange_unrun (s : State) (ref : Nat) : Unrun s (s.waitingChange ref) := by
  refine ⟨?_, by simp, by simp⟩
  unfold State.waitingChange
  split
  · rw [State.reloadRunChannels_run]
    rfl
  · rfl

theorem State.eventChange_unrun {trig : Trigger} {s : State} (h : s.run.runs = []) (id : Nat) (c : Change) (e : Option Event) :
    Unrun s (s.eventChange trig id c e) := by
  have hnone : s.runOf (seriesRef id) = none := by rw [State.runOf, h, List.find?_nil]
  unfold State.eventChange
  rw [hnone]
  exact s.waitingChange_unrun _

theorem State.reportChanges_unrun {trig : Trigger} (changes : List (Nat × Change × Option Event)) {s : State}
    (h : s.run.runs = []) : Unrun s (changes.foldl (fun s p => s.eventChange trig p.1 p.2.1 p.2.2) s) := by
  induction changes generalizing s with
  | nil => exact ⟨rfl, rfl, rfl⟩
  | cons p rest ih =>
    have hp := State.eventChange_unrun (trig := trig) h p.1 p.2.1 p.2.2
    exact hp.trans (ih (hp.runs.trans h))

theorem State.guidePurge_unrun {trig : Trigger} {s : State} (h : s.run.runs = []) : Unrun s (s.guidePurge trig) := by
  have hset : ∀ es, Unrun s (s.setEntries es) := fun es => ⟨rfl, rfl, rfl⟩
  unfold State.guidePurge State.reportEvents
  simp only [Bool.false_and, Bool.false_eq_true, if_false]
  exact (hset _).trans (State.reportChanges_unrun _ (by exact h))

theorem State.startReplan_unrun {s : State} (h : s.run.runs = []) : Unrun s s.startReplan := by
  have hpurge := State.guidePurge_unrun (trig := State.markStale) (s := { s with pln := { s.pln with stale := false } }) h
  exact ⟨hpurge.runs, hpurge.rst, hpurge.tun⟩

theorem State.trigger_unrun {s : State} (h : s.run.runs = []) : Unrun s s.trigger := by
  rcases s.trigger_eq with ⟨-, ht⟩ | ⟨-, -, ht⟩ | ⟨-, -, ht⟩ <;> rw [ht]
  · exact ⟨rfl, rfl, rfl⟩
  · exact State.startReplan_unrun h
  · exact ⟨rfl, rfl, rfl⟩

/-- After a trigger a replan is RUNNING while time is VALID (R83). -/
theorem State.trigger_isSome (s : State) :
    s.trigger.pln.snapshot.isSome = (s.clk.valid || s.pln.snapshot.isSome) := by
  rcases s.trigger_eq with ⟨hs, ht⟩ | ⟨hs, hv, ht⟩ | ⟨hs, hv, ht⟩ <;> rw [ht]
  · simp [State.markStale, hs]
  · simp [State.startReplan, hv]
  · simp [hs, hv]

/-! ### The deferred tuner change -/

/-- The tuner group comes into force, before the trigger (R23, R137). -/
def State.appliedGroup (s : State) (g : TunerGroup) : State :=
  let s1 := { s with rst := { s.rst with deferred := none, inForce := { s.rst.inForce with tuner := g } } }
  (s1.postNow .configApplied none 2 s1.configRef.1 (s1.configRef.2 : Nat)).applyTunerMode

theorem State.applyTunerMode_rst (s : State) : s.applyTunerMode.rst = s.rst := by
  unfold State.applyTunerMode
  split <;> simp

theorem State.applyTunerMode_runs (s : State) : s.applyTunerMode.run.runs = s.run.runs := by
  unfold State.applyTunerMode
  split
  · simp [State.viewerHoldChanged, RunEngine.clearBlocked]
  · simp
  · simp

theorem State.appliedGroup_rst (s : State) (g : TunerGroup) :
    (s.appliedGroup g).rst = { s.rst with deferred := none, inForce := { s.rst.inForce with tuner := g } } := by
  rw [State.appliedGroup, State.applyTunerMode_rst, State.postNow_rst]

theorem State.appliedGroup_runs (s : State) (g : TunerGroup) : (s.appliedGroup g).run.runs = s.run.runs := by
  rw [State.appliedGroup, State.applyTunerMode_runs, State.postNow_run]

theorem State.appliedGroup_pln (s : State) (g : TunerGroup) : (s.appliedGroup g).pln = s.pln := by
  unfold State.appliedGroup State.applyTunerMode
  simp only
  split <;> simp

theorem State.appliedGroup_calm (s : State) (g : TunerGroup) : Calm s (s.appliedGroup g) := by
  have h : Calm s { s with rst := { s.rst with deferred := none, inForce := { s.rst.inForce with tuner := g } } } :=
    ⟨⟨fun f => { f with }, fun _ h => h, BitVec.or_self, [], by simp⟩, rfl⟩
  exact (h.trans (State.postNow_calm _ _ _ _ _ _)).trans (State.applyTunerMode_calm _)

/-- The end of the last run frees the deferred change: it comes into force between the end and its trigger (R23, R118). -/
theorem State.endRun_deferred {s : State} {r : ActiveRun} {o : RunOutcome} {stop : Nat} {g : TunerGroup}
    (hg : s.rst.deferred = some g) (hlast : ∀ x ∈ s.run.runs, x.ref = r.ref) :
    s.endRun State.trigger r o stop = ((s.ended r o stop).appliedGroup g).trigger.reloadRunChannels.trigger := by
  have hruns : (s.ended r o stop).run.runs.isEmpty = true := by
    rw [State.ended_eq, List.isEmpty_iff]
    exact List.filter_eq_nil_iff.2 fun x hx => by simpa using hlast x hx
  have hdeferred : (s.ended r o stop).rst.deferred = some g := by rw [State.ended_eq, hg]
  rw [State.endRun_eq, if_pos hruns, State.applyDeferred, hdeferred]
  rfl

/-- What that leaves of the run table, the configuration and the planner. -/
theorem State.endRun_deferred_leaves {s : State} {r : ActiveRun} {o : RunOutcome} {stop : Nat} {g : TunerGroup}
    (hg : s.rst.deferred = some g) (hlast : ∀ x ∈ s.run.runs, x.ref = r.ref) {t : State}
    (ht : t = s.endRun State.trigger r o stop) :
    t.run.runs = [] ∧ t.rst = { s.rst with deferred := none, inForce := { s.rst.inForce with tuner := g } }
      ∧ t.pln.snapshot.isSome = (s.clk.valid || s.pln.snapshot.isSome) := by
  let u := (s.ended r o stop).appliedGroup g
  have hruns : u.run.runs = [] := by
    rw [State.appliedGroup_runs, State.ended_eq]
    exact List.filter_eq_nil_iff.2 fun x hx => by simpa using hlast x hx
  have hfirst := State.trigger_unrun hruns
  have hmid : u.trigger.reloadRunChannels.run.runs = [] := by rw [State.reloadRunChannels_run, hfirst.runs, hruns]
  have hlast' := State.trigger_unrun hmid
  have hcalm : Calm s u := (s.ended_calm r o stop).trans (State.appliedGroup_calm _ g)
  have hvalid : u.clk.valid = s.clk.valid := hcalm.rework.valid
  have hvalid' : u.trigger.reloadRunChannels.clk.valid = s.clk.valid :=
    ((hcalm.trans u.trigger_calm).trans (State.reloadRunChannels_calm _)).rework.valid
  have hpln : u.pln = s.pln := by rw [State.appliedGroup_pln, State.ended_eq]
  rw [ht, State.endRun_deferred hg hlast]
  refine ⟨hlast'.runs.trans hmid, ?_, ?_⟩
  · rw [hlast'.rst, State.reloadRunChannels_rst, hfirst.rst, State.appliedGroup_rst, State.ended_eq]
  · rw [State.trigger_isSome, hvalid', State.reloadRunChannels_pln, State.trigger_isSome, hvalid, hpln]
    cases s.clk.valid <;> simp

/-! ### CONFIRM_START and REPORT_FAILURE -/

section
variable {s : State} {e : ClassEntry}

/-- A heard command that only answers. -/
theorem exec_row_answered (h : s.Listening) (he : s.fpx.classTable.firstOf .program = some e) {c : Command} {r : CmdResult}
    (hok : argOk c = true) (hafter : ∀ u : State, u.afterCommand c = u)
    (hwork : (s.clearPorts.cut e.code).commandWork c = (r, s.clearPorts.cut e.code)) :
    exec c.row s = .next (s.answered e.code (commandCode c) r) := by
  rw [exec_row_ok h he hok hafter, hwork, State.complete_disarm]

/-- A heard command whose block's work is `u`. -/
theorem exec_row_worked (h : s.Listening) (he : s.fpx.classTable.firstOf .program = some e) {c : Command} {u : State}
    {r : CmdResult} (hok : argOk c = true) (hafter : ∀ u : State, u.afterCommand c = u)
    (hwork : (s.clearPorts.cut e.code).commandWork c = (r, u)) :
    exec c.row s = .next ((u.complete (commandCode c) r).disarm) := by
  rw [exec_row_ok h he hok hafter, hwork]

end

theorem State.runOf_of_run {s t : State} (h : t.run = s.run) {ref : Nat} : t.runOf ref = s.runOf ref := by
  rw [State.runOf, h, State.runOf]

/-- The run of a ref after its record is replaced, and every other. -/
theorem State.runOf_setRun {s : State} {ref : Nat} {r r' : ActiveRun} (h : s.runOf ref = some r) (href : r'.ref = ref) :
    (s.setRun r').runOf ref = some r' ∧ ∀ k, k ≠ ref → (s.setRun r').runOf k = s.runOf k := by
  have hmap : ∀ k, (s.setRun r').runOf k = (s.run.runs.find? fun x => (if x.ref = ref then r' else x).ref = k).map
      fun x => if x.ref = ref then r' else x := fun k => by
    rw [State.runOf, State.setRun, href]
    exact List.find?_map
  refine ⟨?_, fun k hk => ?_⟩
  · have hsame : ∀ x : ActiveRun, (if x.ref = ref then r' else x).ref = ref ↔ x.ref = ref := fun x => by
      by_cases hx : x.ref = ref
      · simp [hx, href]
      · simp [hx]
    rw [hmap]
    simp only [hsame]
    rw [show s.run.runs.find? (fun x => decide (x.ref = ref)) = some r from h, Option.map_some,
      if_pos (by simpa using List.find?_some h)]
  · have hother : ∀ x : ActiveRun, (if x.ref = ref then r' else x).ref = k ↔ x.ref = k := fun x => by
      by_cases hx : x.ref = ref
      · rw [if_pos hx, href, hx]
      · rw [if_neg hx]
    rw [hmap]
    simp only [hother]
    rw [State.runOf]
    cases hfind : s.run.runs.find? fun x => decide (x.ref = k) with
    | none => rfl
    | some x =>
      have hx : x.ref = k := by simpa using List.find?_some hfind
      rw [Option.map_some, if_neg (by rw [hx]; exact hk)]

/-- Settles O31: the run's record in place, or the answer for a ref that is not active. -/
theorem confirmStartAnswersByRef : Obligations.ConfirmStartAnswersByRef := by
  unfold Obligations.ConfirmStartAnswersByRef
  intro s e ref h he
  let cut := s.clearPorts.cut e.code
  refine ⟨fun r hr => ?_, fun hnone => ?_⟩
  · have hr' : cut.runOf ref.toNat = some r := hr
    have href : r.ref = ref.toNat := by simpa using List.find?_some hr
    have hwork : cut.commandWork (.confirmStart ref) =
        (.ok, (cut.setRun { r with state := .recording, deadline := none }).reloadRunChannels) := by
      rw [State.commandWork, State.doConfirm, hr']
    have hexec := exec_row_worked h he (c := .confirmStart ref) rfl (fun _ => rfl) hwork
    have hcalm : Calm cut (cut.setRun { r with state := .recording, deadline := none }).reloadRunChannels :=
      (State.setRun_calm _ _).trans (State.reloadRunChannels_calm _)
    obtain ⟨hsame, hother⟩ := State.runOf_setRun hr' (r' := { r with state := .recording, deadline := none }) href
    have hrun : ∀ code, ((cut.setRun { r with state := .recording, deadline := none }).reloadRunChannels.complete
        code .ok).disarm.run = (cut.setRun { r with state := .recording, deadline := none }).run := fun code => by
      rw [State.disarm_run, State.complete_run, State.reloadRunChannels_run]
    refine ⟨_, hexec, ⟨_, ?_, rfl⟩, fun k hk => ?_, ?_, ?_, ?_, ?_, ?_, hcalm.commandFrame 0x05 .ok⟩
    · exact (State.runOf_of_run (hrun _)).trans hsame
    · exact (State.runOf_of_run (hrun _)).trans (hother k hk)
    · exact (congrArg RunEngine.waiting (hrun _) :)
    · exact (congrArg RunEngine.history (hrun _) :)
    · rw [State.disarm_tun, State.complete_tun, State.reloadRunChannels_tun]
      rfl
    · rw [State.disarm_rep, State.complete_notices, State.reloadRunChannels_rep]
      rfl
    · rw [State.disarm_pln, State.complete_pln, State.reloadRunChannels_pln]
      rfl
  · have hnone' : cut.runOf ref.toNat = none := hnone
    refine exec_row_answered h he (c := .confirmStart ref) rfl (fun _ => rfl) ?_
    rw [State.commandWork, State.doConfirm, hnone']
    rfl

/-- Settles O32: an active run by its end and the trigger, the last one with a deferred change by what that leaves, any other
ref by its answer. -/
theorem reportFailureEndsTheRun : Obligations.ReportFailureEndsTheRun := by
  unfold Obligations.ReportFailureEndsTheRun
  intro s e ref h he
  let cut := s.clearPorts.cut e.code
  have hwork : ∀ r, s.runOf ref.toNat = some r →
      cut.commandWork (.reportFailure ref) = (.ok, cut.endRun State.trigger r .failed s.clk.counter) := fun r hr => by
    have hr' : cut.runOf ref.toNat = some r := hr
    rw [State.commandWork, State.doFailure, hr']
    rfl
  refine ⟨fun r hr hkeep => ?_, fun r g hr hg hlast => ?_, fun hnone => ?_⟩
  · have hexec := exec_row_worked h he (c := .reportFailure ref) rfl (fun _ => rfl) (hwork r hr)
    rw [State.endRun_ended (s := cut) hkeep] at hexec
    refine ⟨_, hexec, ?_, (State.ended_runWork cut r .failed s.clk.counter).of_cut, ?_⟩
    · rw [State.reloadRunChannels_ports, State.ended_eq]
      rfl
    · rw [State.reloadRunChannels_run, State.reloadRunChannels_tun, State.reloadRunChannels_ser, State.reloadRunChannels_rep,
        State.ended_eq]
      refine ⟨rfl, rfl, fun v hv => ?_, fun v o hv => ?_, rfl, rfl, ?_, ?_⟩
      · exact ActiveRun.endStatesAfter_manual hv nofun
      · exact ActiveRun.endStatesAfter_series hv
      · rw [ActiveRun.pendingAfter_unrecorded (o := .failed) (by nofun) (by nofun)]
        rfl
      · rw [State.post_rep]
        rfl
  · have hexec := exec_row_worked h he (c := .reportFailure ref) rfl (fun _ => rfl) (hwork r hr)
    have hcalm : Calm cut (cut.endRun State.trigger r .failed s.clk.counter) := State.endRun_calm State.trigger_calm _ _ _ _
    obtain ⟨hruns, hrst, hsnapshot⟩ := State.endRun_deferred_leaves (s := cut) (r := r) (o := .failed) (stop := s.clk.counter) hg
      hlast rfl
    refine ⟨_, hexec, ?_, ?_, ?_, ?_, hcalm.commandFrame 0x06 .ok⟩
    · rw [State.disarm_run, State.complete_run, hruns]
    · rw [State.disarm_rst, State.complete_rst, hrst]
    · rw [State.disarm_rst, State.complete_rst, hrst]
      rfl
    · rw [State.disarm_pln, State.complete_pln, hsnapshot]
      rfl
  · have hnone' : cut.runOf ref.toNat = none := hnone
    refine exec_row_answered h he (c := .reportFailure ref) rfl (fun _ => rfl) ?_
    rw [State.commandWork, State.doFailure, hnone']
    rfl

/-! ### KEEP_VIEWING -/

/-- What the end of a waiting entry changes before the triggers: its place, the history, and for a manual entry the end states
(R118). -/
theorem State.manualEnd_eq (s : State) (b v : Nat) {o : RunOutcome} (ho : o ≠ .cut) :
    s.manualEnd b v o = { s with run := { s.run with endStates := enterEndState s.run.endStates ⟨b, v, o⟩ } } := if_neg ho

/-- An entry that leaves the waiting list with an outcome: the list, the history and the end states. -/
def State.left (s : State) (w : WaitingEntry) (o : RunOutcome) (at_ : Option Nat) : State :=
  let s1 := (s.dropWaiting w.ref).addHistory ⟨w.ref, o, at_, w.wend⟩
  if w.origin.isNone then s1.manualEnd w.ref (s1.bookingRevision w.ref) o else s1

theorem State.left_eq (s : State) (w : WaitingEntry) {o : RunOutcome} (ho : o ≠ .cut) (at_ : Option Nat) :
    s.left w o at_ = { s with run := { s.run with
      waiting := s.run.waiting.filter fun x => x.ref ≠ w.ref
      history := enterHistory s.run.history ⟨w.ref, o, at_, w.wend⟩
      endStates := if w.origin.isNone then enterEndState s.run.endStates ⟨w.ref, s.bookingRevision w.ref, o⟩
        else s.run.endStates } } := by
  unfold State.left
  by_cases horigin : w.origin.isNone = true
  · simp only [horigin, if_true]
    rw [State.manualEnd_eq _ _ _ ho]
    rfl
  · simp only [horigin]
    rfl

theorem State.left_calm (s : State) (w : WaitingEntry) (o : RunOutcome) (at_ : Option Nat) : Calm s (s.left w o at_) :=
  ((State.dropWaiting_calm s w.ref).trans (State.addHistory_calm _ _)).trans
    (Calm.ite (State.manualEnd_calm _ _ _ _) (Calm.refl _))

theorem State.bookingRevision_some {s : State} {id : Nat} {b : BookingRec} (h : s.booking id = some b) :
    s.bookingRevision id = b.revision := by
  rw [State.bookingRevision, h]

/-- The channels are reloaded alike whatever the ports show. -/
theorem State.reloadRunChannels_cut (s : State) (code : Byte) :
    (s.clearPorts.cut code).reloadRunChannels = s.reloadRunChannels.clearPorts.cut code := by
  have hone : ∀ (u : State) (c : Channel) (v : Option Nat),
      (u.clearPorts.cut code).reloadChannel c v = (u.reloadChannel c v).clearPorts.cut code := fun u c v => by
    cases v <;> rfl
  unfold State.reloadRunChannels
  simp only [hone]
  rfl

/-- Settles O33: by what the ref is found to be, a waiting entry first. -/
theorem keepViewingDeclinesTheEntry : Obligations.KeepViewingDeclinesTheEntry := by
  unfold Obligations.KeepViewingDeclinesTheEntry
  intro s e ref h he
  let cut := s.clearPorts.cut e.code
  have hkeep : cut.commandWork (.keepViewing ref) = cut.doKeep ref.toNat := rfl
  refine ⟨fun w hw => ?_, fun hw hr => ?_, fun x hw hr hx => ⟨fun ho => ?_, fun ho => ?_⟩, fun hw hr hx => ?_⟩
  · have hw' : cut.waitingOf ref.toNat = some w := hw
    have hleft := cut.left_eq w (o := .declined) nofun none
    have hwork : cut.commandWork (.keepViewing ref) = (.ok, (cut.left w .declined none).reloadRunChannels.trigger) := by
      rw [hkeep, State.doKeep, hw']
      rfl
    have hexec := exec_row_worked h he (c := .keepViewing ref) rfl (fun _ => rfl) hwork
    have hcalm := (cut.left_calm w .declined none).trans (State.reloadRunChannels_calm _)
    refine ⟨_, hexec, hcalm.rework.ports, State.RunWork.of_cut (hcalm.runWork ?_ ?_ ?_ ?_), ?_⟩
    · rw [State.reloadRunChannels_rst, hleft]
    · rw [State.reloadRunChannels_gmx, hleft]
    · rw [State.reloadRunChannels_pln, hleft]
    · rw [State.reloadRunChannels_rep, hleft]
      exact .inl rfl
    · rw [State.reloadRunChannels_run, State.reloadRunChannels_tun, State.reloadRunChannels_ser, State.reloadRunChannels_rep,
        hleft]
      refine ⟨rfl, rfl, fun ho => if_neg (by simpa using ho), fun b ho hb => ?_, rfl, rfl, rfl, rfl⟩
      have hrevision : cut.bookingRevision w.ref = b.revision := State.bookingRevision_some hb
      simp only [ho, Option.isNone_none, if_true, hrevision]
      rfl
  · have hw' : cut.waitingOf ref.toNat = none := hw
    have hr' : (cut.runOf ref.toNat).isSome = true := hr
    exact exec_row_answered h he (c := .keepViewing ref) rfl (fun _ => rfl) (by rw [hkeep, State.doKeep, hw', if_pos hr'])
  · have hwork : cut.commandWork (.keepViewing ref) = (.ok, cut.reloadRunChannels) := by
      rw [hkeep, State.doKeep, show cut.waitingOf ref.toNat = none from hw, show cut.runOf ref.toNat = none from hr,
        show cut.historyOf ref.toNat = some x from hx]
      simp [ho]
    rw [State.reloadRunChannels_cut] at hwork
    exact (exec_row_worked h he (c := .keepViewing ref) rfl (fun _ => rfl) hwork).trans
      (congrArg _ (State.complete_disarm s.reloadRunChannels e.code 0x09 .ok))
  · refine exec_row_answered h he (c := .keepViewing ref) rfl (fun _ => rfl) ?_
    rw [hkeep, State.doKeep, show cut.waitingOf ref.toNat = none from hw, show cut.runOf ref.toNat = none from hr,
      show cut.historyOf ref.toNat = some x from hx]
    simp [ho, cut]
  · refine exec_row_answered h he (c := .keepViewing ref) rfl (fun _ => rfl) ?_
    rw [hkeep, State.doKeep, show cut.waitingOf ref.toNat = none from hw, show cut.runOf ref.toNat = none from hr,
      show cut.historyOf ref.toNat = none from hx]
    simp [cut]

/-! ### A start request -/

theorem mem_tuners (m : Mode) (T : Tuner) : T ∈ m.tuners ↔ (m = .single → T = .A) := by
  cases m <;> cases T <;> decide

/-- The conditions of a grant but the feed rule (R129). -/
def grantFits (g : TunerGroup) (t : Tun) (T : Tuner) (m : Nat) : Prop :=
  (g.mode = .single → T = .A) ∧ ((t.get T).streams = 0 ∨ (t.get T).multiplex = some m) ∧ (t.get T).streams < g.perTuner
    ∧ t.a.streams + t.b.streams < min g.total (g.perTuner * (if g.mode = .single then 1 else 2))

theorem grantConditions_iff {g : TunerGroup} {t : Tun} {T : Tuner} {m f : Nat} {other : TunerRec} :
    grantConditions g t T m f other = true ↔
      grantFits g t T m ∧ (g.mode ≠ .twinLooped ∨ other.state = .idle ∨ other.feed = some f) := by
  have hcap : g.cap = min g.total (g.perTuner * (if g.mode = .single then 1 else 2)) := by
    unfold TunerGroup.cap
    cases g.mode <;> rfl
  simp only [grantConditions, grantFits, Bool.and_eq_true, Bool.or_eq_true, decide_eq_true_eq, List.contains_iff_mem, or_assoc,
    mem_tuners, hcap, and_assoc]

/-- The feed rule against the other tuner as it stands (R129). -/
def feedFits (g : TunerGroup) (t : Tun) (T : Tuner) (f : Nat) : Prop :=
  g.mode ≠ .twinLooped ∨ (t.get (otherTuner T)).state = .idle ∨ (t.get (otherTuner T)).feed = some f

section
variable {g : TunerGroup} {t : Tun} {T : Tuner} {m f : Nat}

theorem judgeRequest_granted (hfits : grantFits g t T m) (hfeed : feedFits g t T f)
    (hview : (t.get T).viewer = none ∨ (t.get T).multiplex = some m) : judgeRequest g t T m f = .granted := by
  have hstay : ¬ ((t.get T).viewer.isSome && decide ((t.get T).multiplex ≠ some m)) = true := by
    rcases hview with hv | hv <;> simp [hv]
  rw [judgeRequest, if_pos (grantConditions_iff.2 ⟨hfits, hfeed⟩), if_neg hstay]

theorem judgeRequest_evicts (hfits : grantFits g t T m) (hfeed : feedFits g t T f)
    (hview : ¬ ((t.get T).viewer = none ∨ (t.get T).multiplex = some m)) : judgeRequest g t T m f = .evicts := by
  obtain ⟨hv, hm⟩ := not_or.1 hview
  have hout : ((t.get T).viewer.isSome && decide ((t.get T).multiplex ≠ some m)) = true := by
    simp [Option.isSome_iff_ne_none, hv, hm]
  rw [judgeRequest, if_pos (grantConditions_iff.2 ⟨hfits, hfeed⟩), if_pos hout]

/-- Without the feed rule's condition the other tuner's mode is TWIN_LOOPED, and an IDLE one in its place would do (R130). -/
theorem judgeRequest_looped (hfits : grantFits g t T m) (hfeed : ¬ feedFits g t T f) :
    judgeRequest g t T m f = .refused (if (t.get (otherTuner T)).state = .view then .viewer else .tuner) := by
  have hmode : g.mode = .twinLooped := by
    by_contra h
    exact hfeed (.inl h)
  have hidle : grantConditions g t T m f TunerRec.idle = true := grantConditions_iff.2 ⟨hfits, .inr (.inl rfl)⟩
  rw [judgeRequest, if_neg fun h => hfeed (grantConditions_iff.1 h).2]
  by_cases hview : (t.get (otherTuner T)).state = .view <;> simp [hmode, hidle, hview]

theorem judgeRequest_barred (hfits : ¬ grantFits g t T m) : judgeRequest g t T m f = .refused .tuner := by
  rw [judgeRequest, if_neg fun h => hfits (grantConditions_iff.1 h).1,
    if_neg fun h => hfits (grantConditions_iff.1 (Bool.and_eq_true_iff.1 h).2).1]

end

/-- Settles O36: the four conditions, the feed rule and the viewer decide the answer. -/
theorem streamGrantTakesFiveConditions : Obligations.StreamGrantTakesFiveConditions := by
  unfold Obligations.StreamGrantTakesFiveConditions
  intro g t T m f
  change (_ ↔ grantFits g t T m ∧ feedFits g t T f ∧ _) ∧ (_ ↔ grantFits g t T m ∧ feedFits g t T f ∧ _)
    ∧ (_ ↔ grantFits g t T m ∧ ¬ feedFits g t T f ∧ _) ∧ (_ ↔ ¬ grantFits g t T m ∨ (¬ feedFits g t T f ∧ _))
  by_cases hfits : grantFits g t T m
  · by_cases hfeed : feedFits g t T f
    · by_cases hview : (t.get T).viewer = none ∨ (t.get T).multiplex = some m
      · simp [judgeRequest_granted hfits hfeed hview, hfits, hfeed, hview]
        tauto
      · simp [judgeRequest_evicts hfits hfeed hview, hfits, hfeed, hview]
        tauto
    · by_cases hother : (t.get (otherTuner T)).state = .view <;>
        simp [judgeRequest_looped hfits hfeed, hfits, hfeed, hother]
  · simp [judgeRequest_barred hfits, hfits]

end Sys2Proof.Machine

/-! PROOFS. The viewer's commands (7.3), LEND and STANDBY (8.9, 10.2). -/

namespace Sys2Proof.Machine

/-! ### The choice of a tuner -/

section
variable {s : State} {m f : Nat} {T : Tuner}

/-- The tuners a VIEW examines, in their order: the viewer's own first (R131). -/
def viewFirst (g : TunerGroup) (t : Tun) : Tuner := if t.viewerTuner = some .B ∧ g.mode ≠ .single then .B else .A

theorem viewOrder_eq (g : TunerGroup) (t : Tun) :
    viewOrder g t = if g.mode = .single then [.A] else [viewFirst g t, otherTuner (viewFirst g t)] := by
  unfold viewOrder viewFirst
  rcases hv : t.viewerTuner with _ | _ | _ <;> cases hm : g.mode <;> simp [Mode.tuners, otherTuner]

/-- A search through the order: the first of its tuners, then the other where the mode has it. -/
theorem find_viewOrder (g : TunerGroup) (t : Tun) (p : Tuner → Bool) :
    (viewOrder g t).find? p =
      if (g.mode = .single → viewFirst g t = .A) ∧ p (viewFirst g t) = true then some (viewFirst g t)
      else if (g.mode = .single → otherTuner (viewFirst g t) = .A) ∧ p (otherTuner (viewFirst g t)) = true then
        some (otherTuner (viewFirst g t))
      else none := by
  rw [viewOrder_eq]
  by_cases hm : g.mode = .single
  · have hfirst : viewFirst g t = .A := if_neg fun h => h.2 hm
    by_cases hp : p .A = true <;> simp [hm, hfirst, hp, otherTuner]
  · by_cases hp : p (viewFirst g t) = true
    · simp [hm, hp]
    · by_cases hq : p (otherTuner (viewFirst g t)) = true <;> simp [hm, hp, hq]

/-- The tuner can take the viewer beside a stream of the multiplex (R131). -/
def State.viewJoins (s : State) (m f : Nat) (T : Tuner) : Bool :=
  (s.tun.judged T).state ≠ .idle && (s.tun.judged T).multiplex = some m && viewLoopOk s.rst.inForce.tuner s.tun T f

/-- The tuner can take the viewer from IDLE (R131). -/
def State.viewTakes (s : State) (m f : Nat) (T : Tuner) : Bool :=
  (s.tun.judged T).state = .idle && !s.takenSoon T m && viewLoopOk s.rst.inForce.tuner s.tun T f

theorem State.chooseView_eq (s : State) (m f : Nat) :
    s.chooseView m f =
      (((viewOrder s.rst.inForce.tuner s.tun).find? (s.viewJoins m f)).map (·, true)).or
        (((viewOrder s.rst.inForce.tuner s.tun).find? (s.viewTakes m f)).map (·, false)) := by
  unfold State.chooseView State.viewJoins State.viewTakes
  simp only
  split
  · next T hT => rw [hT]; rfl
  · next hnone =>
    rw [hnone]
    split
    · next T hT => rw [hT]; rfl
    · next hnone' => rw [hnone']; rfl

theorem viewLoopOk_iff {g : TunerGroup} {t : Tun} :
    viewLoopOk g t T f = true ↔ g.mode ≠ .twinLooped ∨ (t.get (otherTuner T)).releaseViewer.state = .idle
      ∨ (t.get (otherTuner T)).releaseViewer.feed = some f := by
  unfold viewLoopOk Tun.judged
  simp only [Bool.or_eq_true, decide_eq_true_eq, or_assoc]

theorem State.takenSoon_iff : s.takenSoon T m = false ↔
    ∀ w ∈ s.run.waiting, w.tuner = T → w.wstart ≤ min (s.clk.counter + s.rst.inForce.schedule.warningLead) 0xFFFFFFFF →
      ∀ sv, s.service w.service = some sv → sv.multiplex = m := by
  unfold State.takenSoon
  rw [List.any_eq_false]
  refine forall₂_congr fun w _ => ?_
  have hsat : satAdd s.clk.counter s.rst.inForce.schedule.warningLead =
      min (s.clk.counter + s.rst.inForce.schedule.warningLead) 0xFFFFFFFF := rfl
  cases hsv : s.service w.service with
  | none => simp
  | some sv => simp [hsat]

/-- A tuner that carries streams is chosen only on their multiplex. -/
theorem State.chooseView_streams {joined : Bool} (h : s.chooseView m f = some (T, joined))
    (hs : (s.tun.get T).streams ≠ 0) : (s.tun.get T).multiplex = some m := by
  have hbusy : (s.tun.judged T).state ≠ .idle := by
    rw [Tun.judged, ne_eq, TunerRec.state_eq_idle, TunerRec.releaseViewer_streams]
    exact fun hi => hs hi.1
  rw [State.chooseView_eq, Option.or_eq_some_iff] at h
  rcases h with h | ⟨-, h⟩
  · obtain ⟨T', hfound, heq⟩ := Option.map_eq_some_iff.1 h
    cases heq
    have hp := List.find?_some hfound
    simp only [State.viewJoins, Bool.and_eq_true, decide_eq_true_eq] at hp
    exact (TunerRec.releaseViewer_multiplex hs).symm.trans hp.1.2
  · obtain ⟨T', hfound, heq⟩ := Option.map_eq_some_iff.1 h
    cases heq
    have hp := List.find?_some hfound
    simp only [State.viewTakes, Bool.and_eq_true, decide_eq_true_eq] at hp
    exact absurd hp.1.1 hbusy

end

/-! ### A granted VIEW -/

theorem Tun.viewed_self (t : Tun) (T : Tuner) (service m f : Nat) :
    (t.viewed T service m f).get T = (t.get T).takeViewer service m f := by
  rw [Tun.viewed, Tun.get_set_same]
  split
  · rw [Tun.get_set_ne]
    cases T <;> nofun
  · rfl

theorem Tun.viewed_other (t : Tun) (T : Tuner) (service m f : Nat) :
    (t.viewed T service m f).get (otherTuner T) = if t.viewerTuner = some (otherTuner T) then
      (t.get (otherTuner T)).releaseViewer else t.get (otherTuner T) := by
  rw [Tun.viewed, Tun.get_set_ne]
  · split
    · rw [Tun.get_set_same]
    · rfl
  · cases T <;> nofun

@[simp] theorem Tun.viewed_warned (t : Tun) (T : Tuner) (service m f : Nat) : (t.viewed T service m f).warned = t.warned := by
  rw [Tun.viewed, Tun.set_warned]
  split
  · rw [Tun.set_warned]
  · rfl

theorem TunerRec.takeViewer_multiplex {r : TunerRec} {service m f : Nat} (h : r.streams ≠ 0 → r.multiplex = some m) :
    (r.takeViewer service m f).multiplex = some m := by
  unfold TunerRec.takeViewer
  split
  · rfl
  · next hkeep =>
    by_cases hs : r.streams = 0
    · simpa [hs] using hkeep
    · exact h hs

theorem TunerRec.takeViewer_feed (r : TunerRec) (service m f : Nat) :
    (r.takeViewer service m f).feed = if r.streams = 0 ∧ r.multiplex ≠ some m then some f else r.feed := by
  unfold TunerRec.takeViewer
  simp only [Bool.and_eq_true, decide_eq_true_eq]
  split <;> rfl

/-- A changed hold is announced to the run engine and the warnings (R113, R132, R133). -/
def State.followHold (s : State) : State := s.viewerHoldChanged.emptyWarned.reloadWarn

theorem State.followHold_calm (s : State) : Calm s s.followHold :=
  ((State.viewerHoldChanged_calm s).trans (State.emptyWarned_calm _)).trans (State.reloadWarn_calm _)

theorem State.followHold_run (s : State) : s.followHold.run = s.run.clearBlocked := by
  rw [State.followHold, State.reloadWarn_run]
  exact State.reloadRunChannels_run _

theorem State.followHold_tun (s : State) : s.followHold.tun = { s.tun with warned := [] } := by
  rw [State.followHold, State.reloadWarn_tun]
  exact congrArg (fun t : Tun => { t with warned := [] }) (State.reloadRunChannels_tun _)

theorem State.followHold_rep (s : State) : s.followHold.rep = s.rep := by
  rw [State.followHold, State.reloadWarn_rep]
  exact State.reloadRunChannels_rep _

theorem State.followHold_rst (s : State) : s.followHold.rst = s.rst := by
  rw [State.followHold, State.reloadWarn_rst]
  exact State.reloadRunChannels_rst _

theorem State.followHold_gmx (s : State) : s.followHold.gmx = s.gmx := by
  rw [State.followHold, State.reloadWarn_gmx]
  exact State.reloadRunChannels_gmx _

theorem State.followHold_pln (s : State) : s.followHold.pln = s.pln := by
  rw [State.followHold, State.reloadWarn_pln]
  exact State.reloadRunChannels_pln _

theorem State.followHold_ser (s : State) : s.followHold.ser = s.ser := by
  rw [State.followHold, State.reloadWarn_ser]
  exact State.reloadRunChannels_ser _

/-- A granted VIEW up to the trigger of a new hold. -/
def State.viewGranted (s : State) (T : Tuner) (joined : Bool) (service m f : Nat) : State :=
  let s2 := State.postNow { s with tun := s.tun.viewed T service m f } .viewGranted (some T) (if joined then 1 else 2) service
    (m : Nat)
  if s.tun.viewerTuner ≠ some T ∨ (s.tun.get T).multiplex ≠ ((s.tun.viewed T service m f).get T).multiplex
      ∨ (s.tun.get T).feed ≠ ((s.tun.viewed T service m f).get T).feed then s2.followHold else s2

theorem State.grantView_eq (s : State) (T : Tuner) (joined : Bool) (service m f : Nat) :
    s.grantView T joined service m f =
      if s.tun.viewerTuner ≠ some T then (s.viewGranted T joined service m f).trigger
      else s.viewGranted T joined service m f := by
  have hchanged : (decide (s.tun.viewerTuner ≠ some T)
        || decide ((s.tun.get T).multiplex ≠ ((s.tun.viewed T service m f).get T).multiplex)
        || decide ((s.tun.get T).feed ≠ ((s.tun.viewed T service m f).get T).feed)) = true ↔
      s.tun.viewerTuner ≠ some T ∨ (s.tun.get T).multiplex ≠ ((s.tun.viewed T service m f).get T).multiplex
        ∨ (s.tun.get T).feed ≠ ((s.tun.viewed T service m f).get T).feed := by
    simp only [Bool.or_eq_true, decide_eq_true_eq, or_assoc]
  have hnew : decide (s.tun.viewerTuner ≠ some T) = true ↔ s.tun.viewerTuner ≠ some T := decide_eq_true_iff
  have hgranted : s.viewGranted T joined service m f =
      if (decide (s.tun.viewerTuner ≠ some T)
        || decide ((s.tun.get T).multiplex ≠ ((s.tun.viewed T service m f).get T).multiplex)
        || decide ((s.tun.get T).feed ≠ ((s.tun.viewed T service m f).get T).feed)) = true then
        State.followHold (State.postNow { s with tun := s.tun.viewed T service m f } .viewGranted (some T)
          (if joined then 1 else 2) service (m : Nat))
      else State.postNow { s with tun := s.tun.viewed T service m f } .viewGranted (some T)
          (if joined then 1 else 2) service (m : Nat) := if_congr hchanged.symm rfl rfl
  rw [← if_congr hnew rfl rfl, hgranted]
  rfl

/-- The records and VIEW_GRANTED (R132). -/
def State.viewNoted (s : State) (T : Tuner) (joined : Bool) (service m f : Nat) : State :=
  State.postNow { s with tun := s.tun.viewed T service m f } .viewGranted (some T) (if joined then 1 else 2) service (m : Nat)

section
variable {s : State} {T : Tuner} {joined : Bool} {service m f : Nat} (hm : (s.tun.get T).streams ≠ 0 → (s.tun.get T).multiplex = some m)
include hm

theorem State.viewGranted_followed (h : s.tun.viewerTuner ≠ some T ∨ (s.tun.get T).multiplex ≠ some m) :
    s.viewGranted T joined service m f = (s.viewNoted T joined service m f).followHold := by
  refine if_pos (h.imp id fun h => .inl ?_)
  rw [Tun.viewed_self, TunerRec.takeViewer_multiplex hm]
  exact h

theorem State.viewGranted_kept (hheld : s.tun.viewerTuner = some T) (h : (s.tun.get T).multiplex = some m) :
    s.viewGranted T joined service m f = s.viewNoted T joined service m f := by
  refine if_neg ?_
  rw [Tun.viewed_self, TunerRec.takeViewer_multiplex hm, TunerRec.takeViewer_feed, if_neg fun hn => hn.2 h]
  simp [hheld, h]

end

theorem State.viewNoted_eq (s : State) (T : Tuner) (joined : Bool) (service m f : Nat) :
    s.viewNoted T joined service m f = { s with
      tun := s.tun.viewed T service m f
      rep := s.rep.posted ⟨.viewGranted, some T, if joined then 1 else 2, s.clk.counter, service, (m : Nat)⟩ } :=
  State.post_posted _ _

theorem State.viewNoted_calm (s : State) (T : Tuner) (joined : Bool) (service m f : Nat) :
    Calm s (s.viewNoted T joined service m f) := (Calm.of_tun s _).trans (State.postNow_calm _ _ _ _ _ _)

/-- What a granted VIEW leaves, followed or kept. -/
structure State.ViewShown (s u : State) (T : Tuner) (joined : Bool) (service m f : Nat) : Prop where
  calm : Calm s u
  rst : u.rst = s.rst
  gmx : u.gmx = s.gmx
  pln : u.pln = s.pln
  ser : u.ser = s.ser
  tuner : ∀ T', u.tun.get T' = (s.tun.viewed T service m f).get T'
  rep : u.rep = s.rep.posted ⟨.viewGranted, some T, if joined then 1 else 2, s.clk.counter, service, (m : Nat)⟩

theorem State.viewGranted_shown (s : State) (T : Tuner) (joined : Bool) (service m f : Nat) :
    s.ViewShown (s.viewGranted T joined service m f) T joined service m f := by
  have hnoted := s.viewNoted_eq T joined service m f
  have hcalm := s.viewNoted_calm T joined service m f
  change s.ViewShown (if _ then (s.viewNoted T joined service m f).followHold else s.viewNoted T joined service m f) T joined
    service m f
  split
  · exact ⟨hcalm.trans (State.followHold_calm _), by rw [State.followHold_rst, hnoted], by rw [State.followHold_gmx, hnoted],
      by rw [State.followHold_pln, hnoted], by rw [State.followHold_ser, hnoted],
      fun T' => by rw [State.followHold_tun, hnoted]; cases T' <;> rfl, by rw [State.followHold_rep, hnoted]⟩
  · exact ⟨hcalm, by rw [hnoted], by rw [hnoted], by rw [hnoted], by rw [hnoted], fun T' => by rw [hnoted], by rw [hnoted]⟩

theorem State.ViewShown.runWork {s u : State} {T : Tuner} {joined : Bool} {service m f : Nat}
    (h : s.ViewShown u T joined service m f) : s.RunWork u :=
  h.calm.runWork h.rst h.gmx h.pln (by rw [h.rep]; exact Rep.posted_lost _ _)

/-! ### The viewer's obligation -/

theorem argOk_view {v : BitVec 16} (h0 : v ≠ 0) (hf : v ≠ 0xFFFF) : argOk (.view v) = true := by
  simp only [argOk, ne_eq, Bool.and_eq_true, decide_eq_true_eq]
  exact ⟨h0, hf⟩

/-- A post over the absorbed program. -/
theorem State.postNow_cut (s : State) (code : Byte) (k : NoticeKind) (t : Option Tuner) (d : Int) (r : Nat) (a : Int) :
    (s.clearPorts.cut code).postNow k t d r a = (s.postNow k t d r a).clearPorts.cut code := by
  rw [State.postNow, State.postNow, State.post_posted, State.post_posted]
  rfl

section
variable {s : State} {e : ClassEntry} {v : BitVec 16} (h : s.Listening) (he : s.fpx.classTable.firstOf .program = some e)
  (h0 : v ≠ 0) (hf : v ≠ 0xFFFF)
include h he h0 hf

/-- A refused VIEW only posts its notice. -/
theorem exec_view_refused {d : Int}
    (hwork : (s.clearPorts.cut e.code).doView v.toNat = (s.clearPorts.cut e.code).postNow .viewRefused none d v.toNat 0) :
    exec (.view v) s = .next ((s.post ⟨.viewRefused, none, d, s.clk.counter, v.toNat, 0⟩).answered e.code 0x07 .ok) := by
  have hcut : (s.clearPorts.cut e.code).commandWork (.view v) =
      (.ok, (s.postNow .viewRefused none d v.toNat 0).clearPorts.cut e.code) := by
    rw [State.commandWork, hwork, State.postNow_cut]
  exact (exec_row_worked h he (c := .view v) (argOk_view h0 hf) (fun _ => rfl) hcut).trans
    (congrArg _ (State.complete_disarm _ e.code 0x07 .ok))

end

/-- The conditions on a tuner of the mode by its place in the order. -/
theorem State.chooseView_order (s : State) (m f : Nat) :
    let present := fun (T : Tuner) => s.rst.inForce.tuner.mode = .single → T = .A
    let joins := fun (T : Tuner) => present T ∧ s.viewJoins m f T = true
    let takes := fun (T : Tuner) => present T ∧ s.viewTakes m f T = true
    let first := viewFirst s.rst.inForce.tuner s.tun
    let second := otherTuner first
    (joins first → s.chooseView m f = some (first, true))
    ∧ (¬ joins first → joins second → s.chooseView m f = some (second, true))
    ∧ ((∀ T, ¬ joins T) → takes first → s.chooseView m f = some (first, false))
    ∧ ((∀ T, ¬ joins T) → ¬ takes first → takes second → s.chooseView m f = some (second, false))
    ∧ ((∀ T, ¬ joins T) → (∀ T, ¬ takes T) → s.chooseView m f = none) := by
  intro present joins takes first second
  rw [State.chooseView_eq, find_viewOrder, find_viewOrder]
  refine ⟨fun h1 => ?_, fun h1 h2 => ?_, fun hn h1 => ?_, fun hn h1 h2 => ?_, fun hn hn' => ?_⟩
  · rw [if_pos h1]
    rfl
  · rw [if_neg h1, if_pos h2]
    rfl
  · rw [if_neg (hn first), if_neg (hn second), if_pos h1]
    rfl
  · rw [if_neg (hn first), if_neg (hn second), if_neg h1, if_pos h2]
    rfl
  · rw [if_neg (hn first), if_neg (hn second), if_neg (hn' first), if_neg (hn' second)]
    rfl

/-- Settles O34: a VIEW by its service and the chosen tuner, the choice by the order's search, VIEW_END by the hold. -/
theorem viewerHoldIsGrantedAndReleased : Obligations.ViewerHoldIsGrantedAndReleased := by
  unfold Obligations.ViewerHoldIsGrantedAndReleased
  refine ⟨fun s e v h he h0 hf => ⟨fun hnone => ?_, fun sv hsv hnone => ?_, fun sv T joined hsv hchosen => ?_⟩,
    fun s m f => ?_, fun s e h he => ⟨fun hnone => ?_, fun T hT => ?_⟩⟩
  · refine exec_view_refused h he h0 hf ?_
    rw [State.doView, show (s.clearPorts.cut e.code).service v.toNat = none from hnone]
  · refine exec_view_refused h he h0 hf ?_
    rw [State.doView, show (s.clearPorts.cut e.code).service v.toNat = some sv from hsv]
    simp only [show (s.clearPorts.cut e.code).chooseView sv.multiplex sv.feed = none from hnone]
  · let cut := s.clearPorts.cut e.code
    have hchosen' : cut.chooseView sv.multiplex sv.feed = some (T, joined) := hchosen
    have hm := State.chooseView_streams hchosen'
    have hwork : cut.commandWork (.view v) = (.ok, if s.tun.viewerTuner ≠ some T then
        (cut.viewGranted T joined v.toNat sv.multiplex sv.feed).trigger
        else cut.viewGranted T joined v.toNat sv.multiplex sv.feed) := by
      rw [State.commandWork, State.doView, show cut.service v.toNat = some sv from hsv]
      simp only [hchosen', State.grantView_eq]
      rfl
    have hexec := exec_row_worked h he (c := .view v) (argOk_view h0 hf) (fun _ => rfl) hwork
    have hshown := cut.viewGranted_shown T joined v.toNat sv.multiplex sv.feed
    have hself := hshown.tuner T
    have hother := hshown.tuner (otherTuner T)
    rw [Tun.viewed_self] at hself
    rw [Tun.viewed_other] at hother
    refine ⟨_, hexec, hshown.calm.rework.ports, hshown.runWork.of_cut, ?_, ?_, ?_, ?_, hother, ?_, hshown.ser, fun hfresh => ?_,
      fun hheld hmux => ?_⟩
    · rw [hself, TunerRec.takeViewer_viewer]
    · rw [hself, TunerRec.takeViewer_streams]
      rfl
    · rw [hself, TunerRec.takeViewer_multiplex hm]
    · rw [hself, TunerRec.takeViewer_feed]
      rfl
    · rw [hshown.rep, State.post_rep]
      rfl
    · rw [State.viewGranted_followed hm hfresh, State.followHold_tun, State.followHold_run, State.viewNoted_eq]
      exact ⟨rfl, rfl⟩
    · rw [State.viewGranted_kept hm (not_not.1 hheld) hmux, State.viewNoted_eq]
      exact ⟨Tun.viewed_warned _ _ _ _ _, rfl, rfl⟩
  · have hjoins : ∀ T, s.viewJoins m f T = true ↔ (s.tun.get T).releaseViewer.state ≠ .idle
        ∧ (s.tun.get T).releaseViewer.multiplex = some m ∧ (s.rst.inForce.tuner.mode ≠ .twinLooped
          ∨ (s.tun.get (otherTuner T)).releaseViewer.state = .idle ∨ (s.tun.get (otherTuner T)).releaseViewer.feed = some f) :=
      fun T => by
        simp only [State.viewJoins, Bool.and_eq_true, decide_eq_true_eq, viewLoopOk_iff, and_assoc]
        rfl
    have htakes : ∀ T, s.viewTakes m f T = true ↔ (s.tun.get T).releaseViewer.state = .idle
        ∧ (s.rst.inForce.tuner.mode ≠ .twinLooped ∨ (s.tun.get (otherTuner T)).releaseViewer.state = .idle
          ∨ (s.tun.get (otherTuner T)).releaseViewer.feed = some f)
        ∧ ∀ w ∈ s.run.waiting, w.tuner = T →
            w.wstart ≤ min (s.clk.counter + s.rst.inForce.schedule.warningLead) 0xFFFFFFFF →
            ∀ sv, s.service w.service = some sv → sv.multiplex = m := fun T => by
        simp only [State.viewTakes, Bool.and_eq_true, Bool.not_eq_true', decide_eq_true_eq, viewLoopOk_iff, State.takenSoon_iff]
        exact and_right_comm.trans and_assoc
    have horder := s.chooseView_order m f
    simp only [hjoins, htakes] at horder
    exact horder
  · let cut := s.clearPorts.cut e.code
    have hwork : cut.commandWork .viewEnd = (.ok, cut) := by
      rw [State.commandWork, State.doViewEnd, show cut.tun.viewerTuner = none from hnone]
    exact exec_row_answered h he (c := .viewEnd) rfl (fun _ => rfl) hwork
  · let cut := s.clearPorts.cut e.code
    let freed : State := { cut with tun := cut.tun.set T (cut.tun.get T).releaseViewer }
    have hwork : cut.commandWork .viewEnd = (.ok, freed.followHold.trigger) := by
      rw [State.commandWork, State.doViewEnd, show cut.tun.viewerTuner = some T from hT]
      rfl
    have hexec := exec_row_worked h he (c := .viewEnd) rfl (fun _ => rfl) hwork
    have hcalm : Calm cut freed.followHold := (Calm.of_tun cut _).trans freed.followHold_calm
    refine ⟨_, hexec, hcalm.rework.ports, State.RunWork.of_cut (hcalm.runWork freed.followHold_rst freed.followHold_gmx
      freed.followHold_pln (by rw [freed.followHold_rep]; exact .inl rfl)), freed.followHold_tun, ?_, freed.followHold_run,
      freed.followHold_ser, freed.followHold_rep⟩
    rw [freed.followHold_tun]
    have hget : Tun.get { freed.tun with warned := [] } T = freed.tun.get T := by cases T <;> rfl
    rw [hget]
    change ((cut.tun.set T (cut.tun.get T).releaseViewer).get T).viewer = none
    rw [Tun.get_set_same, TunerRec.releaseViewer_viewer]

/-! ### LEND and STANDBY -/

/-- The path lent from now on (R155). -/
def State.lentPath (s : State) (ms : Nat) : State :=
  { s with fpx := { s.fpx with owner := .k240, firstPoll := none, gaveUp := false, lend := some ⟨s.clk.crystal, ms, 0, false⟩ } }

/-- The lend begins with the work there is, or ends DONE at once (R155). -/
theorem State.beginLend_eq {s : State} (hp : s.pwc.power = .run) (ms : Nat) :
    s.beginLend ms = if s.nextWork = none then (s.lentPath ms).endLend .done else s.lentPath ms := by
  have hwork : (s.lentPath ms).nextWork = s.nextWork := rfl
  have hpower : (s.lentPath ms).pwc.power = .run := hp
  have hlend : (s.lentPath ms).fpx.lend = some ⟨s.clk.crystal, ms, 0, false⟩ := rfl
  change (s.lentPath ms).afterWork = _
  rw [State.afterWork, hpower, hlend]
  simp only [hwork, Option.isNone_iff_eq_none, Bool.false_eq_true, if_false]

/-- A heard command over the work and what follows it. -/
theorem exec_row_followed {s : State} {e : ClassEntry} (h : s.Listening) (he : s.fpx.classTable.firstOf .program = some e)
    {c : Command} (hok : argOk c = true)
    (hwork : (s.clearPorts.cut e.code).commandWork c = (.ok, s.clearPorts.cut e.code)) :
    exec c.row s = .next ((((s.clearPorts.cut e.code).complete (commandCode c) .ok).afterCommand c).disarm) := by
  rw [exec_row_heard h he, State.runCommand_ok hok, hwork]

/-- Settles O35: the lend with and without work, and the entry into STANDBY over the completed command. -/
theorem lendAndStandbyGiveThePath : Obligations.LendAndStandbyGiveThePath := by
  unfold Obligations.LendAndStandbyGiveThePath
  refine ⟨fun s e ms h he hlow hhigh hp => ?_, fun s e h he hl => ?_⟩
  · have hok : argOk (.lend ms) = true := by simp [argOk, hlow, hhigh]
    have hexec := exec_row_followed h he (c := .lend ms) hok rfl
    let done := (s.clearPorts.cut e.code).complete 0x0A .ok
    have hdone : done = (s.clearPorts.cut e.code).complete 0x0A .ok := rfl
    have hpower : done.pwc.power = .run := (congrArg Pwc.power (State.complete_pwc _ _ _)).trans hp
    have hwork : done.nextWork = s.nextWork := by
      rw [hdone, State.complete_eq]
      rfl
    have hfollow : (done.afterCommand (.lend ms)) = done.beginLend ms.toNat := rfl
    have hlent : (done.lentPath ms.toNat).disarm = { s.answered e.code 0x0A .ok with
        fpx := { (s.answered e.code 0x0A .ok).fpx with
          owner := .k240, firstPoll := none, gaveUp := false, lend := some ⟨s.clk.crystal, ms.toNat, 0, false⟩ } } := by
      rw [hdone, State.complete_eq]
      rfl
    refine ⟨fun hnext => ?_, fun hnext => ?_⟩
    · refine hexec.trans (congrArg _ ?_)
      change (done.beginLend ms.toNat).disarm = _
      rw [State.beginLend_eq hpower, hwork, if_neg hnext, hlent]
    · refine hexec.trans (congrArg _ ?_)
      change (done.beginLend ms.toNat).disarm = _
      have hlend : (done.lentPath ms.toNat).fpx.lend = some ⟨done.clk.crystal, ms.toNat, 0, false⟩ := rfl
      rw [State.beginLend_eq hpower, hwork, if_pos hnext, State.endLend_eq hlend, State.post_posted, State.post_posted, hdone,
        State.complete_eq]
      rfl
  · let done := (s.clearPorts.cut e.code).complete 0x0B .ok
    have hexec : exec .standby s = .next done.enterStandby.disarm := exec_row_followed h he (c := .standby) rfl rfl
    have hrests := State.enterStandby_rests done
    have htaken : done.standbyPath = done.takePath :=
      State.standbyPath_taken ((congrArg Fpx.lend (State.complete_fpx _ _ _)).trans hl)
    have hanswered : done.disarm = s.answered e.code 0x0B .ok := State.complete_disarm s e.code 0x0B .ok
    refine ⟨_, hexec, hrests.power, ?_, ?_, ?_, ?_, ?_, ?_, ?_, ?_, ?_, ?_⟩
    · exact hrests.owner.trans (by rw [htaken]; rfl)
    · exact hrests.socrst.trans (congrArg Pwc.socrst (State.complete_pwc _ _ _))
    · exact hrests.rep.trans (by rw [htaken]; exact (congrArg State.rep hanswered :))
    · exact hrests.run.trans (State.complete_run _ _ _)
    · exact hrests.tun.trans (State.complete_tun _ _ _)
    · exact hrests.rst.trans (State.complete_rst _ _ _)
    · exact hrests.gmx.trans (State.complete_gmx _ _ _)
    · exact hrests.pins.trans (State.complete_pins _ _ _)
    · exact hrests.counter.trans (congrArg Clk.counter (State.complete_clk _ _ _))
    · exact hrests.pln.trans (State.complete_pln _ _ _)

end Sys2Proof.Machine

/-! PROOFS. The compare events of the run engine (6.3, 6.4) with one due entry or run, and with any number of due runs. -/

namespace Sys2Proof.Machine

/-! ### An event that is taken -/

/-- The machine once an event has been taken from the waiting ones. -/
def State.taken (s : State) (rest : List CompareEvent) : State :=
  { s with ports := ⟨[], []⟩, clk := { s.clk with events := rest } }

theorem State.takeEvent_taken {s : State} {c : Channel} {ev : CompareEvent} {rest : List CompareEvent}
    (h : takeFirst c s.clk.events = some (ev, rest)) (act : CompareEvent → State → State) :
    s.clearPorts.takeEvent c act = act ev (s.taken rest) := by
  rw [State.takeEvent, show takeFirst c s.clearPorts.clk.events = some (ev, rest) from h]
  rfl

/-- Taking the event shows in the clock's events and the ports only. -/
theorem State.RunWork.of_taken {s u : State} {rest : List CompareEvent} (h : (s.taken rest).RunWork u) : s.RunWork u :=
  ⟨h.pins, h.fpx, h.rst, h.gmx, h.pln, h.pwc, h.scanRequest, h.clk, h.rep, h.lost⟩

theorem exec_startEvent {s : State} {T : Tuner} {ev : CompareEvent} {rest : List CompareEvent} (hv : s.pins.vdd = true)
    (h : takeFirst (.start T) s.clk.events = some (ev, rest)) :
    exec (.startEvent T) s = .next ((s.taken rest).startDue State.trigger T ev.time).dormantTest := by
  change Host.Outcome.next (s.powered _) = _
  rw [State.powered_of_vdd hv, State.takeEvent_taken h]

theorem exec_stopEvent {s : State} {T : Tuner} {ev : CompareEvent} {rest : List CompareEvent} (hv : s.pins.vdd = true)
    (h : takeFirst (.stop T) s.clk.events = some (ev, rest)) :
    exec (.stopEvent T) s = .next ((s.taken rest).stopDue State.trigger T ev.time).dormantTest := by
  change Host.Outcome.next (s.powered _) = _
  rw [State.powered_of_vdd hv, State.takeEvent_taken h]

theorem exec_confirmEvent {s : State} {ev : CompareEvent} {rest : List CompareEvent} (hv : s.pins.vdd = true)
    (h : takeFirst .confirm s.clk.events = some (ev, rest)) :
    exec .confirmEvent s = .next ((s.taken rest).confirmDue State.trigger ev.time).dormantTest := by
  change Host.Outcome.next (s.powered _) = _
  rw [State.powered_of_vdd hv, State.takeEvent_taken h]

/-! ### The end of a waiting entry -/

/-- An entry that ends MISSED, up to its trigger (R113, R118). -/
def State.missed (s : State) (w : WaitingEntry) (reason : MissReason) (at_ : Nat) : State :=
  ((s.left w (.missed reason) (some at_)).post ⟨.missed, some w.tuner, reason.code, at_, w.ref, (w.wstart : Nat)⟩).reloadRunChannels

theorem State.endWaiting_eq (s : State) (w : WaitingEntry) (reason : MissReason) (at_ : Nat) :
    s.endWaiting State.trigger w reason at_ = (s.missed w reason at_).trigger := rfl

theorem State.missed_calm (s : State) (w : WaitingEntry) (reason : MissReason) (at_ : Nat) : Calm s (s.missed w reason at_) :=
  ((s.left_calm w _ _).trans (State.post_calm _ _)).trans (State.reloadRunChannels_calm _)

/-- What a MISSED entry leaves, but for the channels. -/
structure State.Missed (s u : State) (w : WaitingEntry) (reason : MissReason) (at_ : Nat) : Prop where
  work : s.RunWork u
  tun : u.tun = s.tun
  ser : u.ser = s.ser
  runs : u.run.runs = s.run.runs
  waiting : u.run.waiting = s.run.waiting.filter fun x => x.ref ≠ w.ref
  history : u.run.history = enterHistory s.run.history ⟨w.ref, .missed reason, some at_, w.wend⟩
  series : w.origin ≠ none → u.run.endStates = s.run.endStates
  manual : ∀ b, w.origin = none → s.booking w.ref = some b →
    u.run.endStates = enterEndState s.run.endStates ⟨w.ref, b.revision, .missed reason⟩
  notices : u.rep.notices = (s.post ⟨.missed, some w.tuner, reason.code, at_, w.ref, (w.wstart : Nat)⟩).rep.notices

theorem State.missed_leaves (s : State) (w : WaitingEntry) (reason : MissReason) (at_ : Nat) :
    s.Missed (s.missed w reason at_) w reason at_ := by
  have hleft := s.left_eq w (o := .missed reason) nofun (some at_)
  have hrun : (s.missed w reason at_).run = (s.left w (.missed reason) (some at_)).run := by
    rw [State.missed, State.reloadRunChannels_run, State.post_run]
  have hrep : (s.missed w reason at_).rep = s.rep.posted ⟨.missed, some w.tuner, reason.code, at_, w.ref, (w.wstart : Nat)⟩ := by
    rw [State.missed, State.reloadRunChannels_rep, State.post_rep, hleft]
  refine ⟨(s.missed_calm w reason at_).runWork ?_ ?_ ?_ ?_, ?_, ?_, ?_, ?_, ?_, fun ho => ?_, fun b ho hb => ?_, ?_⟩
  · rw [State.missed, State.reloadRunChannels_rst, State.post_rst, hleft]
  · rw [State.missed, State.reloadRunChannels_gmx, State.post_gmx, hleft]
  · rw [State.missed, State.reloadRunChannels_pln, State.post_pln, hleft]
  · rw [hrep]
    exact Rep.posted_lost _ _
  · rw [State.missed, State.reloadRunChannels_tun, State.post_tun, hleft]
  · rw [State.missed, State.reloadRunChannels_ser, State.post_ser, hleft]
  · rw [hrun, hleft]
  · rw [hrun, hleft]
  · rw [hrun, hleft]
  · rw [hrun, hleft]
    exact if_neg (by simpa using ho)
  · rw [hrun, hleft]
    simp only [ho, Option.isNone_none, if_true, State.bookingRevision_some hb]
  · rw [hrep, State.post_rep]

/-! ### START_EVENT -/

theorem State.hasTuner_iff (s : State) (T : Tuner) : s.hasTuner T = true ↔ (s.rst.inForce.tuner.mode = .single → T = .A) := by
  rw [State.hasTuner, List.contains_iff_mem, mem_tuners]

/-- The entry in STARTING, up to its trigger (R112). -/
def State.entered (s : State) (w : WaitingEntry) (sv : ServiceRec) (f : Nat) : State :=
  let r := s.newRun w sv f
  let s1 := s.dropWaiting w.ref
  State.post { s1 with run := { s1.run with runs := s1.run.runs ++ [r] } }
    ⟨.start, some w.tuner, if r.late then 1 else 0, f, w.ref, (r.windowEnd : Nat)⟩

/-- What the arbiter's answer leaves: the tuner records, the notices, and the channel WARN. -/
structure State.Arbitrated (s u : State) : Prop where
  calm : Calm s u
  eq : u = { s with tun := u.tun, rep := u.rep, clk := u.clk }
  lost : u.rep.sticky = s.rep.sticky ∨ u.rep.sticky = s.rep.sticky ||| 0x0002

theorem State.Arbitrated.newRun {s u : State} (h : s.Arbitrated u) (w : WaitingEntry) (sv : ServiceRec) (f : Nat) :
    u.newRun w sv f = s.newRun w sv f := by
  rw [h.eq]
  rfl

theorem State.entered_eq (s : State) (w : WaitingEntry) (sv : ServiceRec) (f : Nat) :
    s.entered w sv f = { s with
      run := { s.run with runs := s.run.runs ++ [s.newRun w sv f], waiting := s.run.waiting.filter fun x => x.ref ≠ w.ref }
      rep := s.rep.posted ⟨.start, some w.tuner, if (s.newRun w sv f).late then 1 else 0, f, w.ref,
        ((s.newRun w sv f).windowEnd : Nat)⟩ } :=
  State.post_posted _ _

theorem State.entered_calm (s : State) (w : WaitingEntry) (sv : ServiceRec) (f : Nat) : Calm s (s.entered w sv f) :=
  ((State.dropWaiting_calm s w.ref).trans (Calm.of_run
    (r := { (s.dropWaiting w.ref).run with runs := s.run.runs ++ [s.newRun w sv f] }) id id)).trans (State.post_calm _ _)

/-- NOTICE_LOST is raised once or not at all, however many notices are posted. -/
theorem lost_trans {x y z : BitVec 16} (h : y = x ∨ y = x ||| 0x0002) (k : z = y ∨ z = y ||| 0x0002) :
    z = x ∨ z = x ||| 0x0002 := by
  rcases h with rfl | rfl <;> rcases k with rfl | rfl
  · exact .inl rfl
  · exact .inr rfl
  · exact .inr rfl
  · exact .inr (by rw [BitVec.or_assoc, BitVec.or_self])

theorem State.Arbitrated.entered {s u : State} (h : s.Arbitrated u) (w : WaitingEntry) (sv : ServiceRec) (f : Nat) :
    s.RunWork (u.entered w sv f) := by
  refine (h.calm.trans (u.entered_calm w sv f)).runWork ?_ ?_ ?_ ?_
  · rw [State.entered_eq]
    exact (congrArg State.rst h.eq :)
  · rw [State.entered_eq]
    exact (congrArg State.gmx h.eq :)
  · rw [State.entered_eq]
    exact (congrArg State.pln h.eq :)
  · rw [State.entered_eq]
    exact lost_trans h.lost (Rep.posted_lost _ _)

/-- The records under an eviction, with VIEW_LOST (R130). -/
def State.evicted (s : State) (T : Tuner) (ref m fd f : Nat) : State :=
  ((State.post { s with tun := s.tun.set T ((s.tun.get T).evict m fd) }
    ⟨.viewLost, some T, 1, f, ref, ((s.tun.get T).viewer.getD 0 : Nat)⟩).emptyWarned.reloadWarn)

theorem State.reloadWarn_clkOnly (s : State) : s.reloadWarn = { s with clk := s.reloadWarn.clk } := by
  unfold State.reloadWarn
  cases leastOf (s.threatened.map s.warningTime) <;> rfl

theorem State.evicted_eq (s : State) (T : Tuner) (ref m fd f : Nat) :
    s.evicted T ref m fd f = { s with
      tun := { s.tun.set T ((s.tun.get T).evict m fd) with warned := [] }
      rep := s.rep.posted ⟨.viewLost, some T, 1, f, ref, ((s.tun.get T).viewer.getD 0 : Nat)⟩
      clk := (s.evicted T ref m fd f).clk } := by
  conv_lhs => rw [State.evicted, State.reloadWarn_clkOnly, State.post_posted]
  rw [State.evicted, State.post_posted]
  rfl

theorem State.evicted_arbitrated (s : State) (T : Tuner) (ref m fd f : Nat) : s.Arbitrated (s.evicted T ref m fd f) where
  calm := (((Calm.of_tun s _).trans (State.post_calm _ _)).trans (State.emptyWarned_calm _)).trans (State.reloadWarn_calm _)
  eq := by
    conv_lhs => rw [State.evicted_eq]
    conv_rhs => rw [State.evicted_eq]
  lost := by
    rw [State.evicted_eq]
    exact Rep.posted_lost _ _

/-- The grant of a stream (R128, R129). -/
def State.granted (s : State) (T : Tuner) (m fd : Nat) : State := { s with tun := s.tun.set T ((s.tun.get T).grant m fd) }

theorem State.granted_arbitrated (s : State) (T : Tuner) (m fd : Nat) : s.Arbitrated (s.granted T m fd) where
  calm := Calm.of_tun s _
  eq := rfl
  lost := .inl rfl

/-- The blocked mark a refused start takes (R113). -/
def State.refused (s : State) (w : WaitingEntry) (cause : Cause) : State :=
  { s with run := { s.run with waiting := s.run.waiting.map fun x => if x.ref = w.ref then { x with blocked := some cause } else x } }

theorem State.refused_runWork (s : State) (w : WaitingEntry) (cause : Cause) : s.RunWork (s.refused w cause) :=
  ⟨rfl, rfl, rfl, rfl, rfl, rfl, rfl, rfl, rfl, .inl rfl⟩

section
variable {s : State} {w : WaitingEntry} {f : Nat}

theorem State.startEntry_late (h : w.wend ≤ f) :
    s.startEntry State.trigger f w = if s.hasTuner w.tuner then (s.missed w .late f).trigger else s := if_pos h

variable (h : f < w.wend)
include h

theorem State.startEntry_unknown (hsv : s.service w.service = none) :
    s.startEntry State.trigger f w = (s.refused w .tuner).trigger := by
  rw [State.startEntry, if_neg (Nat.not_le.2 h), hsv]
  rfl

variable {sv : ServiceRec} (hsv : s.service w.service = some sv)
include hsv

theorem State.startEntry_refused {cause : Cause}
    (hj : judgeRequest s.rst.inForce.tuner s.tun w.tuner sv.multiplex sv.feed = .refused cause) :
    s.startEntry State.trigger f w = (s.refused w cause).trigger := by
  have hr : s.requestStream w.tuner w.ref sv.multiplex sv.feed f = (.refused cause, s) := by
    simp only [State.requestStream, hj]
  rw [State.startEntry, if_neg (Nat.not_le.2 h), hsv]
  simp only [hr]
  rfl

theorem State.startEntry_granted (hj : judgeRequest s.rst.inForce.tuner s.tun w.tuner sv.multiplex sv.feed = .granted) :
    s.startEntry State.trigger f w = ((s.granted w.tuner sv.multiplex sv.feed).entered w sv f).trigger := by
  have hr : s.requestStream w.tuner w.ref sv.multiplex sv.feed f = (.granted, s.granted w.tuner sv.multiplex sv.feed) := by
    simp only [State.requestStream, hj]
    rfl
  rw [State.startEntry, if_neg (Nat.not_le.2 h), hsv]
  simp only [hr]
  rfl

theorem State.startEntry_evicts (hj : judgeRequest s.rst.inForce.tuner s.tun w.tuner sv.multiplex sv.feed = .evicts) :
    s.startEntry State.trigger f w = ((s.evicted w.tuner w.ref sv.multiplex sv.feed f).entered w sv f).trigger := by
  have hr : s.requestStream w.tuner w.ref sv.multiplex sv.feed f =
      (.evicts, s.evicted w.tuner w.ref sv.multiplex sv.feed f) := by
    simp only [State.requestStream, hj]
    rfl
  rw [State.startEntry, if_neg (Nat.not_le.2 h), hsv]
  simp only [hr]
  rfl

end

/-- One due entry: the event's work is that of the entry. -/
theorem State.startDue_one {s : State} {T : Tuner} {f : Nat} {w : WaitingEntry} (hdue : s.run.dueStarts T f = [w])
    (hw : s.waitingOf w.ref = some w) :
    s.startDue State.trigger T f = (s.startEntry State.trigger f w).reloadRunChannels ∧ w.tuner = T := by
  have hmem : w ∈ s.run.dueStarts T f := by
    rw [hdue]
    exact List.mem_singleton_self w
  have hfound := (List.mem_filter.1 ((sortBy_perm _ _).mem_iff.1 hmem)).2
  simp only [Bool.and_eq_true, decide_eq_true_eq] at hfound
  obtain ⟨⟨hT, hfree⟩, -⟩ := hfound
  refine ⟨?_, hT⟩
  rw [State.startDue, hdue]
  change State.reloadRunChannels (s.startIfWaiting State.trigger f w.ref) = _
  rw [State.startIfWaiting, hw]
  simp only [hfree, if_true]

/-- The values a started run takes (R108, R112). -/
theorem State.newRun_manual {s : State} {w : WaitingEntry} {sv : ServiceRec} {f : Nat} {b : BookingRec} (ho : w.origin = none)
    (hb : s.booking w.ref = some b) :
    (s.newRun w sv f).kind = .manual b.revision ∧ (s.newRun w sv f).recStart = b.start
      ∧ (s.newRun w sv f).recService = b.service := by
  have hrec : s.recordOf w = some (b.start, b.service) := by
    rw [State.recordOf, ho, hb]
    rfl
  simp [State.newRun, hrec, ho, State.bookingRevision_some hb]

theorem State.newRun_series {s : State} {w : WaitingEntry} {sv : ServiceRec} {f : Nat} {o : Origin} {v : Event}
    (ho : w.origin = some o) (hv : s.effectiveEvent (w.ref - 0x80000000) = some v) :
    (s.newRun w sv f).kind = .series (w.ref - 0x80000000) o ∧ (s.newRun w sv f).recStart = v.start
      ∧ (s.newRun w sv f).recService = v.service := by
  have hrec : s.recordOf w = some (v.start, v.service) := by
    rw [State.recordOf, ho, hv]
    rfl
  simp [State.newRun, hrec, ho]

/-- A started entry's run, by the records as the event found them (R112). -/
theorem State.Arbitrated.started {s u : State} (h : s.Arbitrated u) (w : WaitingEntry) (sv : ServiceRec) (f : Nat) :
    let r := s.newRun w sv f
    (u.entered w sv f).run = { s.run with runs := s.run.runs ++ [r], waiting := s.run.waiting.filter fun x => x.ref ≠ w.ref }
      ∧ r.ref = w.ref ∧ r.tuner = w.tuner ∧ r.service = w.service ∧ r.multiplex = sv.multiplex ∧ r.feed = sv.feed
      ∧ r.state = .starting ∧ r.actualStart = f
      ∧ r.deadline = some (min (f + s.rst.inForce.schedule.confirmTimeout) 0xFFFFFFFF)
      ∧ r.late = decide (r.recStart < f) ∧ r.windowEnd = (s.windowEndOf r).getD w.wend
      ∧ (∀ b, w.origin = none → s.booking w.ref = some b →
          r.kind = .manual b.revision ∧ r.recStart = b.start ∧ r.recService = b.service)
      ∧ (∀ o v, w.origin = some o → s.effectiveEvent (w.ref - 0x80000000) = some v →
          r.kind = .series (w.ref - 0x80000000) o ∧ r.recStart = v.start ∧ r.recService = v.service) := by
  have hrun : (u.entered w sv f).run = { s.run with
      runs := s.run.runs ++ [s.newRun w sv f], waiting := s.run.waiting.filter fun x => x.ref ≠ w.ref } := by
    rw [State.entered_eq, h.newRun]
    exact (congrArg (fun v : State => { v.run with
      runs := v.run.runs ++ [s.newRun w sv f], waiting := v.run.waiting.filter fun x => x.ref ≠ w.ref }) h.eq :)
  exact ⟨hrun, rfl, rfl, rfl, rfl, rfl, rfl, rfl, rfl, rfl, rfl, fun _ => State.newRun_manual, fun _ _ => State.newRun_series⟩

/-- The notices of a started entry follow those of the arbiter. -/
theorem State.Arbitrated.startNotices {s u : State} (h : s.Arbitrated u) (w : WaitingEntry) (sv : ServiceRec) (f : Nat) :
    (u.entered w sv f).rep = u.rep.posted ⟨.start, some w.tuner, if (s.newRun w sv f).late then 1 else 0, f, w.ref,
      ((s.newRun w sv f).windowEnd : Nat)⟩ := by
  rw [State.entered_eq, h.newRun]

/-- The grant's record (R128, R129). -/
theorem TunerRec.grant_eq (r : TunerRec) (m fd : Nat) :
    r.grant m fd = if r.state = .idle then ⟨some m, some fd, r.streams + 1, none⟩ else { r with streams := r.streams + 1 } := by
  unfold TunerRec.grant
  split
  · next hidle =>
    have hviewer := ((TunerRec.state_eq_idle r).1 hidle).2
    rw [hviewer]
  · rfl

theorem Tun.get_emptied (t : Tun) (T : Tuner) : Tun.get { t with warned := [] } T = t.get T := by cases T <;> rfl

/-- Settles O37: the one due entry by its window end, its service and the arbiter's judgment. -/
theorem startEventTakesTheDueEntry : Obligations.StartEventTakesTheDueEntry := by
  unfold Obligations.StartEventTakesTheDueEntry
  intro s T ev rest w hv htaken hdue hw
  let u := s.taken rest
  have hdue' : u.run.dueStarts T ev.time = [w] := hdue
  have hw' : u.waitingOf w.ref = some w := hw
  obtain ⟨hone, rfl⟩ := State.startDue_one hdue' hw'
  have hexec := exec_startEvent hv htaken
  rw [hone] at hexec
  refine ⟨fun sv hlate hsv hj => ?_, fun sv v hlate hsv hview hj => ?_, fun cause hlate hcause => ?_, fun hlate htuner => ?_,
    fun hlate hmode htuner => ?_⟩
  · rw [State.startEntry_granted (s := u) hlate hsv hj] at hexec
    have harb := u.granted_arbitrated w.tuner sv.multiplex sv.feed
    have hstarted := harb.started w sv ev.time
    obtain ⟨hrun, href, hT, hsv', hm, hfd, hst, hact, hdl, hl, hwe, hman, hser⟩ := hstarted
    refine ⟨_, u.newRun w sv ev.time, ⟨hexec, ?_, (harb.entered w sv ev.time).of_taken⟩,
      ⟨hrun, href, hT, hsv', hm, hfd, hst, hact, hdl, hl, hwe, hman, hser, ?_, ?_⟩, ?_, ?_, ?_⟩
    · rw [State.entered_eq]
      rfl
    · rw [State.entered_eq]
      exact Tun.get_set_ne _ (otherTuner_ne _) _
    · rw [State.entered_eq]
      rfl
    · rw [State.entered_eq]
      exact Tun.set_warned _ _ _
    · rw [State.entered_eq]
      exact (Tun.get_set_same _ _ _).trans (TunerRec.grant_eq _ _ _)
    · rw [harb.startNotices, State.post_rep]
      rfl
  · rw [State.startEntry_evicts (s := u) hlate hsv hj] at hexec
    have harb := u.evicted_arbitrated w.tuner w.ref sv.multiplex sv.feed ev.time
    have heq := u.evicted_eq w.tuner w.ref sv.multiplex sv.feed ev.time
    have hstarted := harb.started w sv ev.time
    obtain ⟨hrun, href, hT, hsv', hm, hfd, hst, hact, hdl, hl, hwe, hman, hser⟩ := hstarted
    refine ⟨_, u.newRun w sv ev.time, ⟨hexec, ?_, (harb.entered w sv ev.time).of_taken⟩,
      ⟨hrun, href, hT, hsv', hm, hfd, hst, hact, hdl, hl, hwe, hman, hser, ?_, ?_⟩, ?_, ?_, ?_⟩
    · rw [State.entered_eq, heq]
      rfl
    · rw [State.entered_eq, heq]
      exact (Tun.get_emptied _ _).trans (Tun.get_set_ne _ (otherTuner_ne _) _)
    · rw [State.entered_eq, heq]
      rfl
    · rw [State.entered_eq, heq]
    · rw [State.entered_eq, heq]
      exact (Tun.get_emptied _ _).trans (Tun.get_set_same _ _ _)
    · have hviewer : (u.tun.get w.tuner).viewer.getD 0 = v := by rw [show (u.tun.get w.tuner).viewer = some v from hview]; rfl
      rw [harb.startNotices, heq, hviewer, State.post_rep, State.post_rep]
      rfl
  · have hrefused : u.startEntry State.trigger ev.time w = (u.refused w cause).trigger := by
      rcases hcause with ⟨hsv, rfl⟩ | ⟨sv, hsv, hj⟩
      · exact State.startEntry_unknown (s := u) hlate hsv
      · exact State.startEntry_refused (s := u) hlate hsv hj
    rw [hrefused] at hexec
    exact ⟨_, ⟨hexec, rfl, (u.refused_runWork w cause).of_taken⟩, rfl, rfl, rfl, rfl⟩
  · have hhas : u.hasTuner w.tuner = true := (State.hasTuner_iff u w.tuner).2 htuner
    rw [State.startEntry_late (s := u) hlate, if_pos hhas] at hexec
    have hleaves := u.missed_leaves w .late ev.time
    exact ⟨_, ⟨hexec, (u.missed_calm w .late ev.time).rework.ports, hleaves.work.of_taken⟩, hleaves.tun, hleaves.ser, hleaves.runs,
      hleaves.waiting, hleaves.history, hleaves.series, hleaves.manual, by rw [hleaves.notices, State.post_rep, State.post_rep]; rfl⟩
  · have hhas : ¬ u.hasTuner w.tuner = true := fun h => by
      have hA := (State.hasTuner_iff u w.tuner).1 h hmode
      rw [htuner] at hA
      cases hA
    rw [State.startEntry_late (s := u) hlate, if_neg hhas] at hexec
    exact hexec

end Sys2Proof.Machine

/-! PROOFS. STOP_EVENT and CONFIRM_EVENT (6.4). -/

namespace Sys2Proof.Machine

/-! ### Ends while a replan is RUNNING -/

section
variable {s : State} (h : s.pln.snapshot.isSome = true)
include h

/-- With a replan RUNNING a trigger leaves the runs (R83). -/
theorem State.trigger_run : s.trigger.run = s.run := by rw [State.trigger_running s h]; rfl

theorem State.trigger_still_running : s.trigger.pln.snapshot.isSome = true := by rw [State.trigger_running s h]; exact h

/-- An end, and whatever follows it, takes the run's ref off the run table and no other. -/
theorem State.endRun_runs (r : ActiveRun) (o : RunOutcome) (stop : Nat) :
    (s.endRun State.trigger r o stop).run.runs = s.run.runs.filter fun x => x.ref ≠ r.ref := by
  have hended : (s.ended r o stop).run.runs = s.run.runs.filter fun x => x.ref ≠ r.ref := by rw [State.ended_eq]
  have hsnap : (s.ended r o stop).pln.snapshot.isSome = true := by rw [State.ended_eq]; exact h
  rw [State.endRun_eq]
  split
  · rw [State.applyDeferred]
    split
    · rw [State.trigger_run (by rw [State.reloadRunChannels_pln]; exact hsnap), State.reloadRunChannels_run, hended]
    · next g _ =>
      have hgroup : ((s.ended r o stop).appliedGroup g).pln.snapshot.isSome = true := by rw [State.appliedGroup_pln]; exact hsnap
      change (State.reloadRunChannels ((s.ended r o stop).appliedGroup g).trigger).trigger.run.runs = _
      rw [State.trigger_run (by rw [State.reloadRunChannels_pln]; exact State.trigger_still_running hgroup),
        State.reloadRunChannels_run, State.trigger_run hgroup, State.appliedGroup_runs, hended]
  · rw [State.trigger_run (by rw [State.reloadRunChannels_pln]; exact hsnap), State.reloadRunChannels_run, hended]

/-- A due run's turn takes its ref off the run table, active or not. -/
theorem State.endIfActive_runs (ref : Nat) (o : ActiveRun → RunOutcome) (stop : Nat) :
    (s.endIfActive State.trigger ref o stop).run.runs = s.run.runs.filter fun x => x.ref ≠ ref := by
  unfold State.endIfActive
  split
  · next r hr =>
    have href : r.ref = ref := by simpa using List.find?_some hr
    rw [State.endRun_runs h, href]
  · next hnone =>
    refine (List.filter_eq_self.2 fun x hx => ?_).symm
    simpa using List.find?_eq_none.1 hnone x hx

theorem State.endIfActive_running (ref : Nat) (o : ActiveRun → RunOutcome) (stop : Nat) :
    (s.endIfActive State.trigger ref o stop).pln.snapshot.isSome = true := by
  obtain ⟨sn, hsn⟩ := Option.isSome_iff_exists.1 h
  have hcalm : Calm s (s.endIfActive State.trigger ref o stop) := by
    unfold State.endIfActive
    split
    · exact State.endRun_calm State.trigger_calm _ _ _ _
    · exact Calm.refl s
  rw [hcalm.held sn hsn]
  rfl

end

/-- The due runs, each in its turn. -/
theorem State.endDue_runs (due : List ActiveRun) (o : ActiveRun → RunOutcome) (stop : Nat) {s : State}
    (h : s.pln.snapshot.isSome = true) :
    (due.foldl (fun s r => s.endIfActive State.trigger r.ref o stop) s).run.runs =
      s.run.runs.filter fun x => !due.any fun r => r.ref = x.ref := by
  induction due generalizing s with
  | nil => simp
  | cons r rest ih =>
    rw [List.foldl_cons, ih (State.endIfActive_running h _ _ _), State.endIfActive_runs h, List.filter_filter]
    refine List.filter_congr fun x _ => ?_
    by_cases hx : r.ref = x.ref
    · simp [hx]
    · simp [hx, Ne.symm hx]

/-- Under the run law the runs whose refs are due are the due runs. -/
theorem State.RunLaw.filter_due {s : State} (h : s.RunLaw) {p : ActiveRun → Bool} {due : List ActiveRun}
    (hdue : ∀ r, r ∈ due ↔ r ∈ s.run.runs ∧ p r = true) :
    (s.run.runs.filter fun x => !due.any fun r => r.ref = x.ref) = s.run.runs.filter fun x => !p x := by
  refine List.filter_congr fun x hx => congrArg _ ?_
  rw [Bool.eq_iff_iff, List.any_eq_true]
  constructor
  · rintro ⟨r, hr, href⟩
    obtain ⟨hmem, hp⟩ := (hdue r).1 hr
    have hrx : r = x := List.inj_on_of_nodup_map h.refs hmem hx (of_decide_eq_true href)
    rwa [← hrx]
  · exact fun hp => ⟨x, (hdue x).2 ⟨hx, hp⟩, by simp⟩

/-- Under the run law a run is found by its ref. -/
theorem State.RunLaw.runOf {s : State} (h : s.RunLaw) {r : ActiveRun} (hr : r ∈ s.run.runs) : s.runOf r.ref = some r := by
  cases hfound : s.runOf r.ref with
  | none => exact absurd (List.find?_eq_none.1 hfound r hr) (by simp)
  | some x =>
    have href : x.ref = r.ref := by simpa using List.find?_some hfound
    rw [List.inj_on_of_nodup_map h.refs (List.mem_of_find?_eq_some hfound) hr href]

/-! ### What the due lists hold -/

theorem mem_dueStops {e : RunEngine} {T : Tuner} {f : Nat} {r : ActiveRun} :
    r ∈ e.dueStops T f ↔ r ∈ e.runs ∧ (decide (r.tuner = T) && decide (r.windowEnd ≤ f)) = true :=
  ((sortBy_perm _ _).mem_iff).trans List.mem_filter

theorem mem_dueConfirms {e : RunEngine} {f : Nat} {r : ActiveRun} :
    r ∈ e.dueConfirms f ↔ r ∈ e.runs ∧ (decide (r.state = .starting) && r.deadline.any fun d => decide (d ≤ f)) = true := by
  refine ((sortBy_perm _ _).mem_iff).trans (List.mem_filter.trans (and_congr_right fun _ => ?_))
  cases r.deadline <;> rfl

/-- With a replan RUNNING the part does not enter DORMANT (R176). -/
theorem State.dormantTest_running {s : State} (h : s.pln.snapshot.isSome = true) : s.dormantTest = s := by
  refine State.dormantTest_still (Bool.eq_false_iff.2 fun hr => ?_)
  obtain ⟨-, -, -, -, hnone, -⟩ := State.dormantReady_quiet hr
  rw [hnone] at h
  cases h

/-- Calm work keeps a replan RUNNING. -/
theorem Calm.running {s t : State} (h : Calm s t) (hs : s.pln.snapshot.isSome = true) : t.pln.snapshot.isSome = true := by
  obtain ⟨sn, hsn⟩ := Option.isSome_iff_exists.1 hs
  rw [h.held sn hsn]
  rfl

/-- The outcome at the window end (R116). -/
theorem ActiveRun.naturalOutcome_eq (r : ActiveRun) :
    r.naturalOutcome = if r.state = .starting then .missed .noConfirm
      else if r.actualStart ≤ r.recStart then .complete else .partly := by
  unfold ActiveRun.naturalOutcome
  cases hs : r.state <;> simp

theorem ActiveRun.naturalOutcome_ne_cut (r : ActiveRun) : r.naturalOutcome ≠ .cut := by
  rw [ActiveRun.naturalOutcome_eq]
  split
  · nofun
  · split <;> nofun

theorem ActiveRun.naturalOutcome_recorded (r : ActiveRun) :
    (r.naturalOutcome = .complete ∨ r.naturalOutcome = .partly) ↔ r.state = .recording := by
  unfold ActiveRun.naturalOutcome
  split
  · next h => simp [h]
  · next h =>
    by_cases hs : r.actualStart ≤ r.recStart <;> simp [h, hs]

/-! ### CONFIRM_EVENT -/

/-- Settles O39: the due runs end one after the other; a single one by its end and the trigger. -/
theorem confirmEventMissesUnconfirmedRuns : Obligations.ConfirmEventMissesUnconfirmedRuns := by
  unfold Obligations.ConfirmEventMissesUnconfirmedRuns
  intro s ev rest hv htaken hlaw
  let u := s.taken rest
  have hlaw' : u.RunLaw := ⟨hlaw.refs, hlaw.apart, hlaw.streams, hlaw.multiplex⟩
  have hexec := exec_confirmEvent hv htaken
  have hcalm : Calm u (u.confirmDue State.trigger ev.time) := State.confirmDue_calm State.trigger_calm _ _
  refine ⟨fun hrunning => ?_, fun r hdue hkeep => ?_⟩
  · have hrunning' : u.pln.snapshot.isSome = true := hrunning
    rw [State.dormantTest_running (hcalm.running hrunning')] at hexec
    refine ⟨_, hexec, ?_, hcalm.rework.anchor, hcalm.rework.schedule, hcalm.fpx, hcalm.rework.pwc, hcalm.rework.pins⟩
    rw [State.confirmDue, State.reloadRunChannels_run, State.endDue_runs _ _ _ hrunning',
      hlaw'.filter_due fun x => mem_dueConfirms]
    rfl
  · have hmem : r ∈ u.run.dueConfirms ev.time := by
      rw [show u.run.dueConfirms ev.time = [r] from hdue]
      exact List.mem_singleton_self r
    have hfound := hlaw'.runOf (mem_dueConfirms.1 hmem).1
    have hend : u.confirmDue State.trigger ev.time =
        ((u.ended r (.missed .noConfirm) ev.time).reloadRunChannels.trigger).reloadRunChannels := by
      rw [State.confirmDue, show u.run.dueConfirms ev.time = [r] from hdue, List.foldl_cons, List.foldl_nil, State.endIfActive,
        hfound]
      simp only [State.endRun_ended (s := u) hkeep]
    rw [hend] at hexec
    refine ⟨_, hexec, ?_, (u.ended_runWork r _ _).of_taken, ?_⟩
    · rw [State.reloadRunChannels_ports, State.ended_eq]
      rfl
    · rw [State.reloadRunChannels_run, State.reloadRunChannels_tun, State.reloadRunChannels_ser, State.reloadRunChannels_rep,
        State.ended_eq]
      refine ⟨?_, rfl, rfl, fun v hk => ActiveRun.endStatesAfter_manual hk nofun, fun v o hk => ActiveRun.endStatesAfter_series hk,
        rfl, rfl, ?_⟩
      · rw [ActiveRun.pendingAfter_unrecorded (o := .missed .noConfirm) (by nofun) (by nofun)]
        rfl
      · rw [State.post_rep]
        rfl

/-! ### STOP_EVENT -/

/-- One due run and no blocked entry: the event's work is the run's end. -/
theorem State.stopDue_one {s : State} (hlaw : s.RunLaw) {T : Tuner} {f : Nat} {r : ActiveRun} (hdue : s.run.dueStops T f = [r])
    (hblocked : s.run.dueBlocked T f = []) :
    s.stopDue State.trigger T f = (s.endRun State.trigger r r.naturalOutcome f).reloadRunChannels ∧ r.tuner = T := by
  have hmem : r ∈ s.run.dueStops T f := by
    rw [hdue]
    exact List.mem_singleton_self r
  obtain ⟨hrun, hp⟩ := mem_dueStops.1 hmem
  refine ⟨?_, of_decide_eq_true (Bool.and_eq_true_iff.1 hp).1⟩
  simp only [State.stopDue, hdue, hblocked, List.foldl_cons, List.foldl_nil, State.endIfActive, hlaw.runOf hrun]

/-- Why an entry that was refused ends MISSED (R113). -/
def missCause : Cause → MissReason
  | .tuner => .noTuner
  | .viewer => .viewer

/-- No due run and one blocked entry due: the event's work is that entry's. -/
theorem State.stopDue_blocked {s : State} {T : Tuner} {f : Nat} {w : WaitingEntry} {cause : Cause}
    (hdue : s.run.dueStops T f = []) (hone : (s.run.waiting.filter fun x => x.tuner = T && x.wend ≤ f) = [w])
    (hw : s.waitingOf w.ref = some w) (hcause : w.blocked = some cause) :
    s.stopDue State.trigger T f = (if s.hasTuner T then
      (s.missed w (missCause cause) f).trigger else s).reloadRunChannels
      ∧ w.tuner = T := by
  have hmem : w ∈ s.run.waiting.filter fun x => x.tuner = T && x.wend ≤ f := by
    rw [hone]
    exact List.mem_singleton_self w
  have hT : w.tuner = T := of_decide_eq_true (Bool.and_eq_true_iff.1 (List.mem_filter.1 hmem).2).1
  have hblocked : s.run.dueBlocked T f = [(w, missCause cause)] := by
    rw [RunEngine.dueBlocked, hone]
    cases cause <;> simp [sortBy, insertBy, hcause, missCause]
  refine ⟨?_, hT⟩
  simp only [State.stopDue, hdue, hblocked, List.foldl_cons, List.foldl_nil, State.endIfWaiting, hw, hT, State.endWaiting_eq]

/-- The group in force with CONFIG_APPLIED (R23). -/
def State.groupNoted (s : State) (g : TunerGroup) : State :=
  { s with
    rst := { s.rst with deferred := none, inForce := { s.rst.inForce with tuner := g } }
    rep := s.rep.posted ⟨.configApplied, none, 2, s.clk.counter, s.configRef.1, (s.configRef.2 : Nat)⟩ }

theorem State.appliedGroup_noted (s : State) (g : TunerGroup) : s.appliedGroup g = (s.groupNoted g).applyTunerMode := by
  rw [State.appliedGroup]
  exact congrArg State.applyTunerMode (State.post_posted _ _)

/-- Where SINGLE finds no hold on B, or another mode comes into force, CONFIG_APPLIED is all that is posted (R23, R137). -/
theorem State.appliedGroup_silent {s : State} {g : TunerGroup} (h : g.mode ≠ .single ∨ s.tun.b.viewer = none) :
    (s.appliedGroup g).rep = (s.groupNoted g).rep := by
  rw [State.appliedGroup_noted, State.applyTunerMode]
  split
  · next v hmode hviewer =>
    rcases h with h | h
    · exact absurd hmode h
    · cases h.symm.trans hviewer
  · rw [State.reloadWarn_rep]
    rfl
  · rw [State.reloadWarn_rep]

/-- A hold on B is released when SINGLE comes into force, with VIEW_LOST (R137). -/
theorem State.appliedGroup_released {s : State} {g : TunerGroup} {v : Nat} (hg : g.mode = .single)
    (hv : s.tun.b.viewer = some v) :
    (s.appliedGroup g).rep = (s.groupNoted g).rep.posted ⟨.viewLost, some .B, 2, s.clk.counter, 0xFFFFFFFF, (v : Nat)⟩
      ∧ (s.appliedGroup g).tun = { s.tun with b := s.tun.b.releaseViewer, warned := [] } := by
  have hmode : (s.groupNoted g).applyTunerMode = State.followHold (State.postNow
      { (s.groupNoted g).disableB with tun := { s.tun with b := s.tun.b.releaseViewer } } .viewLost (some .B) 2 noRef (v : Nat)) := by
    rw [State.applyTunerMode, show (s.groupNoted g).rst.inForce.tuner.mode = .single from hg,
      show (s.groupNoted g).tun.b.viewer = some v from hv]
    rfl
  rw [State.appliedGroup_noted, hmode, State.followHold_rep, State.followHold_tun, State.postNow, State.post_posted]
  exact ⟨rfl, rfl⟩

theorem Tun.releaseStream_viewer (t : Tun) (T T' : Tuner) :
    ((t.set T (t.get T).releaseStream).get T').viewer = (t.get T').viewer := by
  by_cases h : T' = T
  · rw [h, Tun.get_set_same, TunerRec.releaseStream_viewer]
  · rw [Tun.get_set_ne _ h]

/-- With a replan RUNNING the triggers of a freed change only mark it stale (R83). -/
theorem State.endRun_deferred_running {s : State} {r : ActiveRun} {o : RunOutcome} {stop : Nat} {g : TunerGroup}
    (h : s.pln.snapshot.isSome = true) (hg : s.rst.deferred = some g) (hlast : ∀ x ∈ s.run.runs, x.ref = r.ref) {t : State}
    (ht : t = s.endRun State.trigger r o stop) :
    t.pln.stale = true ∧ t.rep = ((s.ended r o stop).appliedGroup g).rep ∧ t.tun = ((s.ended r o stop).appliedGroup g).tun := by
  have hgroup : ((s.ended r o stop).appliedGroup g).pln.snapshot.isSome = true := by
    rw [State.appliedGroup_pln, State.ended_eq]
    exact h
  have hafter : ((s.ended r o stop).appliedGroup g).trigger.reloadRunChannels.pln.snapshot.isSome = true := by
    rw [State.reloadRunChannels_pln]
    exact State.trigger_still_running hgroup
  rw [ht, State.endRun_deferred hg hlast, State.trigger_running _ hafter]
  refine ⟨rfl, ?_, ?_⟩
  · change (State.reloadRunChannels _).rep = _
    rw [State.reloadRunChannels_rep, State.trigger_running _ hgroup]
    rfl
  · change (State.reloadRunChannels _).tun = _
    rw [State.reloadRunChannels_tun, State.trigger_running _ hgroup]
    rfl

/-- A blocked entry whose window end STOP_T has reached ends MISSED (R113). -/
theorem exec_stopEvent_missed {s : State} {T : Tuner} {ev : CompareEvent} {rest : List CompareEvent} {w : WaitingEntry}
    {cause : Cause} (hv : s.pins.vdd = true) (htaken : takeFirst (.stop T) s.clk.events = some (ev, rest))
    (hdue : s.run.dueStops T ev.time = []) (hone : (s.run.waiting.filter fun x => x.tuner = T && x.wend ≤ ev.time) = [w])
    (hw : s.waitingOf w.ref = some w) (hcause : w.blocked = some cause)
    (htuner : s.rst.inForce.tuner.mode = .single → T = .A) :
    ∃ u, exec (.stopEvent T) s = .next (u.trigger.reloadRunChannels.dormantTest)
      ∧ u.ports = ⟨[], []⟩ ∧ s.RunWork u ∧ u.tun = s.tun ∧ u.ser = s.ser
      ∧ u.run.waiting = s.run.waiting.filter (fun x => x.ref ≠ w.ref) ∧ u.run.runs = s.run.runs
      ∧ u.run.history = enterHistory s.run.history ⟨w.ref, .missed (missCause cause), some ev.time, w.wend⟩
      ∧ (w.origin ≠ none → u.run.endStates = s.run.endStates)
      ∧ (∀ b, w.origin = none → s.booking w.ref = some b →
          u.run.endStates = enterEndState s.run.endStates ⟨w.ref, b.revision, .missed (missCause cause)⟩)
      ∧ u.rep.notices = (s.post ⟨.missed, some T, (missCause cause).code, ev.time, w.ref, (w.wstart : Nat)⟩).rep.notices := by
  let u := s.taken rest
  have hexec := exec_stopEvent hv htaken
  obtain ⟨hstop, rfl⟩ := State.stopDue_blocked (s := u) hdue hone hw hcause
  rw [hstop, if_pos ((State.hasTuner_iff u w.tuner).2 htuner)] at hexec
  have hleaves := u.missed_leaves w (missCause cause) ev.time
  exact ⟨_, hexec, (u.missed_calm w _ ev.time).rework.ports, hleaves.work.of_taken, hleaves.tun, hleaves.ser, hleaves.waiting,
    hleaves.runs, hleaves.history, hleaves.series, hleaves.manual, by rw [hleaves.notices, State.post_rep, State.post_rep]; rfl⟩

/-- Settles O38: the due runs end one after the other; one run by its end, with the deferred change where it is the last; one
blocked entry by its MISSED end. -/
theorem stopEventEndsRunsAndBlockedEntries : Obligations.StopEventEndsRunsAndBlockedEntries := by
  unfold Obligations.StopEventEndsRunsAndBlockedEntries
  refine ⟨fun s T ev rest hv htaken hlaw hblocked => ⟨fun hrunning => ?_, fun r hdue => ⟨fun hkeep => ?_,
    fun g hg hlast hrunning => ?_⟩⟩, fun s T ev rest w cause hv htaken hdue hone hw hcause => ⟨fun htuner => ?_, fun hmode hT => ?_⟩⟩
  · let u := s.taken rest
    have hlaw' : u.RunLaw := ⟨hlaw.refs, hlaw.apart, hlaw.streams, hlaw.multiplex⟩
    have hexec := exec_stopEvent hv htaken
    have hcalm : Calm u (u.stopDue State.trigger T ev.time) := State.stopDue_calm State.trigger_calm _ _ _
    have hrunning' : u.pln.snapshot.isSome = true := hrunning
    rw [State.dormantTest_running (hcalm.running hrunning')] at hexec
    refine ⟨_, hexec, ?_, hcalm.rework.anchor, hcalm.rework.schedule, hcalm.fpx, hcalm.rework.pwc, hcalm.rework.pins⟩
    rw [State.stopDue, show u.run.dueBlocked T ev.time = [] from hblocked, List.foldl_nil]
    simp only [State.reloadRunChannels_run]
    rw [State.endDue_runs _ _ _ hrunning', hlaw'.filter_due fun x => mem_dueStops]
    rfl
  · let u := s.taken rest
    have hlaw' : u.RunLaw := ⟨hlaw.refs, hlaw.apart, hlaw.streams, hlaw.multiplex⟩
    have hexec := exec_stopEvent hv htaken
    obtain ⟨hend, rfl⟩ := State.stopDue_one hlaw' hdue hblocked
    rw [hend, State.endRun_ended (s := u) hkeep] at hexec
    rw [← ActiveRun.naturalOutcome_eq]
    refine ⟨_, hexec, ?_, (u.ended_runWork r _ _).of_taken, ?_⟩
    · rw [State.reloadRunChannels_ports, State.ended_eq]
      rfl
    · rw [State.reloadRunChannels_run, State.reloadRunChannels_tun, State.reloadRunChannels_ser, State.reloadRunChannels_rep,
        State.ended_eq]
      refine ⟨rfl, rfl, rfl, rfl, ?_, fun v o hk => ⟨ActiveRun.endStatesAfter_series hk, ?_⟩,
        fun v hk => ⟨ActiveRun.endStatesAfter_manual hk r.naturalOutcome_ne_cut, ActiveRun.pendingAfter_manual hk⟩⟩
      · rw [State.post_rep]
        rfl
      · exact (ActiveRun.pendingAfter_series hk).trans (if_congr r.naturalOutcome_recorded rfl rfl)
  · let u := s.taken rest
    have hlaw' : u.RunLaw := ⟨hlaw.refs, hlaw.apart, hlaw.streams, hlaw.multiplex⟩
    have hexec := exec_stopEvent hv htaken
    have hrunning' : u.pln.snapshot.isSome = true := hrunning
    have hcalm : Calm u (u.stopDue State.trigger T ev.time) := State.stopDue_calm State.trigger_calm _ _ _
    rw [State.dormantTest_running (hcalm.running hrunning')] at hexec
    obtain ⟨hend, rfl⟩ := State.stopDue_one hlaw' hdue hblocked
    have hlast' : ∀ x ∈ u.run.runs, x.ref = r.ref := fun x hx => by
      rw [show u.run.runs = [r] from hlast, List.mem_singleton] at hx
      rw [hx]
    obtain ⟨hruns, hrst, -⟩ := State.endRun_deferred_leaves (s := u) (o := r.naturalOutcome) (stop := ev.time) hg hlast' rfl
    obtain ⟨hstale, hrep, htun⟩ :=
      State.endRun_deferred_running (s := u) (o := r.naturalOutcome) (stop := ev.time) hrunning' hg hlast' rfl
    rw [hend] at hexec
    refine ⟨_, hexec, ?_, ?_, ?_, ?_, ?_⟩
    · rw [State.reloadRunChannels_run, hruns]
    · rw [State.reloadRunChannels_rst, hrst]
    · rw [State.reloadRunChannels_rst, hrst]
      rfl
    · rw [State.reloadRunChannels_pln, hstale]
    · have hnotes : ((u.ended r r.naturalOutcome ev.time).groupNoted g).rep = ((s.rep.posted (r.stopNotice r.naturalOutcome
          ev.time)).posted ⟨.configApplied, none, 2, s.clk.counter, s.configRef.1, (s.configRef.2 : Nat)⟩) := by
        rw [State.ended_eq]
        rfl
      have hview : (u.ended r r.naturalOutcome ev.time).tun.b.viewer = s.tun.b.viewer := by
        rw [State.ended_eq]
        exact Tun.releaseStream_viewer s.tun r.tuner .B
      have hcounter : (u.ended r r.naturalOutcome ev.time).clk.counter = s.clk.counter := by rw [State.ended_eq]; rfl
      rw [← ActiveRun.naturalOutcome_eq, State.reloadRunChannels_rep, State.reloadRunChannels_tun, hrep, htun]
      dsimp only
      simp only [State.post_rep]
      refine ⟨fun hsilent => ?_, fun v hmode hb => ?_⟩
      · rw [State.appliedGroup_silent (by rwa [hview]), hnotes]
        rfl
      · obtain ⟨hrel, hreltun⟩ := State.appliedGroup_released hmode (hview.trans hb)
        rw [hrel, hreltun, hnotes, hcounter]
        exact ⟨TunerRec.releaseViewer_viewer _, rfl, rfl⟩
  · cases cause with
    | tuner => exact exec_stopEvent_missed hv htaken hdue hone hw hcause htuner
    | viewer => exact exec_stopEvent_missed hv htaken hdue hone hw hcause htuner
  · let u := s.taken rest
    have hexec := exec_stopEvent hv htaken
    obtain ⟨hstop, -⟩ := State.stopDue_blocked (s := u) hdue hone hw hcause
    have hhas : ¬ u.hasTuner T = true := fun h => by
      have hA := (State.hasTuner_iff u T).1 h hmode
      rw [hT] at hA
      cases hA
    rw [hstop, if_neg hhas] at hexec
    exact hexec

end Sys2Proof.Machine

/-! PROOFS. WARN_EVENT (7.4) and WAKE_EVENT (10.3). -/

namespace Sys2Proof.Machine

/-! ### The warned list -/

theorem mem_enterWarned_self (waiting : List WaitingEntry) (l : List Nat) (ref : Nat) : ref ∈ enterWarned waiting l ref := by
  unfold enterWarned
  split
  · next h => exact List.contains_iff_mem.1 h
  · exact List.mem_append_right _ (List.mem_singleton_self ref)

/-- A ref that still waits stays in the warned list (R135). -/
theorem mem_enterWarned_of_waits {waiting : List WaitingEntry} {l : List Nat} {x : Nat} (ref : Nat) (h : x ∈ l)
    (hw : ∃ e ∈ waiting, e.ref = x) : x ∈ enterWarned waiting l ref := by
  unfold enterWarned
  split
  · exact h
  · refine List.mem_append_left _ ?_
    split
    · exact h
    · obtain ⟨e, he, href⟩ := hw
      exact List.mem_filter.2 ⟨h, List.any_eq_true.2 ⟨e, he, by simpa using href⟩⟩

/-! ### The warnings of one event -/

/-- One due entry is announced and joins the warned list (R135). -/
def State.warnOne (f : Nat) (s : State) (e : WaitingEntry) : State :=
  match s.threat e with
  | some t => (s.post ⟨.handoverWarning, s.tun.viewerTuner, t.detail, f, e.ref, (e.wstart : Nat)⟩).addWarned e.ref
  | none => s

/-- Warnings change the notices, the warned list, and the channel WARN. -/
def Warns (s t : State) : Prop := t = { s with rep := t.rep, clk := t.clk, tun := { s.tun with warned := t.tun.warned } }

theorem Warns.trans {s t u : State} (h : Warns s t) (k : Warns t u) : Warns s u := by
  unfold Warns at *
  rw [k, h]

section
variable {s t : State} (h : Warns s t)
include h

theorem Warns.run : t.run = s.run := by rw [show t = _ from h]
theorem Warns.rst : t.rst = s.rst := by rw [show t = _ from h]
theorem Warns.pln : t.pln = s.pln := by rw [show t = _ from h]
theorem Warns.pins : t.pins = s.pins := by rw [show t = _ from h]
theorem Warns.tunerA : t.tun.a = s.tun.a := by rw [show t = _ from h]
theorem Warns.tunerB : t.tun.b = s.tun.b := by rw [show t = _ from h]

end

theorem Warns.threat {s t : State} (h : Warns s t) (e : WaitingEntry) : t.threat e = s.threat e := by
  rw [show t = _ from h]
  rfl

theorem State.warnOne_eq {s : State} {e : WaitingEntry} {th : Threat} (h : s.threat e = some th) (f : Nat) :
    s.warnOne f e = { s with
      rep := s.rep.posted ⟨.handoverWarning, s.tun.viewerTuner, th.detail, f, e.ref, (e.wstart : Nat)⟩
      tun := { s.tun with warned := enterWarned s.run.waiting s.tun.warned e.ref } } := by
  rw [State.warnOne, h]
  simp only
  rw [State.post_posted]
  rfl

/-- The due entries, each in its turn: all of them are warned of at the end. -/
theorem State.warnOne_foldl (f : Nat) (due : List WaitingEntry) {s : State} (hthreat : ∀ e ∈ due, (s.threat e).isSome = true)
    (hwaits : ∀ e ∈ due, e ∈ s.run.waiting) :
    Warns s (due.foldl (State.warnOne f) s)
      ∧ (∀ x ∈ s.tun.warned, (∃ e ∈ s.run.waiting, e.ref = x) → x ∈ (due.foldl (State.warnOne f) s).tun.warned)
      ∧ ∀ e ∈ due, e.ref ∈ (due.foldl (State.warnOne f) s).tun.warned := by
  induction due generalizing s with
  | nil => exact ⟨rfl, fun x hx _ => hx, nofun⟩
  | cons e rest ih =>
    obtain ⟨th, hth⟩ := Option.isSome_iff_exists.1 (hthreat e List.mem_cons_self)
    have hone := State.warnOne_eq hth f
    have hwarns : Warns s (s.warnOne f e) := by rw [hone]; rfl
    have hwaiting : (s.warnOne f e).run = s.run := by rw [hone]
    have hwarned : (s.warnOne f e).tun.warned = enterWarned s.run.waiting s.tun.warned e.ref := by rw [hone]
    obtain ⟨hrest, hkept, hdue⟩ := ih (s := s.warnOne f e)
      (fun x hx => by rw [hwarns.threat]; exact hthreat x (List.mem_cons_of_mem _ hx))
      (fun x hx => by rw [hwaiting]; exact hwaits x (List.mem_cons_of_mem _ hx))
    rw [hwaiting] at hkept
    refine ⟨hwarns.trans hrest, fun x hx hw => hkept x ?_ hw, fun x hx => ?_⟩
    · rw [hwarned]
      exact mem_enterWarned_of_waits _ hx hw
    · rcases List.mem_cons.1 hx with rfl | hx
      · refine hkept _ ?_ ⟨x, hwaits x List.mem_cons_self, rfl⟩
        rw [hwarned]
        exact mem_enterWarned_self _ _ _
      · exact hdue x hx

theorem Threat.detail_eq (t : Threat) : t.detail = if t = .evict then 1 else 2 := by cases t <;> rfl

theorem State.warnDue_eq (f : Nat) (s : State) :
    s.warnDue f = ((sortBy (fun a b => lePair (a.wstart, a.ref) (b.wstart, b.ref))
      (s.threatened.filter fun e => s.warningTime e ≤ f)).foldl (State.warnOne f) s).reloadWarn := rfl

theorem exec_warnEvent {s : State} {ev : CompareEvent} {rest : List CompareEvent} (hv : s.pins.vdd = true)
    (h : takeFirst .warn s.clk.events = some (ev, rest)) :
    exec .warnEvent s = .next ((s.taken rest).warnDue ev.time).dormantTest := by
  change Host.Outcome.next (s.powered _) = _
  rw [State.powered_of_vdd hv, State.takeEvent_taken h]

theorem exec_wakeEvent {s : State} {ev : CompareEvent} {rest : List CompareEvent} (hv : s.pins.vdd = true)
    (h : takeFirst .wake s.clk.events = some (ev, rest)) :
    exec .wakeEvent s = .next ((s.taken rest).wakeFired ev).dormantTest := by
  change Host.Outcome.next (s.powered _) = _
  rw [State.powered_of_vdd hv, State.takeEvent_taken h]

/-- A part that is not in STANDBY, or that a wake is under way for, is not ready for DORMANT (R176). -/
theorem State.dormantTest_awake {s : State} (h : s.pwc.power ≠ .standby ∨ s.pwc.waking ≠ none) : s.dormantTest = s := by
  refine State.dormantTest_still (Bool.eq_false_iff.2 fun hr => ?_)
  obtain ⟨hpower, -, -, -, -, -, hwaking⟩ := State.dormantReady_quiet hr
  exact h.elim (fun h => h hpower) fun h => h hwaking

/-- Settles O40: the due entries in their turns; the wake by the power state and whether one is under way. -/
theorem warnAndWakeEventsAreTaken : Obligations.WarnAndWakeEventsAreTaken := by
  unfold Obligations.WarnAndWakeEventsAreTaken
  refine ⟨fun s ev rest hv htaken => ?_, fun s ev rest tg hv htaken htarget => ?_⟩
  · let u := s.taken rest
    have hexec := exec_warnEvent hv htaken
    let due := sortBy (fun a b => lePair (a.wstart, a.ref) (b.wstart, b.ref))
      (u.threatened.filter fun e => u.warningTime e ≤ ev.time)
    have hdue : ∀ e, e ∈ due ↔ e ∈ s.threatened ∧ s.warningTime e ≤ ev.time := fun e =>
      ((sortBy_perm _ _).mem_iff).trans (List.mem_filter.trans (and_congr_right fun _ => decide_eq_true_iff))
    have hmem : ∀ e ∈ due, e ∈ s.run.waiting ∧ (s.threat e).isSome = true := fun e he => by
      obtain ⟨hin, hp⟩ := List.mem_filter.1 ((hdue e).1 he).1
      exact ⟨hin, (Bool.and_eq_true_iff.1 hp).1⟩
    obtain ⟨hwarns, -, hwarned⟩ := State.warnOne_foldl ev.time due (s := u) (fun e he => (hmem e he).2) fun e he => (hmem e he).1
    have hsleep := (u.warnDue ev.time).dormantTest_beyondSleep
    have hclock := (due.foldl (State.warnOne ev.time) u).reloadWarn_clkOnly
    change u.warnDue ev.time = _ at hclock
    have hall : Warns u (u.warnDue ev.time) := hwarns.trans (by
      unfold Warns
      rw [hclock])
    have hlist : (u.warnDue ev.time).tun.warned = (due.foldl (State.warnOne ev.time) u).tun.warned := by rw [hclock]
    have hrep : (u.warnDue ev.time).rep = (due.foldl (State.warnOne ev.time) u).rep := by rw [hclock]
    refine ⟨_, hexec, fun w hw hlate => ?_, fun w th hone hth => ?_, ?_, ?_, (beyondSleep_run hsleep).trans hall.run,
      (beyondSleep_rst hsleep).trans hall.rst, (beyondSleep_pln hsleep).trans hall.pln,
      (beyondSleep_pins hsleep).trans hall.pins⟩
    · rw [beyondSleep_tun hsleep, hlist]
      exact hwarned w ((hdue w).2 ⟨hw, hlate⟩)
    · have hdue' : due = [w] := by
        have hfilter : (u.threatened.filter fun e => u.warningTime e ≤ ev.time) = [w] := hone
        simp only [due, hfilter]
        rfl
      rw [beyondSleep_rep hsleep, hrep, hdue', List.foldl_cons, List.foldl_nil, State.warnOne_eq (s := u) hth, State.post_rep,
        ← Threat.detail_eq]
      rfl
    · rw [beyondSleep_tun hsleep, hall.tunerA]
      rfl
    · rw [beyondSleep_tun hsleep, hall.tunerB]
      rfl
  · let u := s.taken rest
    have hexec := exec_wakeEvent hv htaken
    let noted : State := { u with pwc := { u.pwc with wokenFor := some tg.wstart } }
    by_cases hready : s.pwc.power = .standby ∧ s.pwc.waking = none
    · obtain ⟨hpower, hwaking⟩ := hready
      let driven : State := { noted with pwc := { noted.pwc with
        waking := some ⟨ev.crystal + Config.wakeSeconds * Config.secondPeriods, tg.ref, ev.time⟩, wakeLine := true } }
      let issued := driven.post ⟨.wakeIssued, some tg.tuner, 0, ev.time, tg.ref, (tg.wstart : Nat)⟩
      have hfired : u.wakeFired ev = issued.reloadWake := by
        have hbool : (decide (s.pwc.power = .standby) && s.pwc.waking.isNone) = true := by simp [hpower, hwaking]
        rw [State.wakeFired, htarget]
        exact if_pos hbool
      obtain ⟨target, clk, -, hreload⟩ := issued.reloadWake_cases
      have hissued : issued = { driven with
          rep := s.rep.posted ⟨.wakeIssued, some tg.tuner, 0, ev.time, tg.ref, (tg.wstart : Nat)⟩ } := State.post_posted _ _
      rw [hfired, hreload, hissued, State.dormantTest_awake (.inr (Option.some_ne_none _))] at hexec
      refine ⟨_, hexec, rfl, fun _ _ => ⟨rfl, rfl, hpower, ?_⟩, fun h => ?_, rfl, rfl, rfl, rfl, rfl⟩
      · rw [State.post_rep]
      · exact (h.elim (fun h => h hpower) fun h => h hwaking).elim
    · have hasleep : s.pwc.power ≠ .standby ∨ s.pwc.waking ≠ none := not_and_or.1 hready
      have hfired : u.wakeFired ev = noted.reloadWake := by
        have hbool : ¬ (decide (s.pwc.power = .standby) && s.pwc.waking.isNone) = true := by simpa using hready
        rw [State.wakeFired, htarget]
        exact if_neg hbool
      obtain ⟨target, clk, -, hreload⟩ := noted.reloadWake_cases
      rw [hfired, hreload, State.dormantTest_awake (by exact hasleep)] at hexec
      exact ⟨_, hexec, rfl, fun hp hw => (hready ⟨hp, hw⟩).elim, fun _ => ⟨rfl, rfl, rfl, rfl⟩, rfl, rfl, rfl, rfl, rfl⟩

end Sys2Proof.Machine

/-! PROOFS. The scan engine's status reads and READs (8.10), and the deadlines on the crystal count. -/

namespace Sys2Proof.Machine

/-! ### The status reads before a sector -/

/-- The moment of an ownership's first status read, once one has been made (R157). -/
def State.polledSince (s : State) : Option Nat :=
  match s.fpx.firstPoll with
  | some t => some t
  | none => some s.clk.crystal

/-- The sector may be read whatever the flash answers: 400 s have passed since the first status read (R157). -/
def State.Late (s : State) : Prop :=
  s.fpx.gaveUp = true ∨ ∃ f, s.fpx.firstPoll = some f ∧ f + 400 * 32768 ≤ s.clk.crystal

theorem State.late_iff (s : State) : s.Late ↔ (s.fpx.gaveUp || s.busyOver) = true := by
  rw [State.Late, ← State.busyOver_iff, Bool.or_eq_true]

section
variable {s : State} {b : Byte} {es er : ClassEntry}
  (hstatus : s.fpx.classTable.ownOf .readStatus = some es) (hread : s.fpx.classTable.ownOf .read = some er)

include hstatus hread

/-- One response that lets the sector be read (R157). -/
theorem State.pollFor_reads (x : Nat) (p : Purpose) (h : s.isReady b = true ∨ s.Late) :
    s.pollFor x p [b] = { s with
      fpx := { s.fpx with
        scan := .reading x p, firstPoll := s.polledSince, inFlight := if s.isReady b then none else s.fpx.inFlight }
      ports := ⟨s.ports.soc, s.ports.flash ++ [.own es.code none es.dummy 1, .own er.code (some x) er.dummy er.width]⟩ } := by
  have hgo : (s.isReady b || s.fpx.gaveUp || s.busyOver) = true := by
    rw [Bool.or_assoc, Bool.or_eq_true, ← State.late_iff]
    exact h
  rw [State.pollFor_one hstatus hread, hgo, State.polledSince]
  cases s.fpx.firstPoll <;> simp

/-- A busy response before the 400 s have passed: the sector waits (R157). -/
theorem State.pollFor_waits (x : Nat) (p : Purpose) (h : s.isReady b = false) (hl : ¬ s.Late) :
    s.pollFor x p [b] = { s with
      fpx := { s.fpx with scan := .waiting x p, firstPoll := s.polledSince }
      ports := ⟨s.ports.soc, s.ports.flash ++ [.own es.code none es.dummy 1]⟩ } := by
  have hgo : (s.isReady b || s.fpx.gaveUp || s.busyOver) = false := by
    rw [Bool.or_assoc, h, Bool.false_or, Bool.eq_false_iff, Ne, ← State.late_iff]
    exact hl
  rw [State.pollFor_one hstatus hread, hgo, h, State.polledSince]
  cases s.fpx.firstPoll <;> simp

end

/-! ### The rows -/

theorem exec_sectorReadStart {s : State} (hv : s.pins.vdd = true) (responses : List Byte) :
    exec (.sectorReadStart responses) s = .next (s.clearPorts.startSector responses) :=
  congrArg Host.Outcome.next (State.powered_of_vdd hv _)

theorem exec_busyWaitTimeout {s : State} (hv : s.pins.vdd = true) :
    exec .busyWaitTimeout s = .next s.clearPorts.busyTimeout :=
  congrArg Host.Outcome.next (State.powered_of_vdd hv _)

theorem State.startSector_closed {s : State} (h : s.scanOpen = false) (responses : List Byte) :
    s.startSector responses = s := by
  simp [State.startSector, h]

theorem State.startSector_idle {s : State} {x : Nat} {p : Purpose} (h : s.scanOpen = true) (hi : s.fpx.scan = .idle)
    (hw : s.nextWork = some (x, p)) (b : Byte) : s.startSector [b] = s.wakeForRead.pollFor x p [b] := by
  unfold State.startSector
  rw [h, hi, hw]
  rfl

theorem State.startSector_workless {s : State} (hi : s.fpx.scan = .idle) (hw : s.nextWork = none) (responses : List Byte) :
    s.startSector responses = s := by
  unfold State.startSector
  rw [hi, hw]
  exact ite_self _

theorem State.startSector_waiting {s : State} {x : Nat} {p : Purpose} (h : s.scanOpen = true) (hi : s.fpx.scan = .waiting x p)
    (b : Byte) : s.startSector [b] = s.pollFor x p [b] := by
  unfold State.startSector
  rw [h, hi]
  rfl

theorem State.wakeForRead_awake {s : State} (h : s.fpx.asleep = false) : s.wakeForRead = s := by
  unfold State.wakeForRead
  rw [h]

/-- The part with the flash woken by a RELEASE code (R156). -/
def State.roused (s : State) (code : Byte) : State :=
  { s with
    fpx := { s.fpx with asleep := false }
    ports := ⟨s.ports.soc, s.ports.flash ++ [.own code none 0 1]⟩ }

theorem State.wakeForRead_asleep {s : State} {code : Byte} (h : s.fpx.asleep = true) (hc : s.releaseCode = some code) :
    s.wakeForRead = s.roused code := by
  unfold State.wakeForRead
  rw [h, hc]
  rfl

theorem State.busyTimeout_early {s : State} (h : s.busyOver = false) : s.busyTimeout = s := by
  unfold State.busyTimeout State.busyDue
  cases hs : s.fpx.scan <;> simp [h]

theorem State.busyTimeout_due {s : State} {x : Nat} {p : Purpose} (h : s.busyOver = true) (hs : s.fpx.scan = .waiting x p) :
    s.busyTimeout = State.beginRead { s with fpx := { s.fpx with gaveUp := true } } x p := by
  unfold State.busyTimeout State.busyDue
  rw [hs, h]

/-- Settles O51: one response lets the sector be read, or leaves it waiting. -/
theorem scanEngineReadsTheNextSector : Obligations.ScanEngineReadsTheNextSector := by
  refine ⟨fun s hv => ?_, fun s b es er hv hstatus hread => ?_, fun s er x f p hv hread hwait hfirst => ⟨fun h => ?_, fun h => ?_⟩⟩
  · rw [exec_sectorReadStart hv, State.startSector, List.isEmpty_nil, Bool.not_true, Bool.and_false, if_neg Bool.false_ne_true]
    rfl
  · have hreads := fun x p => State.pollFor_reads (s := s.clearPorts) (b := b) hstatus hread x p
    have hwaits := fun x p => State.pollFor_waits (s := s.clearPorts) (b := b) hstatus hread x p
    simp only [exec_sectorReadStart hv, List.isEmpty_nil, List.isEmpty_cons, Bool.and_true, Bool.and_false]
    refine ⟨fun h => congrArg Host.Outcome.next (State.startSector_closed (s := s.clearPorts) h _),
      fun _ hi hw => congrArg Host.Outcome.next (State.startSector_workless (s := s.clearPorts) hi hw _),
      fun x p h hi hw ha => ?_, fun x p code h hi hw ha hc => ?_, fun x p h hi => ?_⟩
    · rw [State.startSector_idle (s := s.clearPorts) h hi hw, State.wakeForRead_awake (s := s.clearPorts) ha]
      exact ⟨fun hr => congrArg Host.Outcome.next (hreads x p hr), fun hr hl => congrArg Host.Outcome.next (hwaits x p hr hl)⟩
    · rw [State.startSector_idle (s := s.clearPorts) h hi hw, State.wakeForRead_asleep (s := s.clearPorts) ha hc]
      exact ⟨fun hr => congrArg Host.Outcome.next (State.pollFor_reads (s := s.clearPorts.roused code) (b := b) hstatus hread x p hr),
        fun hr hl => congrArg Host.Outcome.next (State.pollFor_waits (s := s.clearPorts.roused code) (b := b) hstatus hread x p hr hl)⟩
    · rw [State.startSector_waiting (s := s.clearPorts) h hi]
      exact ⟨fun hr => congrArg Host.Outcome.next (hreads x p hr), fun hr hl => congrArg Host.Outcome.next (hwaits x p hr hl)⟩
  · rw [exec_busyWaitTimeout hv, State.busyTimeout_due (s := s.clearPorts) ((State.busyOver_iff _).2 ⟨f, hfirst, h⟩) hwait]
    exact congrArg Host.Outcome.next (State.beginRead_eq (s := { s.clearPorts with fpx := { s.fpx with gaveUp := true } }) hread x p)
  · have hearly : s.clearPorts.busyOver = false := by
      refine Bool.eq_false_iff.2 fun hover => ?_
      obtain ⟨g, hg, hle⟩ := (State.busyOver_iff _).1 hover
      obtain rfl : f = g := Option.some.inj (hfirst.symm.trans hg)
      exact absurd h (Nat.not_lt.2 hle)
    rw [exec_busyWaitTimeout hv, State.busyTimeout_early hearly]
    rfl

/-! ### The deadlines -/

theorem exec_writeDeadlineExpiry {s : State} (hv : s.pins.vdd = true) :
    exec .writeDeadlineExpiry s = .next s.clearPorts.expireWrite :=
  congrArg Host.Outcome.next (State.powered_of_vdd hv _)

theorem exec_lendExpiry {s : State} (hv : s.pins.vdd = true) : exec .lendExpiry s = .next s.clearPorts.expireLend :=
  congrArg Host.Outcome.next (State.powered_of_vdd hv _)

theorem exec_wakeDeadlineExpiry {s : State} (hv : s.pins.vdd = true) :
    exec .wakeDeadlineExpiry s = .next s.clearPorts.wakeExpired.dormantTest :=
  congrArg Host.Outcome.next (State.powered_of_vdd hv _)

theorem exec_standbyStatusPoll {s : State} (hv : s.pins.vdd = true) (responses : List Byte) :
    exec (.standbyStatusPoll responses) s = .next (s.clearPorts.standbyPoll responses) :=
  congrArg Host.Outcome.next (State.powered_of_vdd hv _)

section
variable {s : State} {w : InFlight} (h : s.fpx.inFlight = some w)
include h

theorem State.expireWrite_early (hd : s.clk.crystal < w.deadline) : s.expireWrite = s := by
  unfold State.expireWrite State.writeDue
  simp [h, Nat.not_le.2 hd]

theorem State.expireWrite_due (hd : w.deadline ≤ s.clk.crystal) : s.expireWrite =
    (State.joinSectors { s with fpx := { s.fpx with inFlight := none } } (s.sectorsMeeting w.range)).dormantTest := by
  unfold State.expireWrite State.writeDue
  simp [h, hd]

end

section
variable {s : State} {l : Lend} (h : s.fpx.lend = some l)
include h

theorem State.lendDue_iff :
    s.lendDue = true ↔ l.expired = false ∧ l.ms * 32768 ≤ (s.clk.crystal - l.start) * 1000 := by
  unfold State.lendDue
  rw [h]
  dsimp only
  rw [Bool.and_eq_true, Bool.not_eq_true', decide_eq_true_iff]
  rfl

theorem State.expireLend_early (hd : (s.clk.crystal - l.start) * 1000 < l.ms * 32768) : s.expireLend = s := by
  have hdue : s.lendDue = false :=
    Bool.eq_false_iff.2 fun hdue => absurd ((State.lendDue_iff h).1 hdue).2 (Nat.not_le.2 hd)
  simp [State.expireLend, hdue]

variable (he : l.expired = false) (hd : l.ms * 32768 ≤ (s.clk.crystal - l.start) * 1000)
include he hd

theorem State.expireLend_reading {x : Nat} {p : Purpose} (hs : s.fpx.scan = .reading x p) : s.expireLend =
    { s with fpx := { s.fpx with lend := some { l with expired := true } } } := by
  unfold State.expireLend
  rw [(State.lendDue_iff h).2 ⟨he, hd⟩, h, hs]

theorem State.expireLend_free (hs : ∀ x p, s.fpx.scan ≠ .reading x p) : s.expireLend =
    State.post { s with fpx := { s.fpx with scan := .idle, lend := none, owner := .soc } }
      ⟨.lendDone, none, 2, s.clk.counter, s.sectorsLeft, (l.read : Nat)⟩ := by
  have hend : s.expireLend = State.endLend { s with fpx := { s.fpx with scan := .idle } } .expired := by
    unfold State.expireLend
    rw [(State.lendDue_iff h).2 ⟨he, hd⟩, h]
    cases hscan : s.fpx.scan with
    | idle => rfl
    | waiting x p => rfl
    | reading x p => exact absurd hscan (hs x p)
  rw [hend]
  exact State.endLend_eq (s := { s with fpx := { s.fpx with scan := .idle } }) h .expired

end

section
variable {s : State} {w : Waking} (h : s.pwc.waking = some w)
include h

theorem State.wakeExpired_early (hd : s.clk.crystal < w.deadline) : s.wakeExpired = s := by
  unfold State.wakeExpired
  rw [h]
  exact if_neg (Nat.not_le.2 hd)

theorem State.wakeExpired_due (hd : w.deadline ≤ s.clk.crystal) :
    s.wakeExpired = s.endWake.post ⟨.wakeFailed, none, 0, s.clk.counter, w.ref, (w.fired : Nat)⟩ := by
  unfold State.wakeExpired
  rw [h]
  exact if_pos hd

end

/-- A status read changes the flash port and the moment of the first one. -/
theorem State.pollFlash_leaves (s : State) :
    s.pollFlash = { s with ports := s.pollFlash.ports, fpx := { s.fpx with firstPoll := s.pollFlash.fpx.firstPoll } } := by
  unfold State.pollFlash
  split <;> dsimp only <;> split <;> rfl

/-- One status read and its response: the write in flight goes when the busy bit is clear (R145). -/
theorem State.statusResponse_leaves (s : State) (b : Byte) : s.pollFlash.statusResponse b = { s with
    ports := s.pollFlash.ports
    fpx := { s.fpx with
      firstPoll := s.pollFlash.fpx.firstPoll
      inFlight := if b.getLsbD s.fpx.classTable.busyBit then s.fpx.inFlight else none } } := by
  have hleaves := s.pollFlash_leaves
  generalize s.pollFlash = u at hleaves ⊢
  rw [hleaves]
  unfold State.statusResponse
  split <;> simp

theorem State.pollWrite_one (s : State) (b : Byte) : s.pollWrite [b] = s.pollFlash.statusResponse b := ite_self _

/-- Settles O53: each deadline before and at its moment; then the one response of a poll. -/
theorem deadlinesAndPollsActWhenDue : Obligations.DeadlinesAndPollsActWhenDue := by
  refine ⟨fun s hv => ⟨fun w hw hd => ?_, fun w hw hd => ?_, fun l x p hl he hd hs => ?_, fun l hl he hd hs => ?_,
    fun l hl hd => ?_, fun w hw hd => ?_, fun w hw hd => ?_⟩, fun s b hv hpower hscan hflight hwork => ?_⟩
  · refine ⟨_, exec_writeDeadlineExpiry hv, ?_⟩
    rw [State.expireWrite_due (s := s.clearPorts) hw hd]
    generalize hu : ({ s.clearPorts with fpx := { s.clearPorts.fpx with inFlight := none } } : State) = u
    have hbeyond := State.dormantTest_beyondSleep (u.joinSectors (s.clearPorts.sectorsMeeting w.range))
    have hflight : (u.joinSectors (s.clearPorts.sectorsMeeting w.range)).fpx.inFlight = none :=
      (congrArg (fun f => f.inFlight) (State.joinSectors_fpx u (s.clearPorts.sectorsMeeting w.range)) :).trans (by rw [← hu])
    have hmirrors := State.joinSectors_rework u (s.clearPorts.sectorsMeeting w.range)
    refine ⟨(congrArg (fun v => v.fpx.inFlight) hbeyond :).trans hflight, fun y => ?_, ?_, ?_⟩
    · rw [beyondSleep_rst hbeyond, State.joinSectors_verify, ← hu]
      rfl
    · rw [beyondSleep_rst hbeyond, hmirrors.anchor, ← hu]
      rfl
    · rw [beyondSleep_rst hbeyond, hmirrors.schedule, ← hu]
      rfl
  · rw [exec_writeDeadlineExpiry hv, State.expireWrite_early (s := s.clearPorts) hw hd]
    rfl
  · rw [exec_lendExpiry hv, State.expireLend_reading (s := s.clearPorts) hl he hd hs]
    rfl
  · rw [exec_lendExpiry hv, State.expireLend_free (s := s.clearPorts) hl he hd hs]
    rfl
  · rw [exec_lendExpiry hv, State.expireLend_early (s := s.clearPorts) hl hd]
    rfl
  · refine ⟨_, exec_wakeDeadlineExpiry hv, ?_⟩
    rw [State.wakeExpired_due (s := s.clearPorts) hw hd]
    have hbeyond := State.dormantTest_beyondSleep
      (s.clearPorts.endWake.post ⟨.wakeFailed, none, 0, s.clearPorts.clk.counter, w.ref, (w.fired : Nat)⟩)
    have hpwc : (s.clearPorts.endWake.post ⟨.wakeFailed, none, 0, s.clearPorts.clk.counter, w.ref, (w.fired : Nat)⟩).pwc
        = s.clearPorts.endWake.pwc := by rw [State.post_posted]
    refine ⟨(congrArg (fun v => v.pwc.waking) hbeyond :).trans (congrArg Pwc.waking hpwc),
      (congrArg (fun v => v.pwc.wakeLine) hbeyond :).trans (congrArg Pwc.wakeLine hpwc), ?_⟩
    rw [beyondSleep_rep hbeyond, State.post_rep, State.post_rep]
    rfl
  · rw [exec_wakeDeadlineExpiry hv, State.wakeExpired_early (s := s.clearPorts) hw hd,
      State.dormantTest_awake (.inr (by rw [State.clearPorts_pwc, hw]; exact Option.some_ne_none w))]
    rfl
  · have hpoll : s.clearPorts.standbyPoll [b] = (s.clearPorts.pollFlash.statusResponse b).dormantTest := by
      rw [← State.pollWrite_one]
      exact if_pos ⟨hpower, hscan, Option.isSome_iff_ne_none.2 hflight, Option.isNone_iff_eq_none.2 hwork⟩
    refine ⟨_, exec_standbyStatusPoll hv [b], ?_⟩
    rw [hpoll]
    have hbeyond := State.dormantTest_beyondSleep (s.clearPorts.pollFlash.statusResponse b)
    have hleaves := State.statusResponse_leaves s.clearPorts b
    generalize hu : s.clearPorts.pollFlash.statusResponse b = u at hbeyond hleaves ⊢
    refine ⟨(congrArg (fun v => v.fpx.inFlight) hbeyond :).trans (by rw [hleaves]; rfl), fun hbusy => ?_,
      (beyondSleep_rst hbeyond).trans (by rw [hleaves]; rfl), (beyondSleep_run hbeyond).trans (by rw [hleaves]; rfl),
      (beyondSleep_tun hbeyond).trans (by rw [hleaves]; rfl), (beyondSleep_rep hbeyond).trans (by rw [hleaves]; rfl),
      (beyondSleep_pins hbeyond).trans (by rw [hleaves]; rfl), (beyondSleep_clk hbeyond).trans (by rw [hleaves]; rfl)⟩
    rw [State.dormantTest_still (Bool.eq_false_iff.2 fun hready => ?_)]
    · rw [hleaves]
      rfl
    · have hnone : u.fpx.inFlight = none := by
        obtain ⟨-, -, -, hnone, -⟩ := State.dormantReady_quiet hready
        exact hnone
      rw [hleaves] at hnone
      exact hflight ((if_pos hbusy).symm.trans hnone)

end Sys2Proof.Machine

/-! PROOFS. The sectors that have been read (1.6, 2.9): what reaches the mirror, the guide and the scan request. -/

namespace Sys2Proof.Machine

/-! ### After a sector -/

/-- The part without what re-examining the work can change: the path and the lend, the power state, the notices, and the
channels (R155, R156, R174, R177). -/
def State.beyondWork (s : State) : State :=
  { s with
    ports := ⟨[], []⟩, rep := Rep.afterReset, pwc := Pwc.afterReset true
    clk := { s.clk with channels := Channels.afterReset, events := [] }
    fpx := { s.fpx with owner := .soc, lend := none, asleep := false } }

theorem Calm.beyondWork {s t : State} (h : Calm s t) (hrst : t.rst = s.rst) (hgmx : t.gmx = s.gmx) (hser : t.ser = s.ser)
    (hpln : t.pln = s.pln) (hrun : t.run = s.run) (htun : t.tun = s.tun) : t.beyondWork = s.beyondWork := by
  have hclk : { t.clk with channels := Channels.afterReset, events := [] }
      = ({ s.clk with channels := Channels.afterReset, events := [] } : Clk) := congrArg (fun u => u.clk) h.still
  have hfpx := h.fpx
  have hpins := h.rework.pins
  have hfree := h.rework.freeCount
  have hpending := h.rework.pending
  simp only [State.beyondWork, hrst, hgmx, hser, hpln, hrun, htun, hclk, hfpx, hpins, hfree, hpending]

theorem State.post_beyondWork (s : State) (n : Notice) : (s.post n).beyondWork = s.beyondWork := by
  rw [State.post_posted]
  rfl

theorem State.reloadWake_beyondWork (s : State) : s.reloadWake.beyondWork = s.beyondWork := by
  obtain ⟨tg, c, hcalm, h⟩ := s.reloadWake_cases
  rw [h] at hcalm ⊢
  exact (hcalm.beyondWork rfl rfl rfl rfl rfl rfl :)

theorem State.endLend_beyondWork (s : State) (why : LendEnd) : (s.endLend why).beyondWork = s.beyondWork := by
  cases h : s.fpx.lend with
  | none => rw [State.endLend, h]
  | some l =>
    rw [State.endLend_eq h]
    exact State.post_beyondWork _ _

theorem State.endStartUp_beyondWork (s : State) : s.endStartUp.beyondWork = s.beyondWork := by
  have hend (u : State) (d : Int) (r : Nat) (a : Int) :
      ((u.postNow .startupDone none d r a).raise .startupDone).beyondWork = u.beyondWork := State.post_beyondWork u _
  unfold State.endStartUp
  by_cases hp : s.pins.pwrgood = true
  · simp only [hp, if_true]
    exact hend _ _ _ _
  · simp only [hp, Bool.false_eq_true, if_false]
    exact (State.reloadWake_beyondWork _).trans (hend _ _ _ _)

/-- What a sector's owner left stays as it is when the work is examined afresh. -/
theorem State.afterSector_beyondWork (s : State) : s.afterWork.dormantTest.beyondWork = s.beyondWork := by
  have hwork : s.afterWork.beyondWork = s.beyondWork := by
    rcases s.afterWork_cases with h | ⟨-, -, h⟩ | ⟨l, -, -, ⟨-, h⟩ | ⟨-, -, h⟩⟩ | ⟨-, -, h⟩ <;> rw [h]
    · exact s.endStartUp_beyondWork
    · exact s.endLend_beyondWork _
    · exact s.endLend_beyondWork _
    · rfl
  exact (congrArg State.beyondWork s.afterWork.dormantTest_beyondSleep :).trans hwork

section
variable {s t : State} (h : t.beyondWork = s.beyondWork)
include h

theorem beyondWork_pins : t.pins = s.pins := congrArg (fun u => u.pins) h
theorem beyondWork_rst : t.rst = s.rst := congrArg (fun u => u.rst) h
theorem beyondWork_gmx : t.gmx = s.gmx := congrArg (fun u => u.gmx) h
theorem beyondWork_ser : t.ser = s.ser := congrArg (fun u => u.ser) h
theorem beyondWork_pln : t.pln = s.pln := congrArg (fun u => u.pln) h
theorem beyondWork_run : t.run = s.run := congrArg (fun u => u.run) h
theorem beyondWork_tun : t.tun = s.tun := congrArg (fun u => u.tun) h
theorem beyondWork_scan : t.fpx.scan = s.fpx.scan := congrArg (fun u => u.fpx.scan) h
theorem beyondWork_classTable : t.fpx.classTable = s.fpx.classTable := congrArg (fun u => u.fpx.classTable) h
theorem beyondWork_counter : t.clk.counter = s.clk.counter := congrArg (fun u => u.clk.counter) h

end

/-! ### The rows -/

theorem State.finishSector_reading {s : State} {x : Nat} {p : Purpose} (h : s.fpx.scan = .reading x p)
    (act : Nat → State → State) : s.finishSector p act = (act x s.countSector).afterWork.dormantTest := by
  unfold State.finishSector
  rw [h]
  exact if_pos rfl

theorem sectorData_whole {data : List Byte} (h : data.length = 4096) : sectorData data = data :=
  List.take_of_length_le (Nat.le_of_eq h)

section
variable {s : State} {x : Nat} {data : List Byte} (hv : s.pins.vdd = true) (hd : data.length = 4096)
include hv hd

theorem exec_mirrorSectorVerify (h : s.fpx.scan = .reading x .mirror) : exec (.mirrorSectorVerify data) s =
    .next (s.clearPorts.countSector.mirrorVerify State.trigger x data).afterWork.dormantTest := by
  change Host.Outcome.next (s.powered _) = _
  rw [State.powered_of_vdd hv, State.finishSector_reading (s := s.clearPorts) h, sectorData_whole hd]

theorem exec_guideSectorVerify (h : s.fpx.scan = .reading x .guideVerify) : exec (.guideSectorVerify data) s =
    .next (s.clearPorts.countSector.guideVerify State.trigger x data).afterWork.dormantTest := by
  change Host.Outcome.next (s.powered _) = _
  rw [State.powered_of_vdd hv, State.finishSector_reading (s := s.clearPorts) h, sectorData_whole hd]

theorem exec_guideSectorScan (h : s.fpx.scan = .reading x .guideScan) : exec (.guideSectorScan data) s =
    .next (s.clearPorts.countSector.guideScan State.trigger x data).afterWork.dormantTest := by
  change Host.Outcome.next (s.powered _) = _
  rw [State.powered_of_vdd hv, State.finishSector_reading (s := s.clearPorts) h, sectorData_whole hd]

end

/-! ### The mirror -/

/-- The sector's bytes in the mirror, and MIRROR_CORRECTED where they differ (R18). -/
def State.mirrored (s : State) (x : Nat) (data : List Byte) : State :=
  if (s.replaceSector x data).rst.anchor ≠ s.rst.anchor ∨ (s.replaceSector x data).rst.schedule ≠ s.rst.schedule then
    (s.replaceSector x data).postNow .mirrorCorrected none (if x = s.anchorBase then 1 else 2) x 0
  else s.replaceSector x data

theorem State.mirrorVerify_eq (trig : Trigger) (x : Nat) (data : List Byte) (s : State) : s.mirrorVerify trig x data =
    if x = s.anchorBase ∧ !s.rst.adopted then (s.mirrored x data).adopt.storeUpdate trig
    else (s.mirrored x data).storeUpdate trig := rfl

theorem State.mirrorVerify_later {s : State} (h : s.rst.adopted = true ∨ x ≠ s.anchorBase) (trig : Trigger) (data : List Byte) :
    s.mirrorVerify trig x data = (s.mirrored x data).storeUpdate trig := by
  rw [State.mirrorVerify_eq, if_neg]
  rintro ⟨hx, hadopted⟩
  rcases h with h | h
  · simp [h] at hadopted
  · exact h hx

theorem State.mirrored_rst (s : State) (x : Nat) (data : List Byte) :
    (s.mirrored x data).rst = (s.replaceSector x data).rst := by
  unfold State.mirrored
  split
  · exact State.postNow_rst _ _ _ _ _ _
  · rfl

theorem State.replaceSector_leaves (s : State) (x : Nat) (data : List Byte) : s.replaceSector x data = { s with
    rst := { s.rst with
      anchor := (s.replaceSector x data).rst.anchor
      schedule := (s.replaceSector x data).rst.schedule
      verify := s.rst.verify.filter fun y => y ≠ x } } := by
  unfold State.replaceSector
  dsimp only
  split
  · rfl
  · split <;> rfl

theorem State.replaceSector_anchor {s : State} (h : x = s.anchorBase) (data : List Byte) :
    s.replaceSector x data = { s with
      rst := { s.rst with anchor := s.rst.anchor.replace 0 data, verify := s.rst.verify.filter fun y => y ≠ x } } :=
  if_pos h

theorem State.replaceSector_schedule {s : State} {base : Nat} (h : x ≠ s.anchorBase) (hb : s.scheduleBase = some base)
    (data : List Byte) : s.replaceSector x data = { s with
      rst := { s.rst with
        schedule := s.rst.schedule.replace (x - base) data, verify := s.rst.verify.filter fun y => y ≠ x } } := by
  unfold State.replaceSector
  dsimp only
  rw [if_neg h, hb]

theorem State.mirrored_calm (s : State) (x : Nat) (data : List Byte) : Calm (s.replaceSector x data) (s.mirrored x data) :=
  Calm.ite (State.postNow_calm _ _ _ _ _ _) (Calm.refl _)

/-- What a later verification lasts: the sector's bytes, and its removal from the verify set (R18). -/
theorem State.mirrorVerify_lasting {s : State} (h : s.rst.adopted = true ∨ x ≠ s.anchorBase) (data : List Byte) :
    (s.mirrorVerify State.trigger x data).lasting = (s.replaceSector x data).lasting := by
  rw [State.mirrorVerify_later h]
  exact (State.storeUpdate_lasting State.trigger_calm _).trans (lasting_of_store (State.mirrored_calm s x data).store)

theorem State.mirrorVerify_rework {s : State} (h : s.rst.adopted = true ∨ x ≠ s.anchorBase) (data : List Byte) :
    Rework (s.replaceSector x data) (s.mirrorVerify State.trigger x data) := by
  rw [State.mirrorVerify_later h]
  exact (State.mirrored_calm s x data).rework.trans (State.storeUpdate_rework State.trigger_calm _)

/-! ### The guide's entries, but for their effective marks -/

/-- An entry but for its effective mark, which the table gives it (R31). -/
def MatchedEntry.bare (e : MatchedEntry) : MatchedEntry := { e with effective := false }

/-- The entry stands in the table, whatever its effective mark. -/
def Stands (es : List MatchedEntry) (e : MatchedEntry) : Prop := ∃ x ∈ es, x.bare = e.bare

theorem Stands.of_mem {es : List MatchedEntry} {e : MatchedEntry} (h : e ∈ es) : Stands es e := ⟨e, h, rfl⟩

theorem Stands.mono {es es' : List MatchedEntry} {e : MatchedEntry} (h : Stands es e) (hsub : ∀ x ∈ es, Stands es' x) :
    Stands es' e := by
  obtain ⟨x, hx, hb⟩ := h
  obtain ⟨y, hy, hb'⟩ := hsub x hx
  exact ⟨y, hy, hb'.trans hb⟩

theorem bare_eq_iff {x e : MatchedEntry} : x.bare = e.bare ↔ x.slot = e.slot ∧ x.event = e.event ∧ x.linked = e.linked
    ∧ x.named = e.named ∧ x.displacing = e.displacing ∧ x.doubtful = e.doubtful := by
  cases x
  cases e
  simp [MatchedEntry.bare]

theorem stands_recomputeEffective {es : List MatchedEntry} {e : MatchedEntry} :
    Stands (recomputeEffective es) e ↔ Stands es e := by
  constructor
  · rintro ⟨x, hx, hb⟩
    obtain ⟨y, hy, rfl⟩ := List.mem_map.1 hx
    exact ⟨y, hy, hb⟩
  · rintro ⟨x, hx, hb⟩
    exact ⟨_, List.mem_map.2 ⟨x, hx, rfl⟩, hb⟩

theorem State.setEntries_stands (s : State) (es : List MatchedEntry) {e : MatchedEntry} :
    Stands (s.setEntries es).gmx.entries e ↔ Stands es e :=
  stands_recomputeEffective

theorem stands_insertEntry {new e : MatchedEntry} {es : List MatchedEntry} :
    Stands (insertEntry new es) e ↔ new.bare = e.bare ∨ Stands es e := by
  simp only [Stands, insertEntry, (insertBy_perm _ new es).mem_iff, List.mem_cons, exists_eq_or_imp]

/-! ### Taking slots -/

/-- What taking slots touches: the matched events and the notices. -/
def Takes (s t : State) : Prop := t = { s with gmx := t.gmx, rep := t.rep }

theorem Takes.trans {s t u : State} (h : Takes s t) (k : Takes t u) : Takes s u := by
  unfold Takes at *
  rw [k, h]

theorem Takes.rst {s t : State} (h : Takes s t) : t.rst = s.rst := by rw [show t = _ from h]
theorem Takes.pwc {s t : State} (h : Takes s t) : t.pwc = s.pwc := by rw [show t = _ from h]

theorem State.setEntries_takes (s : State) (es : List MatchedEntry) : Takes s (s.setEntries es) := rfl

theorem State.refuseEvent_takes (s : State) (slot : Nat) (e : Event) (notice : Bool) :
    s.refuseEvent slot e notice = { s with rep := (s.refuseEvent slot e notice).rep } := by
  unfold State.refuseEvent
  dsimp only
  split
  · rw [State.postNow, State.post_posted]
    rfl
  · rfl

theorem State.refuseEvent_gmx (s : State) (slot : Nat) (e : Event) (notice : Bool) :
    (s.refuseEvent slot e notice).gmx = s.gmx := by
  rw [State.refuseEvent_takes]

/-- The entry a taken slot makes (R30, R32). -/
def State.takenEntry (s : State) (mode : TakeMode) (slot : Nat) (e : Event) : MatchedEntry :=
  ⟨slot, e, s.isLinked e, s.isNamed e, !s.isMatched e, mode ≠ .verify && s.doubtfulAt slot, false⟩

theorem Taking.takeMatched_room {t : Taking} {e : Event} (h : t.st.gmx.entries.length < 384) (hm : t.st.isMatched e = true)
    (mode : TakeMode) (slot : Nat) : t.takeMatched mode slot e =
      ⟨t.st.setEntries (insertEntry (t.st.takenEntry mode slot e) t.st.gmx.entries), t.noticed⟩ := by
  unfold Taking.takeMatched State.takenEntry
  rw [hm]
  exact if_pos h

theorem Taking.takeMatched_full {t : Taking} (h : ¬ t.st.gmx.entries.length < 384) (mode : TakeMode) (slot : Nat) (e : Event) :
    t.takeMatched mode slot e = t.refuse mode slot e :=
  if_neg h

theorem Taking.takeUnmatched_outranked {t : Taking} {slot : Nat} {e : Event} (h : displaces t.st.gmx.entries slot e = false)
    (mode : TakeMode) : t.takeUnmatched mode slot e = t :=
  if_neg (Bool.eq_false_iff.1 h)

theorem Taking.takeUnmatched_room {t : Taking} {slot : Nat} {e : Event} (h : displaces t.st.gmx.entries slot e = true)
    (hm : t.st.isMatched e = false) (hroom : t.st.gmx.entries.length < 384) (mode : TakeMode) :
    t.takeUnmatched mode slot e =
      ⟨t.st.setEntries (insertEntry (t.st.takenEntry mode slot e) t.st.gmx.entries), t.noticed⟩ := by
  have hlinked : t.st.isLinked e = false ∧ t.st.isNamed e = false := by simpa [State.isMatched] using hm
  unfold Taking.takeUnmatched State.takenEntry
  rw [hm, hlinked.1, hlinked.2]
  dsimp only
  rw [if_pos h]
  exact if_pos hroom

/-- What a refused displacing slot leaves: in a scan all, else all but the entries it outranks and the displacing ones they
leave (R33, R41). -/
def keptBy (mode : TakeMode) (slot : Nat) (e : Event) (es : List MatchedEntry) : List MatchedEntry :=
  if mode = .scan then es
  else pruneDisplacingOf e.id (es.filter fun x =>
    !(x.event.id = e.id && x.matched && outranks e.version slot x.event.version x.slot))

theorem Taking.takeUnmatched_full {t : Taking} {slot : Nat} {e : Event} (h : displaces t.st.gmx.entries slot e = true)
    (hroom : ¬ t.st.gmx.entries.length < 384) (mode : TakeMode) : t.takeUnmatched mode slot e =
      Taking.refuse ⟨t.st.setEntries (keptBy mode slot e t.st.gmx.entries), t.noticed⟩ mode slot e := by
  unfold Taking.takeUnmatched
  dsimp only
  rw [if_pos h]
  exact if_neg hroom

theorem mem_keptBy {mode : TakeMode} {slot : Nat} {e : Event} {es : List MatchedEntry} {x : MatchedEntry}
    (h : x ∈ keptBy mode slot e es) : x ∈ es := by
  unfold keptBy at h
  split at h
  · exact h
  · unfold pruneDisplacingOf at h
    split at h
    · exact (List.mem_filter.1 h).1
    · exact (List.mem_filter.1 (List.mem_filter.1 h).1).1

/-- A slot is taken in one of the two ways, by the match test (R30, R32). -/
def Taking.take (t : Taking) (mode : TakeMode) (p : Nat × Event) : Taking :=
  if t.st.isMatched p.2 then t.takeMatched mode p.1 p.2 else t.takeUnmatched mode p.1 p.2

theorem Taking.take_takes (t : Taking) (mode : TakeMode) (p : Nat × Event) : Takes t.st (t.take mode p).st := by
  have hrefuse (u : Taking) : Takes u.st (u.refuse mode p.1 p.2).st := by
    unfold Takes Taking.refuse
    rw [State.refuseEvent_takes]
  unfold Taking.take
  split
  · next hm =>
    by_cases hroom : t.st.gmx.entries.length < 384
    · rw [Taking.takeMatched_room hroom hm]
      exact State.setEntries_takes _ _
    · rw [Taking.takeMatched_full hroom]
      exact hrefuse t
  · next hm =>
    cases hd : displaces t.st.gmx.entries p.1 p.2 with
    | false =>
      rw [Taking.takeUnmatched_outranked hd]
      rfl
    | true =>
      by_cases hroom : t.st.gmx.entries.length < 384
      · rw [Taking.takeUnmatched_room hd (Bool.eq_false_iff.2 hm) hroom]
        exact State.setEntries_takes _ _
      · rw [Taking.takeUnmatched_full hd hroom]
        exact (State.setEntries_takes _ _).trans (hrefuse ⟨_, _⟩)

/-- What stands after a slot stood before, or is the slot's own entry. -/
theorem Taking.take_origin (t : Taking) (mode : TakeMode) (p : Nat × Event) {e : MatchedEntry}
    (h : Stands (t.take mode p).st.gmx.entries e) :
    Stands t.st.gmx.entries e ∨ (t.st.takenEntry mode p.1 p.2).bare = e.bare := by
  unfold Taking.take at h
  split at h
  · next hm =>
    by_cases hroom : t.st.gmx.entries.length < 384
    · rw [Taking.takeMatched_room hroom hm, State.setEntries_stands, stands_insertEntry] at h
      exact h.symm
    · rw [Taking.takeMatched_full hroom, Taking.refuse, State.refuseEvent_gmx] at h
      exact .inl h
  · next hm =>
    cases hd : displaces t.st.gmx.entries p.1 p.2 with
    | false =>
      rw [Taking.takeUnmatched_outranked hd] at h
      exact .inl h
    | true =>
      by_cases hroom : t.st.gmx.entries.length < 384
      · rw [Taking.takeUnmatched_room hd (Bool.eq_false_iff.2 hm) hroom, State.setEntries_stands, stands_insertEntry] at h
        exact h.symm
      · rw [Taking.takeUnmatched_full hd hroom, Taking.refuse, State.refuseEvent_gmx, State.setEntries_stands] at h
        exact .inl (h.mono fun x hx => .of_mem (mem_keptBy hx))

/-- In a table with room nothing that stands leaves, one entry at most joins, a matched slot's entry stands, and no refusal is
told. -/
theorem Taking.take_room {t : Taking} (h : t.st.gmx.entries.length < 384) (mode : TakeMode) (p : Nat × Event) :
    (t.take mode p).st.gmx.entries.length ≤ t.st.gmx.entries.length + 1 ∧ (t.take mode p).st.rep = t.st.rep
      ∧ (∀ e, Stands t.st.gmx.entries e → Stands (t.take mode p).st.gmx.entries e)
      ∧ (t.st.isMatched p.2 = true → Stands (t.take mode p).st.gmx.entries (t.st.takenEntry mode p.1 p.2)) := by
  have hentered (new : MatchedEntry) :
      (t.st.setEntries (insertEntry new t.st.gmx.entries)).gmx.entries.length = t.st.gmx.entries.length + 1 := by
    simp [State.setEntries, recomputeEffective, insertEntry, (insertBy_perm _ new t.st.gmx.entries).length_eq]
  unfold Taking.take
  split
  · next hm =>
    rw [Taking.takeMatched_room h hm]
    simp only [State.setEntries_stands, stands_insertEntry]
    exact ⟨(hentered _).le, rfl, fun e he => .inr he, fun _ => .inl trivial⟩
  · next hm =>
    cases hd : displaces t.st.gmx.entries p.1 p.2 with
    | false =>
      rw [Taking.takeUnmatched_outranked hd]
      exact ⟨Nat.le_succ _, rfl, fun e he => he, fun hyes => absurd hyes hm⟩
    | true =>
      rw [Taking.takeUnmatched_room hd (Bool.eq_false_iff.2 hm) h]
      simp only [State.setEntries_stands, stands_insertEntry]
      exact ⟨(hentered _).le, rfl, fun e he => .inr he, fun hyes => absurd hyes hm⟩

/-! ### Taking the slots of a sector -/

theorem Takes.takenEntry {s t : State} (h : Takes s t) (mode : TakeMode) (slot : Nat) (e : Event) :
    t.takenEntry mode slot e = s.takenEntry mode slot e := by
  rw [show t = _ from h]
  rfl

theorem Takes.isMatched {s t : State} (h : Takes s t) (e : Event) : t.isMatched e = s.isMatched e := by
  rw [show t = _ from h]
  rfl

/-- The slots of a sector in the order they are taken: the matched ones first (R39). -/
def State.inTurn (s : State) (slots : List (Nat × Event)) : List (Nat × Event) :=
  (slots.filter fun p => s.isMatched p.2) ++ slots.filter fun p => !s.isMatched p.2

theorem State.mem_inTurn {s : State} {slots : List (Nat × Event)} {p : Nat × Event} : p ∈ s.inTurn slots ↔ p ∈ slots := by
  simp only [State.inTurn, List.mem_append, List.mem_filter, Bool.not_eq_true']
  cases s.isMatched p.2 <;> simp

theorem State.length_inTurn (s : State) (slots : List (Nat × Event)) : (s.inTurn slots).length = slots.length := by
  have h := List.length_eq_length_filter_add (l := slots) fun p => s.isMatched p.2
  rw [State.inTurn, List.length_append]
  exact h.symm

/-- Slots taken one after the other. -/
def Taking.takeAll (t : Taking) (mode : TakeMode) (slots : List (Nat × Event)) : Taking :=
  slots.foldl (fun t p => t.take mode p) t

theorem Taking.takeAll_cons (t : Taking) (mode : TakeMode) (p : Nat × Event) (rest : List (Nat × Event)) :
    t.takeAll mode (p :: rest) = (t.take mode p).takeAll mode rest := rfl

theorem Taking.takeAll_takes (t : Taking) (mode : TakeMode) (slots : List (Nat × Event)) :
    Takes t.st (t.takeAll mode slots).st := by
  induction slots generalizing t with
  | nil => rfl
  | cons p rest ih => exact (t.take_takes mode p).trans (ih _)

/-- Folding `f` is taking the slots when `f` is how each of them is taken. -/
theorem Taking.foldl_takeAll {f : Taking → Nat × Event → Taking} {mode : TakeMode} {s : State} {slots : List (Nat × Event)}
    (hf : ∀ t p, Takes s t.st → p ∈ slots → f t p = t.take mode p) {t : Taking} (h : Takes s t.st) :
    slots.foldl f t = t.takeAll mode slots := by
  induction slots generalizing t with
  | nil => rfl
  | cons p rest ih =>
    rw [List.foldl_cons, Taking.takeAll_cons, hf t p h List.mem_cons_self]
    exact ih (fun t q ht hq => hf t q ht (List.mem_cons_of_mem _ hq)) (h.trans (t.take_takes mode p))

theorem State.takeSector_eq (s : State) (mode : TakeMode) (slots : List (Nat × Event)) :
    s.takeSector mode slots = (Taking.takeAll ⟨s, false⟩ mode (s.inTurn slots)).st := by
  have hmatched : (slots.filter fun p => s.isMatched p.2).foldl (fun t p => t.takeMatched mode p.1 p.2) ⟨s, false⟩
      = Taking.takeAll ⟨s, false⟩ mode (slots.filter fun p => s.isMatched p.2) :=
    Taking.foldl_takeAll (s := s)
      (fun t p ht hp => by rw [Taking.take, ht.isMatched, if_pos (List.mem_filter.1 hp).2]) rfl
  have hrest := Taking.foldl_takeAll (f := fun t p => t.takeUnmatched mode p.1 p.2) (mode := mode)
    (s := s) (slots := slots.filter fun p => !s.isMatched p.2)
    (fun t p ht hp => by rw [Taking.take, ht.isMatched, if_neg (by simpa using (List.mem_filter.1 hp).2)])
    (Taking.takeAll_takes ⟨s, false⟩ mode (slots.filter fun p => s.isMatched p.2))
  unfold State.takeSector State.inTurn
  dsimp only
  rw [hmatched, hrest, Taking.takeAll, Taking.takeAll, Taking.takeAll, List.foldl_append]

theorem State.takeSector_takes (s : State) (mode : TakeMode) (slots : List (Nat × Event)) :
    Takes s (s.takeSector mode slots) := by
  rw [State.takeSector_eq]
  exact Taking.takeAll_takes ⟨s, false⟩ mode _

theorem Taking.takeAll_origin {s : State} {t : Taking} (ht : Takes s t.st) {mode : TakeMode} {slots : List (Nat × Event)}
    {e : MatchedEntry} (h : Stands (t.takeAll mode slots).st.gmx.entries e) :
    Stands t.st.gmx.entries e ∨ ∃ p ∈ slots, (s.takenEntry mode p.1 p.2).bare = e.bare := by
  induction slots generalizing t with
  | nil => exact .inl h
  | cons p rest ih =>
    rcases ih (ht.trans (t.take_takes mode p)) h with h | ⟨q, hq, hb⟩
    · rcases t.take_origin mode p h with h | h
      · exact .inl h
      · exact .inr ⟨p, List.mem_cons_self, by rw [← ht.takenEntry]; exact h⟩
    · exact .inr ⟨q, List.mem_cons_of_mem _ hq, hb⟩

/-- What stands after a sector's slots stood before, or is one of theirs. -/
theorem State.takeSector_origin (s : State) (mode : TakeMode) (slots : List (Nat × Event)) {e : MatchedEntry}
    (h : Stands (s.takeSector mode slots).gmx.entries e) :
    Stands s.gmx.entries e ∨ ∃ p ∈ slots, (s.takenEntry mode p.1 p.2).bare = e.bare := by
  rw [State.takeSector_eq] at h
  rcases Taking.takeAll_origin (s := s) (t := ⟨s, false⟩) rfl h with h | ⟨p, hp, hb⟩
  · exact .inl h
  · exact .inr ⟨p, State.mem_inTurn.1 hp, hb⟩

theorem Taking.takeAll_room {s : State} {t : Taking} (ht : Takes s t.st) {slots : List (Nat × Event)}
    (hl : t.st.gmx.entries.length + slots.length ≤ 384) (mode : TakeMode) :
    (t.takeAll mode slots).st.rep = t.st.rep
      ∧ (∀ e, Stands t.st.gmx.entries e → Stands (t.takeAll mode slots).st.gmx.entries e)
      ∧ ∀ p ∈ slots, s.isMatched p.2 = true → Stands (t.takeAll mode slots).st.gmx.entries (s.takenEntry mode p.1 p.2) := by
  induction slots generalizing t with
  | nil => exact ⟨rfl, fun _ he => he, nofun⟩
  | cons p rest ih =>
    rw [List.length_cons] at hl
    obtain ⟨hgrows, hrep, hkeeps, henters⟩ := Taking.take_room (t := t) (by omega) mode p
    obtain ⟨hreps, hrest, hmatched⟩ := ih (ht.trans (t.take_takes mode p)) (by omega)
    refine ⟨hreps.trans hrep, fun e he => hrest e (hkeeps e he), fun q hq hm => ?_⟩
    rcases List.mem_cons.1 hq with rfl | hq
    · refine hrest _ ?_
      rw [← ht.takenEntry]
      exact henters (by rw [ht.isMatched]; exact hm)
    · exact hmatched q hq hm

/-- With room for all of them, a sector's slots take nothing away, and each matched one's entry stands. -/
theorem State.takeSector_room {s : State} {slots : List (Nat × Event)} (h : s.gmx.entries.length + slots.length ≤ 384)
    (mode : TakeMode) :
    (s.takeSector mode slots).rep = s.rep
      ∧ (∀ e, Stands s.gmx.entries e → Stands (s.takeSector mode slots).gmx.entries e)
      ∧ ∀ p ∈ slots, s.isMatched p.2 = true → Stands (s.takeSector mode slots).gmx.entries (s.takenEntry mode p.1 p.2) := by
  rw [State.takeSector_eq]
  obtain ⟨hrep, hkeeps, henters⟩ := Taking.takeAll_room (s := s) (t := ⟨s, false⟩) rfl (slots := s.inTurn slots)
    (by rw [State.length_inTurn]; exact h) mode
  exact ⟨hrep, hkeeps, fun p hp hm => henters p (State.mem_inTurn.2 hp) hm⟩

/-! ### The guide -/

/-- The part once a guide sector's slots have been taken, before the report (R39). -/
def State.guideTaken (s : State) (x : Nat) (data : List Byte) : State :=
  let taken := (s.setEntries (s.gmx.entries.filter fun e => sectorOf e.slot ≠ x)).takeSector .verify (sectorEvents x data)
  taken.setEntries (pruneDisplacing taken.gmx.entries)

/-- MIRROR_CORRECTED outside START-UP where the sector's entries differ, and the sector's removal from the verify set (R39). -/
def State.guideTrusted (s : State) (x : Nat) (data : List Byte) : State :=
  let taken := s.guideTaken x data
  let told :=
    if s.pwc.power ≠ .startUp && sectorView s.gmx.entries x ≠ sectorView taken.gmx.entries x then
      taken.postNow .mirrorCorrected none 3 x 0
    else taken
  { told with rst := { told.rst with verify := told.rst.verify.filter fun y => y ≠ x } }

theorem State.guideVerify_eq (trig : Trigger) (x : Nat) (data : List Byte) (s : State) :
    s.guideVerify trig x data = (s.guideTrusted x data).reportEvents trig true s.gmx.entries := rfl

theorem State.guideTaken_takes (s : State) (x : Nat) (data : List Byte) : Takes s (s.guideTaken x data) :=
  ((State.setEntries_takes s _).trans (State.takeSector_takes _ _ _)).trans (State.setEntries_takes _ _)

theorem State.guideTrusted_leaves (s : State) (x : Nat) (data : List Byte) : s.guideTrusted x data =
    { s with
      gmx := (s.guideTaken x data).gmx, rep := (s.guideTrusted x data).rep
      rst := { s.rst with verify := s.rst.verify.filter fun y => y ≠ x } } := by
  have htakes := s.guideTaken_takes x data
  unfold State.guideTrusted
  generalize s.guideTaken x data = u at htakes ⊢
  dsimp only
  split
  · rw [State.postNow, State.post_posted, show u = _ from htakes]
  · rw [show u = _ from htakes]

theorem mem_sectorEvents {x : Nat} {data : List Byte} {slot : Nat} {e : Event} :
    (slot, e) ∈ sectorEvents x data ↔ ∃ k, k < 64 ∧ slot = x + 64 * k ∧ guideSlot (dataSlot data k) = .event e := by
  simp only [sectorEvents, Config.sectorSize, Config.slotSize, List.mem_filterMap, List.mem_range]
  constructor
  · rintro ⟨k, hk, h⟩
    split at h
    · next e' he =>
      cases h
      exact ⟨k, hk, rfl, he⟩
    · exact absurd h nofun
  · rintro ⟨k, hk, rfl, he⟩
    exact ⟨k, hk, by rw [he]⟩

theorem length_sectorEvents (x : Nat) (data : List Byte) : (sectorEvents x data).length ≤ 64 :=
  (List.length_filterMap_le _ _).trans (by simp [Config.sectorSize, Config.slotSize])

/-- What stands of a verified sector was read from it (R39). -/
theorem State.guideTaken_sector {s : State} {x : Nat} {data : List Byte} {e : MatchedEntry}
    (h : Stands (s.guideTaken x data).gmx.entries e) (hx : sectorOf e.slot = x) :
    (e.slot, e.event) ∈ sectorEvents x data ∧ e.doubtful = false := by
  unfold State.guideTaken at h
  rw [State.setEntries_stands] at h
  have h := h.mono fun y hy => .of_mem (List.mem_filter.1 hy).1
  rcases State.takeSector_origin _ _ _ h with h | ⟨p, hp, hb⟩
  · rw [State.setEntries_stands] at h
    obtain ⟨y, hy, hb⟩ := h
    have hslot := (bare_eq_iff.1 hb).1
    have hne := of_decide_eq_true (List.mem_filter.1 hy).2
    rw [hslot] at hne
    exact absurd hx hne
  · obtain ⟨hslot, hevent, -, -, -, hdoubtful⟩ := bare_eq_iff.1 hb
    exact ⟨by rw [← hslot, ← hevent]; exact hp, hdoubtful.symm⟩

/-- The part once a scanned sector's slots have been taken, before the report (R41). -/
def State.scanTaken (s : State) (x : Nat) (data : List Byte) : State :=
  s.takeSector .scan ((sectorEvents x data).filter fun p => !s.held p.1)

theorem State.guideScan_eq (trig : Trigger) (x : Nat) (data : List Byte) (s : State) : s.guideScan trig x data =
    { (s.scanTaken x data).reportEvents trig true s.gmx.entries with
      ser := { ((s.scanTaken x data).reportEvents trig true s.gmx.entries).ser with
        scanRequest := ((s.scanTaken x data).reportEvents trig true s.gmx.entries).ser.scanRequest.bind fun c =>
          if c + 1 < ((s.scanTaken x data).reportEvents trig true s.gmx.entries).rst.inForce.layout.guideSectors.length
          then some (c + 1) else none } } := rfl

/-! ### Reports and the entries -/

/-- What stands now stood before. -/
def Fades (s t : State) : Prop := ∀ e, Stands t.gmx.entries e → Stands s.gmx.entries e

theorem State.startReplan_fades (s : State) : Fades s s.startReplan := by
  intro e h
  rw [State.startReplan_eq, State.purged_gmx] at h
  exact (stands_recomputeEffective.1 h).mono fun x hx => .of_mem (List.mem_filter.1 (List.mem_filter.1 hx).1).1

/-- A report takes entries away at most, where its replan begins with the purge (R42, R83). -/
theorem fades_reports : Reports (fun _ => True) Fades State.trigger where
  refl _ _ h := h
  trans h k e he := h e (k e he)
  of hg _ e he := hg ▸ he
  keeps _ _ := trivial
  trig {s} _ := by
    rcases s.trigger_eq with ⟨-, h⟩ | ⟨-, -, h⟩ | ⟨-, -, h⟩ <;> rw [h]
    · exact fun _ he => he
    · exact s.startReplan_fades
    · exact fun _ he => he

theorem State.reportChanges_rep {trig : Trigger} (changes : List (Nat × Change × Option Event)) {s : State}
    (h : s.run.runs = []) : (changes.foldl (fun s p => s.eventChange trig p.1 p.2.1 p.2.2) s).rep = s.rep := by
  induction changes generalizing s with
  | nil => rfl
  | cons p rest ih =>
    have hnone : s.runOf (seriesRef p.1) = none := by rw [State.runOf, h, List.find?_nil]
    have hone : (s.eventChange trig p.1 p.2.1 p.2.2).rep = s.rep := by
      unfold State.eventChange State.waitingChange
      rw [hnone]
      dsimp only
      split
      · exact State.reloadRunChannels_rep _
      · rfl
    exact (ih ((State.eventChange_unrun h _ _ _).runs.trans h)).trans hone

/-- With no run to tell, and a replan RUNNING, a report posts nothing. -/
theorem State.reportEvents_rep {s : State} (h : s.run.runs = []) (hs : s.pln.snapshot.isSome = true) (request : Bool)
    (before : List MatchedEntry) : (s.reportEvents State.trigger request before).rep = s.rep := by
  have hfold := State.reportChanges_rep (trig := State.trigger) (eventChanges before s.gmx.entries) h
  have hrunning := (trigger_reports.foldl
    (fun s (p : Nat × Change × Option Event) hs => trigger_reports.eventChange hs p.1 p.2.1 p.2.2)
    (eventChanges before s.gmx.entries) hs).snapshot
  unfold State.reportEvents
  dsimp only
  split
  · rw [State.trigger_running _ (by rw [hrunning]; exact hs)]
    exact hfold
  · exact hfold

end Sys2Proof.Machine

/-! PROOFS. What the sector reads reach, and what a guide sector's read takes in (1.6, 2.9). -/

namespace Sys2Proof.Machine

/-- Settles O52: what each owner does lasts through the work after the sector. -/
theorem sectorReadsReachTheirOwners : Obligations.SectorReadsReachTheirOwners := by
  refine ⟨fun s x data hv hscan hd hadopted => ?_, fun s x data hv hd => ⟨fun hscan hx => ?_, fun hscan c hc => ?_⟩⟩
  · refine ⟨_, exec_mirrorSectorVerify hv hd hscan, ?_⟩
    generalize hu : s.clearPorts.countSector = u
    have hua : u.rst.adopted = true := by rw [← hu]; exact hadopted
    have hwork := State.afterSector_beyondWork (u.mirrorVerify State.trigger x data)
    have hlasts := State.mirrorVerify_lasting (x := x) (.inl hua) data
    have hrework := State.mirrorVerify_rework (x := x) (.inl hua) data
    have hleaves := u.replaceSector_leaves x data
    generalize hw : u.mirrorVerify State.trigger x data = w at hwork hlasts hrework ⊢
    have hbase : u.anchorBase = s.anchorBase := by rw [← hu]; rfl
    have hanchor : w.rst.anchor = (u.replaceSector x data).rst.anchor := hrework.anchor
    have hschedule : w.rst.schedule = (u.replaceSector x data).rst.schedule := hrework.schedule
    refine ⟨(beyondWork_scan hwork).trans ?_, (beyondWork_pins hwork).trans ?_, (beyondWork_counter hwork).trans ?_,
      fun y => ?_, fun hx => ?_, fun base hx hb => ?_⟩
    · rw [show w.fpx.scan = _ from congrArg (fun p => p.2.2.2.2.2.scan) hlasts, hleaves, ← hu]
      rfl
    · rw [hrework.pins, hleaves, ← hu]
      rfl
    · rw [hrework.counter, hleaves, ← hu]
      rfl
    · have hverify : w.rst.verify = u.rst.verify.filter fun y => y ≠ x :=
        (congrArg (fun p => p.2.2.1) hlasts :).trans (by rw [hleaves]; rfl)
      rw [beyondWork_rst hwork, hverify, List.mem_filter, decide_eq_true_iff, ← hu]
      rfl
    · rw [beyondWork_rst hwork, hanchor, hschedule, State.replaceSector_anchor (hx.trans hbase.symm), ← hu]
      refine ⟨rfl, fun a => ?_⟩
      rw [Memory.read_replace, hd, Nat.zero_add, Nat.sub_zero]
      simp only [Nat.zero_le, true_and]
      rfl
    · have hub : u.scheduleBase = some base := by rw [← hu]; exact hb
      rw [beyondWork_rst hwork, hanchor, hschedule, State.replaceSector_schedule (by rwa [hbase]) hub, ← hu]
      refine ⟨rfl, fun a => ?_⟩
      rw [Memory.read_replace, hd]
      rfl
  · refine ⟨_, exec_guideSectorVerify hv hd hscan, ?_⟩
    generalize hu : s.clearPorts.countSector = u
    have hwork := State.afterSector_beyondWork (u.guideVerify State.trigger x data)
    have hrework := State.guideVerify_rework State.trigger_calm x data u
    have hleaves := u.guideTrusted_leaves x data
    have hcalm := State.reportEvents_calm State.trigger_calm true u.gmx.entries (u.guideTrusted x data)
    have hfades := fades_reports.reportEvents (s := u.guideTrusted x data) trivial true u.gmx.entries
    rw [← State.guideVerify_eq] at hcalm hfades
    generalize u.guideVerify State.trigger x data = w at hwork hrework hcalm hfades ⊢
    refine ⟨(beyondWork_scan hwork).trans ?_, fun y => ?_, fun e he hsector => ?_, ?_, ?_, (beyondWork_pins hwork).trans ?_⟩
    · rw [hcalm.fpx, hleaves, ← hu]
      rfl
    · rw [beyondWork_rst hwork, hcalm.verify, hleaves]
      dsimp only
      rw [List.mem_filter, decide_eq_true_iff, ← hu]
      rfl
    · rw [beyondWork_gmx hwork] at he
      have hstands := hfades e (.of_mem he)
      rw [hleaves] at hstands
      exact (State.guideTaken_sector hstands hsector).2
    · rw [beyondWork_rst hwork, hrework.anchor, ← hu]
      rfl
    · rw [beyondWork_rst hwork, hrework.schedule, ← hu]
      rfl
    · rw [hrework.pins, ← hu]
      rfl
  · refine ⟨_, exec_guideSectorScan hv hd hscan, ?_⟩
    generalize hu : s.clearPorts.countSector = u
    have hwork := State.afterSector_beyondWork (u.guideScan State.trigger x data)
    have hcalm := (u.takeSector_calm .scan ((sectorEvents x data).filter fun p => !u.held p.1)).trans
      (State.reportEvents_calm State.trigger_calm true u.gmx.entries (u.scanTaken x data))
    have heq := State.guideScan_eq State.trigger x data u
    generalize (u.scanTaken x data).reportEvents State.trigger true u.gmx.entries = v at hcalm heq
    generalize u.guideScan State.trigger x data = w at hwork heq ⊢
    have hrequest : u.ser.scanRequest = some c := by rw [← hu]; exact hc
    refine ⟨(beyondWork_scan hwork).trans ?_, ?_, (congrArg Ser.scanRequest (beyondWork_ser hwork)).trans ?_, ?_, ?_,
      (beyondWork_pins hwork).trans ?_⟩
    · rw [heq, hcalm.fpx, ← hu]
      rfl
    · rw [beyondWork_rst hwork, heq, hcalm.verify, ← hu]
      rfl
    · rw [heq]
      dsimp only
      rw [hcalm.scanRequest, hcalm.layout, hrequest, Option.bind_some, ← hu]
      rfl
    · rw [beyondWork_rst hwork, heq, hcalm.rework.anchor, ← hu]
      rfl
    · rw [beyondWork_rst hwork, heq, hcalm.rework.schedule, ← hu]
      rfl
    · rw [heq, hcalm.rework.pins, ← hu]
      rfl

/-! ### Taking in a guide sector -/

theorem stands_pruneDisplacing {es : List MatchedEntry} {e : MatchedEntry} (h : Stands es e) (hm : e.matched = true) :
    Stands (pruneDisplacing es) e := by
  obtain ⟨x, hx, hb⟩ := h
  obtain ⟨-, -, hlinked, hnamed, -, -⟩ := bare_eq_iff.1 hb
  refine ⟨x, mem_pruneDisplacing hx ?_, hb⟩
  rw [MatchedEntry.matched, hlinked, hnamed]
  exact hm

section
variable {s : State} (hroom : s.gmx.entries.length + 64 ≤ 384) (x : Nat) (data : List Byte)
include hroom

/-- With room a verified sector's matched events stand, the other sectors' matched entries stay, and no refusal is told
(R39). -/
theorem State.guideTaken_room :
    (s.guideTaken x data).rep = s.rep
      ∧ (∀ p ∈ sectorEvents x data, s.isMatched p.2 = true →
        Stands (s.guideTaken x data).gmx.entries (s.takenEntry .verify p.1 p.2))
      ∧ ∀ m ∈ s.gmx.entries, sectorOf m.slot ≠ x → m.matched = true → Stands (s.guideTaken x data).gmx.entries m := by
  have hkept : ((s.setEntries (s.gmx.entries.filter fun e => sectorOf e.slot ≠ x)).gmx.entries.length)
      ≤ s.gmx.entries.length := by
    simpa [State.setEntries, recomputeEffective] using List.length_filter_le _ _
  have hfew := length_sectorEvents x data
  obtain ⟨hrep, hkeeps, henters⟩ := State.takeSector_room
    (s := s.setEntries (s.gmx.entries.filter fun e => sectorOf e.slot ≠ x)) (slots := sectorEvents x data) (by omega) .verify
  unfold State.guideTaken
  refine ⟨hrep, fun p hp hm => ?_, fun m hm hx hmatched => ?_⟩ <;> rw [State.setEntries_stands]
  · exact stands_pruneDisplacing (henters p hp hm) hm
  · refine stands_pruneDisplacing (hkeeps m ?_) hmatched
    rw [State.setEntries_stands]
    exact .of_mem (List.mem_filter.2 ⟨hm, decide_eq_true hx⟩)

end

/-- A verification's notices: MIRROR_CORRECTED outside START-UP, where the sector's entries differ (R39). -/
theorem State.guideTrusted_notices {s : State} {x : Nat} {data : List Byte} (hroom : s.gmx.entries.length + 64 ≤ 384)
    (hp : s.pwc.power ≠ .startUp) : (s.guideTrusted x data).rep.notices =
      if sectorView s.gmx.entries x = sectorView (s.guideTaken x data).gmx.entries x then s.rep.notices
      else (s.post ⟨.mirrorCorrected, none, 3, s.clk.counter, x, 0⟩).rep.notices := by
  have hrep := (State.guideTaken_room hroom x data).1
  have hclk : (s.guideTaken x data).clk = s.clk := by rw [show s.guideTaken x data = _ from s.guideTaken_takes x data]
  unfold State.guideTrusted
  generalize s.guideTaken x data = u at hrep hclk ⊢
  by_cases hsame : sectorView s.gmx.entries x = sectorView u.gmx.entries x
  · simp [hsame, hrep]
  · simp [hsame, hp, State.postNow, hrep, hclk]

/-- Re-examining the work posts nothing outside START-UP and without a lend. -/
theorem State.afterSector_rep {s : State} (hp : s.pwc.power ≠ .startUp) (hl : s.fpx.lend = none) :
    s.afterWork.dormantTest.rep = s.rep := by
  rw [beyondSleep_rep s.afterWork.dormantTest_beyondSleep]
  rcases s.afterWork_cases with h | ⟨hstart, -, -⟩ | ⟨l, -, hlend, -⟩ | ⟨-, -, h⟩
  · rw [h]
  · exact absurd hstart hp
  · rw [hl] at hlend
    exact absurd hlend nofun
  · rw [h]
    rfl

/-- Settles O50: the slots are taken with room, and a report while a replan is RUNNING leaves the table as it is. -/
theorem guideSectorsAreTakenIn : Obligations.GuideSectorsAreTakenIn := by
  intro s x data hv hd hx hs hroom
  dsimp only
  refine ⟨fun hscan => ?_, fun hscan => ?_⟩
  · refine ⟨_, exec_guideSectorVerify hv hd hscan, ?_⟩
    obtain ⟨u, hu⟩ : ∃ u, s.clearPorts.countSector = u := ⟨_, rfl⟩
    have hug : u.gmx = s.gmx := by rw [← hu]; rfl
    have hus : u.pln.snapshot.isSome = true := by rw [← hu]; exact hs
    have huroom : u.gmx.entries.length + 64 ≤ 384 := by rw [hug]; exact hroom
    have hmatched (e : Event) : u.isMatched e = s.isMatched e := by rw [← hu]; rfl
    have hleaves := u.guideTrusted_leaves x data
    have htold := trigger_reports.reportEvents (s := u.guideTrusted x data) (by rw [hleaves]; exact hus) true u.gmx.entries
    have hwork := State.afterSector_beyondWork (u.guideVerify State.trigger x data)
    have htable : (u.guideVerify State.trigger x data).afterWork.dormantTest.gmx = (u.guideTaken x data).gmx :=
      (beyondWork_gmx hwork).trans (htold.gmx.trans (by rw [hleaves]))
    obtain ⟨-, henters, hstays⟩ := State.guideTaken_room huroom x data
    rw [hu, htable]
    refine ⟨fun slot e ⟨k, hk, hslot, he⟩ hm => ?_, fun m hm hsector => ?_, fun m hm hsector hmm => ?_,
      fun hruns hp hl => ?_⟩
    · obtain ⟨m, hmem, hb⟩ := henters (slot, e) (mem_sectorEvents.2 ⟨k, hk, hslot, he⟩) ((hmatched e).trans hm)
      obtain ⟨hslot', hevent, hlinked, hnamed, hdisplacing, hdoubtful⟩ := bare_eq_iff.1 hb
      refine ⟨m, hmem, hslot', hevent, hlinked.trans ?_, hnamed.trans ?_, hdisplacing.trans ?_, hdoubtful⟩
      · rw [← hu]; rfl
      · rw [← hu]; rfl
      · change (!u.isMatched e) = false
        rw [hmatched, hm]
        rfl
    · obtain ⟨hread, hdoubtful⟩ := State.guideTaken_sector (.of_mem hm) hsector
      exact ⟨mem_sectorEvents.1 hread, hdoubtful⟩
    · obtain ⟨m', hmem, hb⟩ := hstays m (by rw [hug]; exact hm) hsector hmm
      obtain ⟨hslot, hevent, -, -, -, hdoubtful⟩ := bare_eq_iff.1 hb
      exact ⟨m', hmem, hslot, hevent, hdoubtful⟩
    · have hrep : (u.guideVerify State.trigger x data).rep = (u.guideTrusted x data).rep :=
        State.reportEvents_rep (s := u.guideTrusted x data) (by rw [hleaves, ← hu]; exact hruns) (by rw [hleaves]; exact hus) true u.gmx.entries
      have hcalm := State.reportEvents_calm State.trigger_calm true u.gmx.entries (u.guideTrusted x data)
      have hpwc : (u.guideVerify State.trigger x data).pwc = u.pwc := hcalm.rework.pwc.trans (by rw [hleaves])
      have hfpx : (u.guideVerify State.trigger x data).fpx = u.fpx := hcalm.fpx.trans (by rw [hleaves])
      have hup : u.pwc.power ≠ .startUp := by rw [← hu]; exact hp
      rw [State.afterSector_rep (by rw [hpwc]; exact hup) (by rw [hfpx, ← hu, State.countSector]; simp [hl]), hrep,
        State.guideTrusted_notices huroom hup, hug, State.post_rep, State.post_rep, ← hu]
      rfl
  · refine ⟨_, exec_guideSectorScan hv hd hscan, ?_⟩
    obtain ⟨u, hu⟩ : ∃ u, s.clearPorts.countSector = u := ⟨_, rfl⟩
    have hug : u.gmx = s.gmx := by rw [← hu]; rfl
    have hus : u.pln.snapshot.isSome = true := by rw [← hu]; exact hs
    have hmatched (e : Event) : u.isMatched e = s.isMatched e := by rw [← hu]; rfl
    have hheld (slot : Nat) : u.held slot = s.held slot := by rw [State.held, hug]; rfl
    have hpln : (u.scanTaken x data).pln = u.pln := by
      rw [show u.scanTaken x data = _ from State.takeSector_takes _ _ _]
    have htold := trigger_reports.reportEvents (s := u.scanTaken x data) (by rw [hpln]; exact hus) true u.gmx.entries
    have hwork := State.afterSector_beyondWork (u.guideScan State.trigger x data)
    have htable : (u.guideScan State.trigger x data).afterWork.dormantTest.gmx = (u.scanTaken x data).gmx :=
      (beyondWork_gmx hwork).trans htold.gmx
    have hfew : u.gmx.entries.length + ((sectorEvents x data).filter fun p => !u.held p.1).length ≤ 384 := by
      have hall := length_sectorEvents x data
      have hsome := List.length_filter_le (fun p => !u.held p.1) (sectorEvents x data)
      rw [hug]
      omega
    obtain ⟨-, hkeeps, henters⟩ := State.takeSector_room hfew .scan
    rw [hu, htable]
    refine ⟨fun slot e ⟨k, hk, hslot, he⟩ hfree hm => ?_, fun m hm => ?_, fun m hm => ?_⟩
    · have hslots : (slot, e) ∈ (sectorEvents x data).filter fun p => !u.held p.1 :=
        List.mem_filter.2 ⟨mem_sectorEvents.2 ⟨k, hk, hslot, he⟩, by rw [hheld, hfree]; rfl⟩
      obtain ⟨m, hmem, hb⟩ := henters (slot, e) hslots ((hmatched e).trans hm)
      obtain ⟨hslot', hevent, hlinked, hnamed, hdisplacing, hdoubtful⟩ := bare_eq_iff.1 hb
      refine ⟨m, hmem, hslot', hevent, hlinked.trans ?_, hnamed.trans ?_, hdisplacing.trans ?_, hdoubtful.trans ?_⟩
      · rw [← hu]; rfl
      · rw [← hu]; rfl
      · change (!u.isMatched e) = false
        rw [hmatched, hm]
        rfl
      · rw [← hu]; rfl
    · rcases State.takeSector_origin u .scan _ (.of_mem hm) with ⟨y, hy, hb⟩ | ⟨p, hp, hb⟩
      · refine .inl (List.any_eq_true.2 ⟨y, by rw [← hug]; exact hy, ?_⟩)
        exact decide_eq_true (bare_eq_iff.1 hb).1
      · obtain ⟨hslot, hevent, -⟩ := bare_eq_iff.1 hb
        refine .inr (mem_sectorEvents.1 ?_)
        rw [← hslot, ← hevent]
        exact (List.mem_filter.1 hp).1
    · obtain ⟨m', hmem, hb⟩ := hkeeps m (.of_mem (by rw [hug]; exact hm))
      obtain ⟨hslot, hevent, -, -, -, hdoubtful⟩ := bare_eq_iff.1 hb
      exact ⟨m', hmem, hslot, hevent, hdoubtful⟩

end Sys2Proof.Machine

/-! PROOFS. The adoption of a configuration (1.8): a first verification out of a state that keeps the laws of the start, and that
uses up a guide scan request. -/

namespace Sys2Proof.Machine

/-! ### A schedule mirror that reaches beyond its partition

Neither `StartUpLaw` nor `ClassTableLaw` bounds the offsets of the schedule mirror's cells. The adopted partition's sectors join the
verify set, but a link record at mirror offset 10000h stands beyond them: the link enters its table at the adoption, and raises the
guide scan request. -/

/-- A link record, id 5, at offset 10000h. -/
def strayLink : Memory :=
  [(0x10000, 0x3F), (0x10001, 0x03), (0x10002, 0x05), (0x10003, 0x00), (0x10004, 0x00), (0x10005, 0x00), (0x10006, 0x04),
    (0x10007, 0x01), (0x10008, 0x15), (0x10009, 0x00), (0x1000B, 0x05), (0x1000C, 0x02), (0x1000D, 0x4E), (0x1000E, 0x44)]

/-- START-UP, the anchor being read for its first verification. -/
def strayStart : State :=
  { State.reset with
    fpx := { Fpx.afterReset with scan := .reading 0xFFF000 .mirror }
    rst := { Rst.afterReset .mib16 with schedule := strayLink } }

/-- A CONFIG slot with the schedule partition at 010000h and a guide partition at 100000h. -/
def strayConfig : List Byte :=
  [0x3F, 0x10, 0x05, 0x00, 0x01, 0x02, 0x03, 0x02, 0x05, 0xB4, 0x00, 0x1E, 0x00, 0x3C, 0x00, 0x0E, 0x02, 0x00, 0x00, 0x01, 0x00,
    0x00, 0x10, 0x02, 0x00, 0x00, 0x7E]

/-- An anchor sector with that CONFIG and nothing else. -/
def strayAnchor : List Byte := strayConfig ++ List.replicate (4096 - strayConfig.length) 0xFF

/-- The state its verification answers. -/
def strayAdopted : State :=
  match exec (.mirrorSectorVerify strayAnchor) strayStart with
  | .next t => t
  | _ => strayStart

theorem exec_strayStart : exec (.mirrorSectorVerify strayAnchor) strayStart = .next strayAdopted := rfl

theorem strayStart_startUpLaw : strayStart.StartUpLaw := fun _ =>
  ⟨rfl, rfl, rfl, rfl, rfl, rfl, rfl, by decide, fun x p h => by
    rcases h with h | h
    · cases h
    · cases h
      exact ⟨by decide, rfl⟩, rfl, rfl, rfl, rfl, rfl, rfl⟩

theorem strayAdopted_scanRequest : strayAdopted.ser.scanRequest = some 0 := by decide +kernel

theorem length_strayAnchor : strayAnchor.length = 4096 := by
  rw [strayAnchor, List.length_append, List.length_replicate]
  rfl

/-- Refutes O46: the adoption enters the stray link in its table, which raises the guide scan request. -/
theorem not_adoptionAndTheEndOfStartUp : ¬ Obligations.AdoptionAndTheEndOfStartUp := by
  rintro ⟨hadopts, -⟩
  obtain ⟨t, ht, -, -, -, -, -, -, -, -, hrequest, -⟩ := hadopts strayStart strayAnchor rfl rfl length_strayAnchor rfl
    strayStart_startUpLaw rfl
  have heq : strayAdopted = t := Host.Outcome.next.inj (exec_strayStart.symm.trans ht)
  rw [← heq, strayAdopted_scanRequest] at hrequest
  exact Option.some_ne_none 0 hrequest

end Sys2Proof.Machine

/-! PROOFS. The episodes that are offered (3.4, 3.5), and the effective records and events (1.5, 2.5). -/

namespace Sys2Proof.Machine

/-! ### The candidates of the series -/

/-- What a key's candidate is made of: a key that no test removes, and its showings (R47 to R54). -/
theorem State.candidateOf_some {s : State} {k : EpisodeKey} {l : LinkRec} {group : List Event} {c : Candidate}
    (h : s.candidateOf k l group = some c) :
    s.keyRemoved k l group = false ∧ c.origin = some ⟨l.id, k⟩
      ∧ ∀ sh ∈ c.showing :: c.alternates, ∃ e, s.isShowing l e = true ∧ e.showing = sh := by
  unfold State.candidateOf at h
  split at h
  · exact absurd h nofun
  · next hremoved =>
    refine ⟨Bool.eq_false_iff.2 hremoved, ?_⟩
    split at h
    · exact absurd h nofun
    · next p rest hsorted =>
      cases h
      refine ⟨rfl, fun sh hsh => ?_⟩
      obtain ⟨e, he, rfl⟩ := List.mem_map.1 (show sh ∈ (p :: rest).map Event.showing from hsh)
      rw [← hsorted, (sortBy_perm _ _).mem_iff] at he
      exact ⟨e, (List.mem_filter.1 he).2, rfl⟩

/-- A key that no test removes is not marked, pending or being recorded (R47, R48, R51). -/
theorem State.keyRemoved_false {s : State} {k : EpisodeKey} {l : LinkRec} {group : List Event}
    (h : s.keyRemoved k l group = false) :
    marked s.rst.tables.marks k = false ∧ (∀ p ∈ s.ser.pendingMarks, p.key ≠ k)
      ∧ ∀ r ∈ s.run.runs, ∀ v o, r.kind = .series v o → o.key ≠ k := by
  unfold State.keyRemoved at h
  simp only [Bool.or_eq_false_iff] at h
  obtain ⟨⟨⟨⟨hmarked, hpending⟩, -⟩, -⟩, hrecorded⟩ := h
  refine ⟨hmarked, fun p hp hk => ?_, fun r hr v o hkind hk => ?_⟩
  · exact absurd (decide_eq_true hk) (List.any_eq_false.1 hpending p hp)
  · have hone := List.any_eq_false.1 hrecorded r hr
    rw [hkind] at hone
    exact hone (decide_eq_true hk)

theorem State.isShowing_ahead {s : State} {l : LinkRec} {e : Event} (h : s.isShowing l e = true) :
    s.clk.counter < min (e.start + e.duration) 0xFFFFFFFF := by
  unfold State.isShowing at h
  simp only [Bool.and_eq_true, decide_eq_true_eq] at h
  exact h.1.1

/-- Settles O44: a candidate comes from a key that no test removes, with showings that have not ended. -/
theorem recordedEpisodesAreNotOffered : Obligations.RecordedEpisodesAreNotOffered := by
  intro s c hc
  obtain ⟨p, -, hp⟩ := List.mem_filterMap.1 hc
  obtain ⟨hkept, horigin, hshowings⟩ := State.candidateOf_some hp
  obtain ⟨hmarked, hpending, hrecorded⟩ := State.keyRemoved_false hkept
  refine ⟨_, horigin, hmarked, hpending, hrecorded, fun sh hsh => ?_⟩
  obtain ⟨e, he, rfl⟩ := hshowings sh hsh
  exact State.isShowing_ahead he

/-! ### Contenders of one id -/

/-- A higher revision, or the same one at a higher slot address (R15, R31). -/
def Beats (v slot v' slot' : Nat) : Prop := v' < v ∨ (v' = v ∧ slot' < slot)

theorem outranks_iff {v slot v' slot' : Nat} : outranks v slot v' slot' = true ↔ Beats v slot v' slot' := by
  simp [outranks, Beats]

theorem Beats.trans {a p b q c r : Nat} (h : Beats a p b q) (k : Beats b q c r) : Beats a p c r := by
  unfold Beats at *
  omega

/-- Of two that do not beat each other the revision and the slot are one. -/
theorem Beats.eq_of_not {v slot v' slot' : Nat} (h : ¬ Beats v slot v' slot') (k : ¬ Beats v' slot' v slot) :
    v = v' ∧ slot = slot' := by
  unfold Beats at *
  omega

section
variable {α : Type} {id revision slot : α → Nat} {xs : List α}

/-- Some element of a list is beaten by none. -/
theorem exists_unbeaten (revision slot : α → Nat) {xs : List α} (h : xs ≠ []) :
    ∃ x ∈ xs, ∀ y ∈ xs, ¬ Beats (revision y) (slot y) (revision x) (slot x) := by
  induction xs with
  | nil => exact absurd rfl h
  | cons a rest ih =>
    have hself (x : α) : ¬ Beats (revision x) (slot x) (revision x) (slot x) := by simp [Beats]
    by_cases hrest : rest = []
    · subst hrest
      exact ⟨a, List.mem_cons_self, fun y hy => by rw [List.mem_singleton.1 hy]; exact hself a⟩
    · obtain ⟨x, hx, hbest⟩ := ih hrest
      by_cases ha : Beats (revision a) (slot a) (revision x) (slot x)
      · refine ⟨a, List.mem_cons_self, fun y hy hb => ?_⟩
        rcases List.mem_cons.1 hy with rfl | hy
        · exact hself _ hb
        · exact hbest y hy (hb.trans ha)
      · refine ⟨x, List.mem_cons_of_mem _ hx, fun y hy => ?_⟩
        rcases List.mem_cons.1 hy with rfl | hy
        · exact ha
        · exact hbest y hy

theorem mem_effectiveOf {x : α} : x ∈ effectiveOf id revision slot xs ↔
    x ∈ xs ∧ ∀ y ∈ xs, id y = id x → ¬ Beats (revision y) (slot y) (revision x) (slot x) := by
  unfold effectiveOf
  rw [List.mem_filter, List.all_eq_true]
  refine and_congr_right fun _ => forall₂_congr fun y _ => ?_
  rw [← outranks_iff]
  by_cases h : id y = id x <;> simp [h]

theorem effectiveOf_eq_nil : effectiveOf (fun _ => 0) revision slot xs = [] ↔ xs = [] := by
  refine ⟨fun h => ?_, fun h => by rw [h]; rfl⟩
  by_contra hne
  obtain ⟨x, hx, hbest⟩ := exists_unbeaten revision slot hne
  have hmem : x ∈ effectiveOf (fun _ => 0) revision slot xs := mem_effectiveOf.2 ⟨hx, fun y hy _ => hbest y hy⟩
  rw [h] at hmem
  exact absurd hmem List.not_mem_nil

/-- Where the slots differ, no id is effective twice. -/
theorem nodup_effectiveOf (h : xs.Pairwise fun a b => slot a < slot b) : ((effectiveOf id revision slot xs).map id).Nodup := by
  rw [List.Nodup, List.pairwise_map]
  refine (h.sublist List.filter_sublist).imp_of_mem fun {a b} ha hb hlt hid => ?_
  obtain ⟨hax, habest⟩ := mem_effectiveOf.1 ha
  obtain ⟨hbx, hbbest⟩ := mem_effectiveOf.1 hb
  have hslot := (Beats.eq_of_not (hbbest a hax hid) (habest b hbx hid.symm)).2
  omega

end

/-! ### The records of the schedule mirror -/

theorem State.mem_schedRecords {s : State} {p : Nat × Nat × SchedSlot} (h : p ∈ s.schedRecords) :
    p.2.2 = .damaged ∨ ∃ f, p.2.2 = schedSlot f p.2.1 := by
  obtain ⟨q, -, hq⟩ := List.mem_filterMap.1 h
  split at hq
  · cases hq
    exact .inr ⟨_, rfl⟩
  · cases hq
    exact .inl rfl
  · exact absurd hq nofun

/-- The records stand ascending by slot address (R5). -/
theorem State.schedRecords_pairwise {s : State} (h : s.rst.schedule.wf = true) :
    s.schedRecords.Pairwise fun p q => p.2.1 < q.2.1 := by
  have hslots : s.schedSlots.Pairwise fun p q => p.2.1 < q.2.1 := by
    unfold State.schedSlots
    split
    · exact List.Pairwise.nil
    · refine List.Pairwise.filter _ (List.pairwise_map.2 ?_)
      exact (List.Pairwise.filter _ ((Memory.wf_iff _).1 h).1).imp fun hlt => Nat.add_lt_add_left hlt _
  refine List.Pairwise.filterMap _ (fun p q hlt p' hp q' hq => ?_) hslots
  split at hp <;> cases hp <;> split at hq <;> cases hq <;> exact hlt

/-- The records of one kind among the slots that stand. -/
def State.ofKind {α : Type} (s : State) (sel : SchedSlot → Option α) : List α :=
  (s.schedRecords.map fun p => p.2.2).filterMap sel

/-- The slot stands: LIVE and outside the verify set, or DAMAGED (R5). -/
def State.StandsSched (s : State) (x : SchedSlot) : Prop := ∃ off addr, (off, addr, x) ∈ s.schedRecords

section
variable {α : Type} {s : State} {sel : SchedSlot → Option α} {mk : α → SchedSlot} {slot : α → Nat}
  (hsel : ∀ x a, sel x = some a ↔ x = mk a)
include hsel

theorem State.mem_ofKind {a : α} : a ∈ s.ofKind sel ↔ s.StandsSched (mk a) := by
  simp only [State.ofKind, List.mem_filterMap, List.mem_map, hsel]
  constructor
  · rintro ⟨x, ⟨⟨off, addr, y⟩, hy, rfl⟩, rfl⟩
    exact ⟨off, addr, hy⟩
  · rintro ⟨off, addr, h⟩
    exact ⟨_, ⟨_, h, rfl⟩, rfl⟩

/-- The records of a kind that carry their slot addresses stand ascending by them. -/
theorem State.ofKind_pairwise (hwf : s.rst.schedule.wf = true) (hdamaged : ∀ a, mk a ≠ .damaged)
    (hslot : ∀ f addr a, schedSlot f addr = mk a → slot a = addr) :
    (s.ofKind sel).Pairwise fun a b => slot a < slot b := by
  have hplace {p : Nat × Nat × SchedSlot} {a : α} (hp : p ∈ s.schedRecords) (ha : sel p.2.2 = some a) : slot a = p.2.1 := by
    have hmk := (hsel _ _).1 ha
    rcases State.mem_schedRecords hp with h | ⟨f, h⟩
    · exact absurd (hmk.symm.trans h) (hdamaged a)
    · exact hslot f _ a (h.symm.trans hmk)
  rw [State.ofKind, List.filterMap_map]
  refine List.pairwise_filterMap.2 ((State.schedRecords_pairwise hwf).imp_of_mem fun hp hq hlt a ha b hb => ?_)
  rw [hplace hp ha, hplace hq hb]
  exact hlt

end

def SchedSlot.service? : SchedSlot → Option ServiceRec
  | .service r => some r
  | _ => none

def SchedSlot.booking? : SchedSlot → Option BookingRec
  | .booking r => some r
  | _ => none

def SchedSlot.link? : SchedSlot → Option LinkRec
  | .link r => some r
  | _ => none

def SchedSlot.mark? : SchedSlot → Option MarkRec
  | .mark r => some r
  | _ => none

theorem SchedSlot.service?_iff (x : SchedSlot) (a : ServiceRec) : x.service? = some a ↔ x = .service a := by
  cases x <;> simp [SchedSlot.service?]

theorem SchedSlot.booking?_iff (x : SchedSlot) (a : BookingRec) : x.booking? = some a ↔ x = .booking a := by
  cases x <;> simp [SchedSlot.booking?]

theorem SchedSlot.link?_iff (x : SchedSlot) (a : LinkRec) : x.link? = some a ↔ x = .link a := by
  cases x <;> simp [SchedSlot.link?]

theorem SchedSlot.mark?_iff (x : SchedSlot) (a : MarkRec) : x.mark? = some a ↔ x = .mark a := by
  cases x <;> simp [SchedSlot.mark?]

/-- The effective records, kind by kind (R15, R16). -/
theorem State.effectiveRecords_eq (s : State) : s.effectiveRecords =
    ⟨effectiveOf ServiceRec.id ServiceRec.revision ServiceRec.slot (s.ofKind SchedSlot.service?),
      effectiveOf BookingRec.id BookingRec.revision BookingRec.slot (s.ofKind SchedSlot.booking?),
      effectiveOf LinkRec.id LinkRec.revision LinkRec.slot (s.ofKind SchedSlot.link?),
      presentMarks (s.ofKind SchedSlot.mark?)⟩ := rfl

/-! ### The slot a record was read from -/

theorem parseService_slot {f : Nat → Byte} {slot : Nat} {r : ServiceRec} (h : parseService f slot = some r) : r.slot = slot := by
  unfold parseService at h
  dsimp only at h
  split at h
  · cases h
    rfl
  · exact absurd h nofun

theorem parseBooking_slot {f : Nat → Byte} {slot : Nat} {r : BookingRec} (h : parseBooking f slot = some r) : r.slot = slot := by
  unfold parseBooking at h
  dsimp only at h
  split at h
  · cases h
    rfl
  · exact absurd h nofun

theorem parseLink_slot {f : Nat → Byte} {slot : Nat} {r : LinkRec} (h : parseLink f slot = some r) : r.slot = slot := by
  unfold parseLink at h
  dsimp only at h
  split at h
  · exact absurd h nofun
  · split at h
    · cases h
      rfl
    · exact absurd h nofun

theorem parseMark_slot {f : Nat → Byte} {slot : Nat} {r : MarkRec} (h : parseMark f slot = some r) : r.slot = slot := by
  unfold parseMark at h
  dsimp only at h
  split at h
  · exact absurd h nofun
  · split at h
    · cases h
      rfl
    · exact absurd h nofun

/-- The slot address a record carries. -/
def SchedSlot.slotAddr : SchedSlot → Option Nat
  | .service r => some r.slot
  | .booking r => some r.slot
  | .link r => some r.slot
  | .mark r => some r.slot
  | .foreign => none
  | .damaged => none

theorem SchedSlot.of_slotAddr {α : Type} {mk : α → SchedSlot} {o : Option α} {addr n : Nat} (slot : α → Nat)
    (hmk : ∀ a, (mk a).slotAddr = some (slot a)) (hslot : ∀ a, o = some a → slot a = addr)
    (h : (SchedSlot.of mk o).slotAddr = some n) : n = addr := by
  cases o with
  | none => exact absurd h nofun
  | some a => exact (Option.some.inj ((hmk a).symm.trans h)).symm.trans (hslot a rfl)

/-- A record carries the address of the slot it was read from. -/
theorem schedSlot_slotAddr {f : Nat → Byte} {addr n : Nat} (h : (schedSlot f addr).slotAddr = some n) : n = addr := by
  unfold schedSlot at h
  split at h
  · exact SchedSlot.of_slotAddr ServiceRec.slot (fun _ => rfl) (fun _ => parseService_slot) h
  · exact SchedSlot.of_slotAddr BookingRec.slot (fun _ => rfl) (fun _ => parseBooking_slot) h
  · exact SchedSlot.of_slotAddr LinkRec.slot (fun _ => rfl) (fun _ => parseLink_slot) h
  · exact SchedSlot.of_slotAddr MarkRec.slot (fun _ => rfl) (fun _ => parseMark_slot) h
  · exact absurd h nofun

theorem State.services_pairwise {s : State} (h : s.rst.schedule.wf = true) :
    (s.ofKind SchedSlot.service?).Pairwise fun a b => a.slot < b.slot :=
  State.ofKind_pairwise SchedSlot.service?_iff h nofun fun f addr a ha =>
    schedSlot_slotAddr (by rw [ha]; rfl : (schedSlot f addr).slotAddr = some a.slot)

theorem State.bookings_pairwise {s : State} (h : s.rst.schedule.wf = true) :
    (s.ofKind SchedSlot.booking?).Pairwise fun a b => a.slot < b.slot :=
  State.ofKind_pairwise SchedSlot.booking?_iff h nofun fun f addr a ha =>
    schedSlot_slotAddr (by rw [ha]; rfl : (schedSlot f addr).slotAddr = some a.slot)

theorem State.links_pairwise {s : State} (h : s.rst.schedule.wf = true) :
    (s.ofKind SchedSlot.link?).Pairwise fun a b => a.slot < b.slot :=
  State.ofKind_pairwise SchedSlot.link?_iff h nofun fun f addr a ha =>
    schedSlot_slotAddr (by rw [ha]; rfl : (schedSlot f addr).slotAddr = some a.slot)

theorem State.marks_pairwise {s : State} (h : s.rst.schedule.wf = true) :
    (s.ofKind SchedSlot.mark?).Pairwise fun a b => a.slot < b.slot :=
  State.ofKind_pairwise SchedSlot.mark?_iff h nofun fun f addr a ha =>
    schedSlot_slotAddr (by rw [ha]; rfl : (schedSlot f addr).slotAddr = some a.slot)

/-! ### Marks -/

/-- A mark's key (R16). -/
def MarkRec.key (m : MarkRec) : Nat × Tag × Nat := (m.link, m.tag, m.part)

theorem presentMarks_cons (m : MarkRec) (rest : List MarkRec) :
    presentMarks (m :: rest) = m :: (presentMarks rest).filter fun x => decide (x.key ≠ m.key) := by
  rw [presentMarks]
  congr 1
  refine List.filter_congr fun x _ => ?_
  simp [MarkRec.key, Bool.or_assoc]

theorem presentMarks_subset {ms : List MarkRec} {m : MarkRec} (h : m ∈ presentMarks ms) : m ∈ ms := by
  induction ms with
  | nil => exact h
  | cons a rest ih =>
    rw [presentMarks_cons, List.mem_cons] at h
    rcases h with rfl | h
    · exact List.mem_cons_self
    · exact List.mem_cons_of_mem _ (ih (List.mem_filter.1 h).1)

theorem nodup_presentMarks (ms : List MarkRec) : ((presentMarks ms).map MarkRec.key).Nodup := by
  induction ms with
  | nil => exact List.nodup_nil
  | cons a rest ih =>
    rw [presentMarks_cons, List.map_cons, List.nodup_cons]
    refine ⟨fun h => ?_, ih.sublist (List.filter_sublist.map _)⟩
    obtain ⟨x, hx, hk⟩ := List.mem_map.1 h
    exact of_decide_eq_true (List.mem_filter.1 hx).2 hk

/-- Each key among the marks is present (R16). -/
theorem exists_presentMark {ms : List MarkRec} {m : MarkRec} (h : m ∈ ms) : ∃ x ∈ presentMarks ms, x.key = m.key := by
  induction ms with
  | nil => exact absurd h List.not_mem_nil
  | cons a rest ih =>
    rw [presentMarks_cons]
    by_cases hk : a.key = m.key
    · exact ⟨a, List.mem_cons_self, hk⟩
    · rcases List.mem_cons.1 h with rfl | h
      · exact absurd rfl hk
      · obtain ⟨x, hx, hxk⟩ := ih h
        exact ⟨x, List.mem_cons_of_mem _ (List.mem_filter.2 ⟨hx, decide_eq_true fun he => hk (he.symm.trans hxk)⟩), hxk⟩

/-- Of marks ascending by slot address the present one of a key stands lowest (R16). -/
theorem presentMark_lowest {ms : List MarkRec} (hms : ms.Pairwise fun a b => a.slot < b.slot) {m r : MarkRec}
    (h : m ∈ presentMarks ms) (hr : r ∈ ms) (hk : r.key = m.key) : m.slot ≤ r.slot := by
  induction ms with
  | nil => exact absurd hr List.not_mem_nil
  | cons a rest ih =>
    obtain ⟨hbelow, hrest⟩ := List.pairwise_cons.1 hms
    rw [presentMarks_cons, List.mem_cons] at h
    rcases h with rfl | h
    · rcases List.mem_cons.1 hr with rfl | hr
      · exact le_rfl
      · exact (hbelow r hr).le
    · obtain ⟨hm, hne⟩ := List.mem_filter.1 h
      rcases List.mem_cons.1 hr with rfl | hr
      · exact absurd hk.symm (of_decide_eq_true hne)
      · exact ih hrest hm hr

/-! ### The anchor's records -/

/-- The records of one kind among the anchor's slots that stand. -/
def State.ofAnchor {α : Type} (s : State) (sel : AnchorSlot → Option α) : List α := s.anchorRecords.filterMap fun p => sel p.2.2

theorem State.mem_ofAnchor {α : Type} {s : State} {sel : AnchorSlot → Option α} {mk : α → AnchorSlot}
    (hsel : ∀ x a, sel x = some a ↔ x = mk a) {a : α} :
    a ∈ s.ofAnchor sel ↔ ∃ off addr, (off, addr, mk a) ∈ s.anchorRecords := by
  simp only [State.ofAnchor, List.mem_filterMap, hsel]
  constructor
  · rintro ⟨⟨off, addr, x⟩, hx, rfl⟩
    exact ⟨off, addr, hx⟩
  · rintro ⟨off, addr, h⟩
    exact ⟨_, h, rfl⟩

def AnchorSlot.config? : AnchorSlot → Option ConfigRec
  | .config r => some r
  | _ => none

def AnchorSlot.opcodes? : AnchorSlot → Option OpcodesRec
  | .opcodes r => some r
  | _ => none

theorem AnchorSlot.config?_iff (x : AnchorSlot) (a : ConfigRec) : x.config? = some a ↔ x = .config a := by
  cases x <;> simp [AnchorSlot.config?]

theorem AnchorSlot.opcodes?_iff (x : AnchorSlot) (a : OpcodesRec) : x.opcodes? = some a ↔ x = .opcodes a := by
  cases x <;> simp [AnchorSlot.opcodes?]

theorem State.resolveConfig_eq (s : State) : s.resolveConfig =
    (effectiveOf (fun _ => 0) ConfigRec.revision ConfigRec.slot (s.ofAnchor AnchorSlot.config?)).head? := rfl

theorem State.resolveOpcodes_eq (s : State) : s.resolveOpcodes =
    (effectiveOf (fun _ => 0) OpcodesRec.revision OpcodesRec.slot (s.ofAnchor AnchorSlot.opcodes?)).head? := rfl

section
variable {α : Type} {revision slot : α → Nat} {xs : List α}

theorem head?_effectiveOf {r : α} (h : (effectiveOf (fun _ => 0) revision slot xs).head? = some r) :
    r ∈ xs ∧ ∀ y ∈ xs, ¬ Beats (revision y) (slot y) (revision r) (slot r) := by
  obtain ⟨hr, hbest⟩ := mem_effectiveOf.1 (List.mem_of_head? h)
  exact ⟨hr, fun y hy => hbest y hy rfl⟩

theorem head?_effectiveOf_eq_none : (effectiveOf (fun _ => 0) revision slot xs).head? = none ↔ ∀ x, x ∉ xs := by
  rw [List.head?_eq_none_iff, effectiveOf_eq_nil, List.eq_nil_iff_forall_not_mem]

end

/-! ### The effective marks of the held events -/

/-- The entry's effective mark by the table's other entries (R31). -/
theorem recomputeEffective_effective {es : List MatchedEntry} {x : MatchedEntry} (h : x ∈ recomputeEffective es) :
    x.effective = true ↔ x.doubtful = false
      ∧ ∀ y ∈ es, y.doubtful = false → y.event.id = x.event.id → ¬ Beats y.event.version y.slot x.event.version x.slot := by
  obtain ⟨e, -, rfl⟩ := List.mem_map.1 h
  simp only [Bool.and_eq_true, Bool.not_eq_true', List.all_eq_true]
  refine and_congr_right fun _ => forall₂_congr fun y _ => ?_
  rw [← outranks_iff, MatchedEntry.outranks]
  cases y.doubtful <;> by_cases hid : y.event.id = e.event.id <;> simp [hid]

theorem forall_recomputeEffective {es : List MatchedEntry} {P : Bool → Event → Nat → Prop} :
    (∀ y ∈ recomputeEffective es, P y.doubtful y.event y.slot) ↔ ∀ y ∈ es, P y.doubtful y.event y.slot := by
  simp [recomputeEffective]

/-- The same by the table's entries as they are marked. -/
theorem recomputeEffective_ranked {es : List MatchedEntry} {x : MatchedEntry} (h : x ∈ recomputeEffective es) :
    x.effective = true ↔ x.doubtful = false ∧ ∀ y ∈ recomputeEffective es, y.doubtful = false → y.event.id = x.event.id →
      ¬ Beats y.event.version y.slot x.event.version x.slot := by
  rw [recomputeEffective_effective h]
  exact and_congr_right fun _ => (forall_recomputeEffective (P := fun d e slot => d = false → e.id = x.event.id →
    ¬ Beats e.version slot x.event.version x.slot)).symm

/-- Settles O45: each kind's ranking, the two records of the anchor, and the ranking of the held events. -/
theorem effectiveRecordsAreUnique : Obligations.EffectiveRecordsAreUnique := by
  refine ⟨fun s hwf => ?_, fun s => ?_, fun s => ?_, fun es => ?_⟩
  · rw [State.effectiveRecords_eq]
    exact ⟨nodup_effectiveOf (State.services_pairwise hwf), nodup_effectiveOf (State.bookings_pairwise hwf),
      nodup_effectiveOf (State.links_pairwise hwf), nodup_presentMarks _⟩
  · rw [State.effectiveRecords_eq]
    refine ⟨fun r => ?_, fun r => ?_, fun r => ?_, fun r hr => ?_, fun hwf m hm => ?_⟩
    · simp only [mem_effectiveOf, State.mem_ofKind SchedSlot.service?_iff]
      rfl
    · simp only [mem_effectiveOf, State.mem_ofKind SchedSlot.booking?_iff]
      rfl
    · simp only [mem_effectiveOf, State.mem_ofKind SchedSlot.link?_iff]
      rfl
    · obtain ⟨m, hm, hk⟩ := exists_presentMark ((State.mem_ofKind SchedSlot.mark?_iff).2 hr)
      simp only [MarkRec.key, Prod.mk.injEq] at hk
      exact ⟨m, hm, hk⟩
    · refine ⟨(State.mem_ofKind SchedSlot.mark?_iff).1 (presentMarks_subset hm), fun r hr hlink htag hpart => ?_⟩
      exact presentMark_lowest (State.marks_pairwise hwf) hm ((State.mem_ofKind SchedSlot.mark?_iff).2 hr)
        (by simp only [MarkRec.key, hlink, htag, hpart])
  · rw [State.resolveConfig_eq, State.resolveOpcodes_eq]
    simp only [← State.mem_ofAnchor AnchorSlot.config?_iff, ← State.mem_ofAnchor AnchorSlot.opcodes?_iff]
    exact ⟨fun r hr => head?_effectiveOf hr, head?_effectiveOf_eq_none, fun r hr => head?_effectiveOf hr,
      head?_effectiveOf_eq_none⟩
  · refine ⟨?_, fun x hx => recomputeEffective_ranked hx, fun y hy hd => ?_, fun x hx y hy hxe hye hid => ?_⟩
    · simp [recomputeEffective]
    · obtain ⟨x, hx, hbest⟩ := exists_unbeaten (fun e : MatchedEntry => e.event.version) MatchedEntry.slot
        (xs := (recomputeEffective es).filter fun e => !e.doubtful && e.event.id = y.event.id)
        (List.ne_nil_of_mem (List.mem_filter.2 ⟨hy, by simp [hd]⟩))
      simp only [List.mem_filter, Bool.and_eq_true, Bool.not_eq_true', decide_eq_true_eq] at hx hbest
      obtain ⟨hmem, hxd, hid⟩ := hx
      exact ⟨x, hmem, hid, (recomputeEffective_ranked hmem).2 ⟨hxd, fun z hz hzd hzid => hbest z ⟨hz, hzd, hzid.trans hid⟩⟩⟩
    · obtain ⟨hxd, hxbest⟩ := (recomputeEffective_ranked hx).1 hxe
      obtain ⟨hyd, hybest⟩ := (recomputeEffective_ranked hy).1 hye
      exact Beats.eq_of_not (hybest x hx hxd hid) (hxbest y hy hyd hid.symm)

end Sys2Proof.Machine

/-! PROOFS. REPLAN_PUBLISH (4.8): the plan replaced, the run engine reconciled, the channels WARN and WAKE reloaded. -/

namespace Sys2Proof.Machine

/-- A flag that is raised stays raised (R165). -/
theorem sticky_stays {s t : State} (h : Keeps s t) {i : Nat} (hi : s.rep.sticky.getLsbD i = true) :
    t.rep.sticky.getLsbD i = true := by
  rw [← h.sticky, BitVec.getLsbD_or, hi, Bool.true_or]

/-- A post's notices, whatever the flags (R163). -/
theorem Rep.posted_notices (r : Rep) (n : Notice) :
    (r.posted n).notices = (if r.notices.length < 32 then r.notices else r.notices.drop 1) ++ [n] := by
  unfold Rep.posted
  split <;> rfl

/-! ### The channels as a reload leaves them -/

/-- A reload of channels changes the clock alone. -/
theorem State.reloadChannel_clkOnly (s : State) (c : Channel) (v : Option Nat) :
    s.reloadChannel c v = { s with clk := (s.reloadChannel c v).clk } := by
  cases v <;> rfl

theorem State.reloadRunChannels_clkOnly (s : State) : s.reloadRunChannels = { s with clk := s.reloadRunChannels.clk } := by
  have hone {u t : State} (h : t = { u with clk := t.clk }) (c : Channel) (v : Option Nat) :
      t.reloadChannel c v = { u with clk := (t.reloadChannel c v).clk } := by
    have hreload := t.reloadChannel_clkOnly c v
    generalize t.reloadChannel c v = w at hreload ⊢
    exact hreload.trans (by rw [h])
  exact hone (hone (hone (hone (State.reloadChannel_clkOnly s _ _) _ _) _ _) _ _) _ _

theorem Clk.fireIfDue_loaded {k : Clk} {c : Channel} {v : Nat} (h : k.channels.get c = ⟨v, k.valid⟩) (tg : Option WakeTarget) :
    (k.fireIfDue tg c).channels.get c = ⟨v, k.valid && decide (k.counter < v)⟩ := by
  have hdue_iff : k.DueAt c ↔ k.valid = true ∧ v ≤ k.counter := by rw [Clk.DueAt, h]
  by_cases hdue : k.DueAt c
  · rw [Clk.fireIfDue_due hdue, decide_eq_false (Nat.not_lt.2 (hdue_iff.1 hdue).2), Bool.and_false]
    simp only [Clk.disable, Channels.get_set_same, h]
  · rw [Clk.fireIfDue_rests hdue, h]
    cases hv : k.valid with
    | false => rfl
    | true => rw [decide_eq_true (Nat.lt_of_not_le fun hle => hdue (hdue_iff.2 ⟨hv, hle⟩)), Bool.and_self]

theorem State.loadChannel_loaded (s : State) (c : Channel) (value : Nat) : (s.loadChannel c value).LoadedWith c (some value) := by
  have hcalm := (State.loadChannel_calm s c value).rework
  unfold State.LoadedWith
  dsimp only
  rw [hcalm.valid, hcalm.counter]
  exact Clk.fireIfDue_loaded (k := { s.clk with channels := s.clk.channels.set c ⟨value, s.clk.valid⟩ })
    (Channels.get_set_same _ _ _) _

theorem State.reloadChannel_loaded (s : State) (c : Channel) (v : Option Nat) : (s.reloadChannel c v).LoadedWith c v := by
  cases v with
  | some value => exact s.loadChannel_loaded c value
  | none => simp [State.LoadedWith, State.reloadChannel, State.disableChannel, Clk.disable, Channels.get_set_same]

/-- A reload of one channel leaves the record of another. -/
theorem State.reloadChannel_other {c d : Channel} (h : d ≠ c) (s : State) (v : Option Nat) :
    (s.reloadChannel c v).clk.channels.get d = s.clk.channels.get d := by
  cases v with
  | some value =>
    obtain ⟨hget, -⟩ := Clk.fireIfDue_other { s.clk with channels := s.clk.channels.set c ⟨value, s.clk.valid⟩ } s.pwc.wakeTarget h
    exact hget.trans (Channels.get_set_ne _ h _)
  | none => exact Channels.get_set_ne _ h _

/-- What a channel is loaded with rests on its record, the counter and whether time is VALID. -/
theorem State.LoadedWith.of_clk {s t : State} {c : Channel} {v : Option Nat} (h : s.LoadedWith c v)
    (hget : t.clk.channels.get c = s.clk.channels.get c) (hvalid : t.clk.valid = s.clk.valid)
    (hcounter : t.clk.counter = s.clk.counter) : t.LoadedWith c v := by
  cases v with
  | some value =>
    unfold State.LoadedWith at *
    dsimp only at *
    rw [hget, hvalid, hcounter]
    exact h
  | none => exact (congrArg ChannelState.enabled hget).trans h

/-- The state WAKE is reloaded in: its target noted (R178). -/
def State.targeted (s : State) : State :=
  { s with pwc := { s.pwc with wakeTarget := s.nextWake.map fun e => ⟨e.wstart, e.ref, e.tuner⟩ } }

theorem State.reloadWake_eq (s : State) : s.reloadWake =
    s.targeted.reloadChannel .wake (s.nextWake.map fun e => max (e.wstart - s.rst.inForce.schedule.wakeLead) s.clk.counter) := by
  unfold State.reloadWake State.targeted
  cases s.nextWake <;> rfl

/-! ### The plan replaced -/

/-- The plan as it is published: every entry and clash record under the next generation (R86). -/
def State.stampedPlan (s : State) (p : Plan) : Plan :=
  { p with
    entries := p.entries.map fun e => { e with generation := s.pln.generation + 1 }
    clashes := p.clashes.map fun c => { c with generation := s.pln.generation + 1 } }

/-- PLAN_PUBLISHED's notice (R86). -/
def State.planNotice (s : State) (p : Plan) : Notice :=
  ⟨.planPublished, none, (p.clashEntries.length : Nat), s.clk.counter, (p.clashEntries.head?.map PlanEntry.ref).getD 0xFFFFFFFF,
    ((s.pln.generation + 1).toNat : Nat)⟩

theorem State.replacePlan_leaves (s : State) (p : Plan) : s.replacePlan p = { s with
    pln := { s.pln with plan := s.stampedPlan p, generation := s.pln.generation + 1, published := true }
    rep := (s.replacePlan p).rep } := by
  unfold State.replacePlan
  dsimp only
  split
  · rw [State.postNow, State.post_posted]
    rfl
  · rfl

/-- The plan differs from the one before, or is the first since a reset (R86). -/
def State.planNews (s : State) (p : Plan) : Bool := !s.pln.published || plansDiffer s.pln.plan p

theorem State.replacePlan_notices (s : State) (p : Plan) : (s.replacePlan p).rep.notices =
    if s.planNews p then (s.post (s.planNotice p)).rep.notices else s.rep.notices := by
  have href : (match p.clashEntries with | e :: _ => e.ref | [] => noRef)
      = (p.clashEntries.head?.map PlanEntry.ref).getD 0xFFFFFFFF := by
    cases p.clashEntries <;> rfl
  unfold State.replacePlan State.planNews
  dsimp only
  split
  · rw [State.postNow, State.post_rep, State.post_rep, State.planNotice, ← href, Rep.posted_notices, Rep.posted_notices]
    rfl
  · rfl

theorem State.replacePlan_planNew (s : State) (p : Plan) : (s.replacePlan p).rep.sticky.getLsbD 2 = true := by
  have hraised (u : State) : (u.raise .planNew).rep.sticky.getLsbD 2 = true := by
    rw [State.raise, BitVec.getLsbD_or]
    exact Bool.or_eq_true_iff.2 (.inr rfl)
  unfold State.replacePlan
  dsimp only
  split
  · exact (sticky_stays (State.postNow_calm _ _ _ _ _ _).toKeeps (hraised _))
  · exact hraised _

/-! ### What every publish leaves -/

/-- What the publish settles with the plan, and what no hand-over of it touches. -/
def State.publishView (s : State) : State := { s.bulk with pwc := { s.bulk.pwc with wakeTarget := none } }

theorem State.publishView_of_bulk {s t : State} (h : t.bulk = s.bulk) : t.publishView = s.publishView := by
  rw [State.publishView, h]
  rfl

section
variable {s t : State} (h : t.publishView = s.publishView)
include h

theorem publishView_generation : t.pln.generation = s.pln.generation := congrArg (fun u => u.pln.generation) h
theorem publishView_plan : t.pln.plan = s.pln.plan := congrArg (fun u => u.pln.plan) h
theorem publishView_toggle : t.pln.toggle = s.pln.toggle := congrArg (fun u => u.pln.toggle) h
theorem publishView_anchor : t.rst.anchor = s.rst.anchor := congrArg (fun u => u.rst.anchor) h
theorem publishView_schedule : t.rst.schedule = s.rst.schedule := congrArg (fun u => u.rst.schedule) h
theorem publishView_tables : t.rst.tables = s.rst.tables := congrArg (fun u => u.rst.tables) h
theorem publishView_counter : t.clk.counter = s.clk.counter := congrArg (fun u => u.clk.counter) h
theorem publishView_valid : t.clk.valid = s.clk.valid := congrArg (fun u => u.clk.valid) h
theorem publishView_pins : t.pins = s.pins := congrArg (fun u => u.pins) h
theorem publishView_owner : t.fpx.owner = s.fpx.owner := congrArg (fun u => u.fpx.owner) h

end

theorem State.reloadWake_publishView (s : State) : s.reloadWake.publishView = s.publishView := by
  obtain ⟨tg, c, hcalm, -⟩ := s.reloadWake_cases
  exact (State.publishView_of_bulk hcalm.bulk).trans rfl

theorem State.finishPublish_publishView (s : State) : s.finishPublish.publishView = s.publishView := by
  have hreplan := (State.startReplan_calm (s := { s with pln := { s.pln with snapshot := none } }) rfl).bulk
  unfold State.finishPublish
  dsimp only
  split
  · split
    · exact (State.publishView_of_bulk hreplan).trans rfl
    · rfl
  · rfl

/-- The work of a publish between the plan and its end (R110, R134, R178). -/
def State.handedOver (s : State) (p : Plan) : State :=
  (((s.replacePlan p).reconcile State.trigger).reloadWarn).reloadWake

theorem State.publish_eq {s : State} {sn : Snapshot} (h : s.pln.snapshot = some sn) :
    s.publish = (s.handedOver sn.plan).finishPublish := by
  unfold State.publish
  rw [h]
  rfl

theorem State.reconciled_calm (s : State) (p : Plan) :
    Calm (s.replacePlan p) ((s.replacePlan p).reconcile State.trigger).reloadWarn :=
  (State.reconcile_calm State.trigger_calm _).trans (State.reloadWarn_calm _)

theorem State.handedOver_publishView (s : State) (p : Plan) :
    (s.handedOver p).publishView = (s.replacePlan p).publishView :=
  (State.reloadWake_publishView _).trans (State.publishView_of_bulk (s.reconciled_calm p).bulk)

theorem exec_replanPublish {s : State} {sn : Snapshot} (hv : s.pins.vdd = true) (h : s.pln.snapshot = some sn) :
    exec .replanPublish s = .next (s.clearPorts.handedOver sn.plan).finishPublish.dormantTest := by
  change Host.Outcome.next (s.powered _) = _
  rw [State.powered_of_vdd hv, State.publish_eq (s := s.clearPorts) h]

/-- A stale mark that is set stays set through the hand-overs of a running replan (R83). -/
theorem stale_reports : Reports (fun s => s.pln.snapshot.isSome = true)
    (fun s t => t.pln.snapshot = s.pln.snapshot ∧ (s.pln.stale = true → t.pln.stale = true)) State.trigger where
  refl _ := ⟨rfl, id⟩
  trans h k := ⟨k.1.trans h.1, fun hs => k.2 (h.2 hs)⟩
  of _ hp := by rw [hp]; exact ⟨rfl, id⟩
  keeps h hs := by rw [h.1]; exact hs
  trig hs := by
    rw [State.trigger_running _ hs]
    exact ⟨rfl, fun _ => rfl⟩

theorem Reports.reconcile {I : State → Prop} {R : State → State → Prop} {trig : Trigger} (h : Reports I R trig) {s : State}
    (hs : I s) : R s (s.reconcile trig) := by
  have hfold := h.foldl (f := fun s (r : ActiveRun) => s.recomputeIfActive trig r.ref) (fun s r hs => by
    unfold State.recomputeIfActive
    split
    · exact h.recomputeEnd hs _
    · exact h.refl s) s.run.runs hs
  have hrebuilt := h.trans hfold (h.of (t := State.rebuildWaiting _) rfl rfl)
  exact h.trans hrebuilt (h.reloadRunChannels _)

theorem State.handedOver_stale {s : State} {sn : Snapshot} (h : s.pln.snapshot = some sn) (p : Plan) :
    (s.handedOver p).pln.snapshot = some sn ∧ (s.pln.stale = true → (s.handedOver p).pln.stale = true) := by
  have hplan := s.replacePlan_leaves p
  have hsnapshot : (s.replacePlan p).pln.snapshot = some sn := by rw [hplan]; exact h
  have hstale : (s.replacePlan p).pln.stale = s.pln.stale := by rw [hplan]
  obtain ⟨hkept, hmarked⟩ := stale_reports.reconcile (s := s.replacePlan p) (by rw [hsnapshot]; rfl)
  obtain ⟨tg, c, -, hwake⟩ := ((s.replacePlan p).reconcile State.trigger).reloadWarn.reloadWake_cases
  unfold State.handedOver
  rw [hwake]
  dsimp only
  rw [State.reloadWarn_pln]
  exact ⟨hkept.trans hsnapshot, fun hs => hmarked (hstale.trans hs)⟩

/-- The end of a publish (R87): another replan for a stale one while time is VALID, else IDLE. -/
theorem State.finishPublish_pln (s : State) :
    (s.pln.stale = true → s.clk.valid = true → s.finishPublish.pln.snapshot ≠ none)
      ∧ (s.clk.valid = false → s.finishPublish.pln.snapshot = none ∧ s.finishPublish.pln.stale = false) := by
  unfold State.finishPublish
  dsimp only
  refine ⟨fun hs hv => ?_, fun hv => ?_⟩
  · rw [if_pos hs, if_pos hv, State.startReplan_eq]
    exact Option.some_ne_none _
  · split
    · rw [if_neg (by rw [hv]; exact Bool.false_ne_true)]
      exact ⟨rfl, rfl⟩
    · next hs => exact ⟨rfl, Bool.eq_false_iff.2 hs⟩

/-! ### The reconciliation where no window end has come -/

/-- The runs' window ends are taken afresh, and nothing else: each ref is active as it was. -/
structure Extends (s t : State) : Prop where
  frame : t = { s with run := { s.run with runs := t.run.runs } }
  refs : t.run.runs.map ActiveRun.ref = s.run.runs.map ActiveRun.ref
  records : ∀ r ∈ t.run.runs, ∃ r' ∈ s.run.runs, r.ref = r'.ref ∧ r.kind = r'.kind

theorem Extends.refl (s : State) : Extends s s := ⟨rfl, rfl, fun r hr => ⟨r, hr, rfl, rfl⟩⟩

theorem Extends.trans {s t u : State} (h : Extends s t) (k : Extends t u) : Extends s u where
  frame := by rw [k.frame, h.frame]
  refs := k.refs.trans h.refs
  records r hr := by
    obtain ⟨r', hr', href, hkind⟩ := k.records r hr
    obtain ⟨r'', hr'', href', hkind'⟩ := h.records r' hr'
    exact ⟨r'', hr'', href.trans href', hkind.trans hkind'⟩

/-- No active run's window end, computed afresh, has come (R109). -/
def State.AllAhead (s : State) : Prop := ∀ r ∈ s.run.runs, ∀ x, s.windowEndOf r = some x → s.clk.counter < x

theorem Extends.allAhead {s t : State} (h : Extends s t) (ha : s.AllAhead) : t.AllAhead := by
  intro r hr x hx
  obtain ⟨r', hr', href, hkind⟩ := h.records r hr
  have hcounter : t.clk.counter = s.clk.counter := by rw [h.frame]
  rw [hcounter]
  refine ha r' hr' x ?_
  rw [h.frame] at hx
  unfold State.windowEndOf at hx ⊢
  rw [href, hkind] at hx
  exact hx

theorem State.setRun_extends {s : State} {r : ActiveRun} (h : r ∈ s.run.runs) (x : Nat) :
    Extends s (s.setRun { r with windowEnd := x }) where
  frame := rfl
  refs := by
    unfold State.setRun
    dsimp only
    rw [List.map_map]
    refine List.map_congr_left fun y _ => ?_
    simp only [Function.comp]
    split
    · next href => exact href.symm
    · rfl
  records y hy := by
    obtain ⟨z, hz, rfl⟩ := List.mem_map.1 hy
    split
    · exact ⟨r, h, rfl, rfl⟩
    · exact ⟨z, hz, rfl, rfl⟩

theorem State.recomputeIfActive_extends {s : State} (ha : s.AllAhead) (trig : Trigger) (ref : Nat) :
    Extends s (s.recomputeIfActive trig ref) := by
  unfold State.recomputeIfActive
  split
  · next r hr =>
    have hmem : r ∈ s.run.runs := List.mem_of_find?_eq_some hr
    unfold State.recomputeEnd
    split
    · exact .refl s
    · next x hx =>
      rw [if_neg (Nat.not_le.2 (ha r hmem x hx))]
      exact State.setRun_extends hmem x
  · exact .refl s

theorem State.recomputeAll_extends (trig : Trigger) (runs : List ActiveRun) {s : State} (ha : s.AllAhead) :
    Extends s (runs.foldl (fun s r => s.recomputeIfActive trig r.ref) s) := by
  induction runs generalizing s with
  | nil => exact .refl s
  | cons r rest ih =>
    have hone := State.recomputeIfActive_extends ha trig r.ref
    exact hone.trans (ih (hone.allAhead ha))

/-! ### The waiting list rebuilt -/

/-- The entries that the reconciliation leaves out of the waiting list (R110, R121). -/
def State.LeavesOut (s : State) (e : PlanEntry) : Prop :=
  (∃ r ∈ s.run.runs, r.ref = e.ref) ∨ (∃ h ∈ s.run.history, h.ref = e.ref ∧ h.outcome ≠ .cut)
    ∨ (e.origin = none ∧ ((∃ x ∈ s.run.endStates, x.booking = e.ref)
        ∨ ∀ b, s.booking e.ref = some b → b.finished = true))
    ∨ (e.origin ≠ none ∧ s.effectiveEvent (e.ref - 0x80000000) = none)
    ∨ (e.tuner = some .B ∧ s.rst.inForce.tuner.mode = .single) ∨ e.ref ∈ s.run.changed

theorem State.waits_iff (s : State) (e : PlanEntry) : s.waits e = true ↔
    (e.status = .placed ∨ e.status = .trimmed ∨ e.status = .moved) ∧ ¬ s.LeavesOut e := by
  unfold State.waits State.LeavesOut historyExcludes
  cases e.origin with
  | none =>
    cases s.booking e.ref
    · simp
    · simp [or_assoc]
      tauto
  | some o =>
    simp [or_assoc, Option.isSome_iff_ne_none]
    tauto

/-- The waiting entry a plan entry becomes, with the mark it had (R110). -/
def PlanEntry.waitingOn (e : PlanEntry) (old : List WaitingEntry) (T : Tuner) : WaitingEntry :=
  ⟨e.ref, T, e.wstart, e.wend, e.service, e.showing, e.part, e.partCount, e.origin, keptBlock old e.ref T e.wstart⟩

theorem State.mem_rebuildWaiting {s : State} {w : WaitingEntry} : w ∈ s.rebuildWaiting.run.waiting ↔
    ∃ e ∈ s.pln.plan.entries, s.waits e = true ∧ e.tuner = some w.tuner ∧ w = e.waitingOn s.run.waiting w.tuner := by
  unfold State.rebuildWaiting
  simp only [List.mem_filterMap, List.mem_filter]
  refine exists_congr fun e => ?_
  rw [and_assoc]
  refine and_congr_right fun _ => and_congr_right fun _ => ?_
  cases e.tuner with
  | none => simp
  | some T =>
    simp only [Option.some.injEq]
    constructor
    · rintro rfl
      exact ⟨rfl, rfl⟩
    · rintro ⟨hT, hw⟩
      rw [hw, hT]
      rfl

theorem Extends.leavesOut {s t : State} (h : Extends s t) (e : PlanEntry) : t.LeavesOut e ↔ s.LeavesOut e := by
  have hruns : (∃ r ∈ t.run.runs, r.ref = e.ref) ↔ ∃ r ∈ s.run.runs, r.ref = e.ref := by
    rw [← List.mem_map, ← List.mem_map, h.refs]
  unfold State.LeavesOut
  rw [hruns, h.frame]
  rfl

/-! ### The publish where no window end has come -/

/-- The news of a plan, as the window shows its entries (R86). -/
theorem State.planNews_iff (s : State) (p : Plan) : s.planNews p = true ↔ (s.pln.published = false
    ∨ s.pln.plan.entries.map (fun e => (e.ref, e.status, e.tuner, e.wstart, e.wend, e.showing))
      ≠ p.entries.map (fun e => (e.ref, e.status, e.tuner, e.wstart, e.wend, e.showing))
    ∨ (∃ c ∈ p.clashes, ∃ o ∈ s.pln.plan.clashes, o.ref = c.ref ∧ (o.opponents ≠ c.opponents ∨ o.more ≠ c.more))
    ∨ s.pln.plan.deferred ≠ p.deferred ∨ s.pln.plan.overCount ≠ p.overCount ∨ s.pln.plan.truncated ≠ p.truncated) := by
  have hview (e e' : PlanEntry) : e.view = e'.view ↔
      (e.ref, e.status, e.tuner, e.wstart, e.wend, e.showing) = (e'.ref, e'.status, e'.tuner, e'.wstart, e'.wend, e'.showing) := by
    simp [PlanEntry.view]
  have hentries (l l' : List PlanEntry) : l.map PlanEntry.view = l'.map PlanEntry.view ↔
      l.map (fun e => (e.ref, e.status, e.tuner, e.wstart, e.wend, e.showing))
        = l'.map (fun e => (e.ref, e.status, e.tuner, e.wstart, e.wend, e.showing)) := by
    induction l generalizing l' with
    | nil => cases l' <;> simp
    | cons e rest ih =>
      cases l' with
      | nil => simp
      | cons e' rest' => simp only [List.map_cons, List.cons.injEq, hview, ih]
  unfold State.planNews plansDiffer
  simp only [Bool.or_eq_true, Bool.not_eq_true', decide_eq_true_eq, List.any_eq_true, Bool.and_eq_true, ne_eq, hentries,
    or_assoc]

/-- What the hand-over makes of the part in which the window ends have been taken afresh: the waiting list is rebuilt, and
channels are reloaded. -/
structure HandsOver (v t : State) : Prop where
  run : t.run = v.rebuildWaiting.run
  tun : t.tun = v.tun
  rep : t.rep = v.rep
  rst : t.rst = v.rst
  pln : t.pln = v.pln

theorem State.reloads_handOver (v : State) : HandsOver v v.rebuildWaiting.reloadRunChannels.reloadWarn.reloadWake where
  run := by simp
  tun := by simp [State.rebuildWaiting]
  rep := by simp [State.rebuildWaiting]
  rst := by simp [State.rebuildWaiting]
  pln := by simp [State.rebuildWaiting]

/-- Where no window end has come, the hand-over rebuilds the waiting list, and reloads channels. -/
theorem State.handedOver_ahead {s : State} (p : Plan) (ha : s.AllAhead) :
    ∃ v, Extends (s.replacePlan p) v ∧ HandsOver v (s.handedOver p) := by
  have haq : (s.replacePlan p).AllAhead := by
    rw [State.replacePlan_leaves]
    exact ha
  refine ⟨_, State.recomputeAll_extends State.trigger (s.replacePlan p).run.runs haq, ?_⟩
  unfold State.handedOver State.reconcile
  exact State.reloads_handOver _

theorem State.finishPublish_fresh {s : State} (h : s.pln.stale = false) :
    s.finishPublish = { s with pln := { s.pln with snapshot := none } } :=
  if_neg (by rw [h]; exact Bool.false_ne_true)

/-- WARN and WAKE stand as their owners load them (R134, R178). -/
structure State.WarnAndWake (t : State) : Prop where
  warn : t.LoadedWith .warn (leastOf (t.threatened.map t.warningTime))
  wake : t.LoadedWith .wake (t.nextWake.map fun e => max (e.wstart - t.rst.inForce.schedule.wakeLead) t.clk.counter)

/-- After the reloads of WARN and WAKE, WARN stands as its owner loads it. -/
theorem State.reloads_warn (r : State) : r.reloadWarn.reloadWake.LoadedWith .warn
    (leastOf (r.reloadWarn.reloadWake.threatened.map r.reloadWarn.reloadWake.warningTime)) := by
  have hloaded : r.reloadWarn.LoadedWith .warn (leastOf (r.threatened.map r.warningTime)) := r.reloadChannel_loaded .warn _
  have hwarn := r.reloadWarn_clkOnly
  generalize r.reloadWarn = u at hloaded hwarn ⊢
  obtain ⟨tg, c, hcalm, hwake⟩ := u.reloadWake_cases
  have hget : u.reloadWake.clk.channels.get .warn = u.clk.channels.get .warn := by
    rw [State.reloadWake_eq]
    exact State.reloadChannel_other (c := .wake) (d := .warn) nofun _ _
  have hsame : leastOf (u.reloadWake.threatened.map u.reloadWake.warningTime) = leastOf (r.threatened.map r.warningTime) := by
    rw [hwake, hwarn]
    rfl
  rw [hsame]
  exact hloaded.of_clk hget hcalm.rework.valid hcalm.rework.counter

/-- And WAKE as its owner loads it. -/
theorem State.reloads_wake (u : State) : u.reloadWake.LoadedWith .wake
    (u.reloadWake.nextWake.map fun e =>
      max (e.wstart - u.reloadWake.rst.inForce.schedule.wakeLead) u.reloadWake.clk.counter) := by
  have hloaded := u.targeted.reloadChannel_loaded .wake
    (u.nextWake.map fun e => max (e.wstart - u.rst.inForce.schedule.wakeLead) u.clk.counter)
  obtain ⟨tg, c, hcalm, hwake⟩ := u.reloadWake_cases
  have hcounter : u.reloadWake.clk.counter = u.clk.counter := hcalm.rework.counter
  have hnext : u.reloadWake.nextWake = u.nextWake := by
    unfold State.nextWake
    rw [hcounter, hwake]
  have hschedule : u.reloadWake.rst = u.rst := by rw [hwake]
  rw [← State.reloadWake_eq] at hloaded
  rw [hnext, hschedule, hcounter]
  exact hloaded

/-- What is left of the clauses that no stale mark or window end touches: the plan under the next generation, and the work of
the report (R86, R87). -/
theorem State.published_leaves (s : State) (sn : Snapshot) :
    (s.handedOver sn.plan).finishPublish.dormantTest.publishView = (s.replacePlan sn.plan).publishView
      ∧ (s.handedOver sn.plan).finishPublish.dormantTest.rep.sticky.getLsbD 2 = true := by
  refine ⟨((State.publishView_of_bulk (State.dormantTest_bulk _)).trans (State.finishPublish_publishView _)).trans
    (s.handedOver_publishView sn.plan), ?_⟩
  rw [beyondSleep_rep (State.dormantTest_beyondSleep _)]
  have hplan := s.replacePlan_planNew sn.plan
  have hwarn := sticky_stays (s.reconciled_calm sn.plan).toKeeps hplan
  obtain ⟨tg, c, hcalm, -⟩ := ((s.replacePlan sn.plan).reconcile State.trigger).reloadWarn.reloadWake_cases
  have hwake : (s.handedOver sn.plan).rep.sticky.getLsbD 2 = true := sticky_stays hcalm.toKeeps hwarn
  generalize s.handedOver sn.plan = u at hwake ⊢
  have hreplan := (State.startReplan_calm (s := { u with pln := { u.pln with snapshot := none } }) rfl).toKeeps
  unfold State.finishPublish
  dsimp only
  split
  · split
    · exact sticky_stays hreplan hwake
    · exact hwake
  · exact hwake

/-- A publish that is not stale, where no window end has come. -/
structure Published (s : State) (sn : Snapshot) (t : State) : Prop where
  snapshot : t.pln.snapshot = none
  notices : t.rep.notices = (s.replacePlan sn.plan).rep.notices
  run : ∃ v, Extends (s.replacePlan sn.plan) v ∧ t.run = v.rebuildWaiting.run
  tun : t.tun = s.tun
  loads : t.WarnAndWake
  schedule : t.rst.inForce.schedule = s.rst.inForce.schedule

theorem State.handedOver_loads (s : State) (p : Plan) : (s.handedOver p).WarnAndWake := by
  unfold State.handedOver
  generalize (s.replacePlan p).reconcile State.trigger = r
  exact ⟨r.reloads_warn, r.reloadWarn.reloads_wake⟩

/-- The entries threatened rest on the run engine, the record store and the tuners. -/
theorem State.threatened_congr {s t : State} (hrun : t.run = s.run) (hrst : t.rst = s.rst) (htun : t.tun = s.tun) :
    t.threatened.map t.warningTime = s.threatened.map s.warningTime := by
  have hthreat : t.threat = s.threat := by
    funext e
    unfold State.threat State.service
    rw [hrst, htun]
  have htime : t.warningTime = s.warningTime := by
    funext e
    unfold State.warningTime
    rw [hrst]
  rw [State.threatened, State.threatened, hrun, htun, hthreat, htime]

theorem State.nextWake_congr {s t : State} (hrun : t.run = s.run) (hcounter : t.clk.counter = s.clk.counter)
    (hwoken : t.pwc.wokenFor = s.pwc.wokenFor) : t.nextWake = s.nextWake := by
  rw [State.nextWake, State.nextWake, hrun, hcounter, hwoken]

theorem Extends.replaced {s v : State} {p : Plan} (h : Extends (s.replacePlan p) v) :
    v.tun = s.tun ∧ v.rst = s.rst ∧ v.pln.stale = s.pln.stale ∧ v.rep = (s.replacePlan p).rep := by
  have hplan := s.replacePlan_leaves p
  rw [h.frame]
  exact ⟨by rw [hplan], by rw [hplan], by rw [hplan], rfl⟩

/-- The channels loaded rest on the run engine, the record store, the tuners, the clock and the woken-for start. -/
theorem State.WarnAndWake.congr {s t : State} (h : s.WarnAndWake) (hrun : t.run = s.run) (hrst : t.rst = s.rst)
    (htun : t.tun = s.tun) (hclk : t.clk = s.clk) (hwoken : t.pwc.wokenFor = s.pwc.wokenFor) : t.WarnAndWake where
  warn := by
    rw [State.threatened_congr hrun hrst htun]
    exact h.warn.of_clk (by rw [hclk]) (by rw [hclk]) (by rw [hclk])
  wake := by
    rw [State.nextWake_congr hrun (by rw [hclk]) hwoken, hrst, hclk]
    exact h.wake.of_clk (by rw [hclk]) (by rw [hclk]) (by rw [hclk])

theorem State.published_ahead {s : State} (sn : Snapshot) (hstale : s.pln.stale = false) (ha : s.AllAhead) :
    Published s sn (s.handedOver sn.plan).finishPublish.dormantTest := by
  have hloads := s.handedOver_loads sn.plan
  obtain ⟨v, hv, hhands⟩ := State.handedOver_ahead sn.plan ha
  obtain ⟨hvtun, hvrst, hvstale, hvrep⟩ := hv.replaced
  generalize s.handedOver sn.plan = h at hloads hhands ⊢
  have hbeyond := State.dormantTest_beyondSleep h.finishPublish
  rw [State.finishPublish_fresh (by rw [hhands.pln, hvstale]; exact hstale)] at hbeyond ⊢
  generalize State.dormantTest { h with pln := { h.pln with snapshot := none } } = t at hbeyond ⊢
  have hrun : t.run = h.run := (beyondSleep_run hbeyond :)
  have hrst : t.rst = h.rst := (beyondSleep_rst hbeyond :)
  have htun : t.tun = h.tun := (beyondSleep_tun hbeyond :)
  exact ⟨congrArg Pln.snapshot (beyondSleep_pln hbeyond),
    congrArg Rep.notices ((beyondSleep_rep hbeyond).trans (hhands.rep.trans hvrep)), ⟨v, hv, hrun.trans hhands.run⟩,
    htun.trans (hhands.tun.trans hvtun),
    hloads.congr hrun hrst htun (beyondSleep_clk hbeyond :) (congrArg (fun u => u.pwc.wokenFor) hbeyond :),
    by rw [hrst, hhands.rst, hvrst]⟩

/-- The waiting list a publish leaves: the plan's entries but for those left out (R110). -/
theorem Published.waiting {s t : State} {sn : Snapshot} (h : Published s sn t) (w : WaitingEntry) : w ∈ t.run.waiting ↔
    ∃ e ∈ sn.plan.entries, (e.status = .placed ∨ e.status = .trimmed ∨ e.status = .moved) ∧ ¬ s.LeavesOut e
      ∧ e.tuner = some w.tuner ∧ w = e.waitingOn s.run.waiting w.tuner := by
  obtain ⟨v, hv, hrun⟩ := h.run
  have hplan := s.replacePlan_leaves sn.plan
  have hentries : v.pln.plan.entries = sn.plan.entries.map fun e => { e with generation := s.pln.generation + 1 } := by
    rw [hv.frame, hplan]
    rfl
  have hwaiting : v.run.waiting = s.run.waiting := by rw [hv.frame, hplan]
  have hleft (e : PlanEntry) : v.LeavesOut e ↔ s.LeavesOut e := by
    rw [hv.leavesOut, hplan]
    rfl
  rw [hrun, State.mem_rebuildWaiting, hentries, hwaiting]
  constructor
  · rintro ⟨e', he', hwaits, htuner, hw⟩
    obtain ⟨e, he, rfl⟩ := List.mem_map.1 he'
    rw [State.waits_iff, hleft] at hwaits
    exact ⟨e, he, hwaits.1, hwaits.2, htuner, hw⟩
  · rintro ⟨e, he, hstatus, hnot, htuner, hw⟩
    exact ⟨_, List.mem_map.2 ⟨e, he, rfl⟩, (v.waits_iff _).2 ⟨hstatus, by rw [hleft]; exact hnot⟩, htuner, hw⟩

theorem Published.history {s t : State} {sn : Snapshot} (h : Published s sn t) : t.run.history = s.run.history := by
  obtain ⟨v, hv, hrun⟩ := h.run
  rw [hrun, hv.frame, State.replacePlan_leaves]
  rfl

/-- Settles O41: what every publish leaves, then the publish of a replan that is not stale where no window end has come. -/
theorem publishReplacesThePlan : Obligations.PublishReplacesThePlan := by
  intro s sn hv hs
  refine ⟨_, exec_replanPublish hv hs, ?_⟩
  obtain ⟨u, hu⟩ : ∃ u, s.clearPorts = u := ⟨_, rfl⟩
  have hus : u.pln.snapshot = some sn := by rw [← hu]; exact hs
  obtain ⟨hview, hflag⟩ := u.published_leaves sn
  have hpln := beyondSleep_pln (u.handedOver sn.plan).finishPublish.dormantTest_beyondSleep
  obtain ⟨hreplans, hidles⟩ := (u.handedOver sn.plan).finishPublish_pln
  obtain ⟨-, hstale⟩ := State.handedOver_stale hus sn.plan
  have hahead := State.published_ahead (s := u) sn
  have hplan := u.replacePlan_leaves sn.plan
  have hnotices := u.replacePlan_notices sn.plan
  have hvalid := (publishView_valid (u.handedOver_publishView sn.plan)).trans (by rw [hplan])
  rw [← hpln] at hreplans hidles
  rw [hu]
  generalize (u.handedOver sn.plan).finishPublish.dormantTest = t at hview hflag hreplans hidles hahead ⊢
  generalize u.handedOver sn.plan = w at hvalid hstale hreplans hidles
  refine ⟨(publishView_generation hview).trans ?_, (publishView_plan hview).trans ?_, hflag,
    (publishView_toggle hview).trans ?_,
    fun hs hv => hreplans (hstale (by rw [← hu]; exact hs)) (hvalid.trans (by rw [← hu]; exact hv)),
    fun hv => hidles (hvalid.trans (by rw [← hu]; exact hv)),
    (publishView_anchor hview).trans ?_, (publishView_schedule hview).trans ?_, (publishView_tables hview).trans ?_,
    (publishView_counter hview).trans ?_, (publishView_pins hview).trans ?_, (publishView_owner hview).trans ?_,
    fun hs hall => ?_⟩
  case refine_10 =>
    have hpublished := hahead (by rw [← hu]; exact hs) (by rw [← hu]; exact hall)
    have hcounter : t.clk.counter = s.clk.counter := (publishView_counter hview).trans (by rw [hplan, ← hu]; rfl)
    have hstill := hpublished.notices
    rw [hnotices] at hstill
    refine ⟨hpublished.snapshot, fun hnews => ?_, fun hnews => ?_, fun w => ?_, hpublished.history.trans (by rw [← hu]; rfl),
      hpublished.tun.trans (by rw [← hu]; rfl), hpublished.loads.warn, ?_⟩
    · rw [if_pos ((u.planNews_iff sn.plan).2 (by rw [← hu]; exact hnews)), State.post_rep, ← hu] at hstill
      rw [State.post_rep]
      exact hstill
    · rw [if_neg (fun h => hnews (by rw [← hu] at h; exact (State.planNews_iff _ _).1 h)), ← hu] at hstill
      exact hstill
    · rw [hpublished.waiting, ← hu]
      rfl
    · have hwake := hpublished.loads.wake
      rw [hpublished.schedule, hcounter, ← hu] at hwake
      exact hwake
  all_goals
    rw [hplan, ← hu]
    rfl

end Sys2Proof.Machine

/-! PROOFS. A program into the guide partition, slot by slot (2.2 to 2.6). -/

namespace Sys2Proof.Machine

/-! ### A slot, apart from the flash path -/

/-- The part with another flash path and another port record. -/
def State.onPath (s : State) (f : Fpx) (p : Ports) : State := { s with fpx := f, ports := p }

section
variable (s : State) (f : Fpx) (p : Ports)

theorem State.post_onPath (n : Notice) : (s.onPath f p).post n = (s.post n).onPath f p := by
  rw [State.post_posted, State.post_posted]
  rfl

variable {s f p} in
/-- A choice that reads neither is made alike. -/
theorem onPath_ite {a b a' b' : State} {c : Prop} [Decidable c] (ha : a' = a.onPath f p) (hb : b' = b.onPath f p) :
    (if c then a' else b') = (if c then a else b).onPath f p := by
  rw [ha, hb]
  split <;> rfl

theorem State.refuseEvent_onPath (slot : Nat) (e : Event) (notice : Bool) :
    (s.onPath f p).refuseEvent slot e notice = (s.refuseEvent slot e notice).onPath f p :=
  onPath_ite (State.post_onPath (s.raise .tableFull) f p _) rfl

/-- A taking of the part with another flash path. -/
def Taking.onPath (t : Taking) (f : Fpx) (p : Ports) : Taking := ⟨t.st.onPath f p, t.noticed⟩

variable {f p} in
theorem taking_onPath_ite {a b a' b' : Taking} {c : Prop} [Decidable c] (ha : a' = a.onPath f p) (hb : b' = b.onPath f p) :
    (if c then a' else b') = (if c then a else b).onPath f p := by
  rw [ha, hb]
  split <;> rfl

theorem Taking.refuse_onPath (t : Taking) (slot : Nat) (e : Event) :
    (t.onPath f p).refuse .program slot e = (t.refuse .program slot e).onPath f p :=
  congrArg (fun u => (⟨u, true⟩ : Taking)) (t.st.refuseEvent_onPath f p slot e _)

theorem Taking.takeMatched_onPath (t : Taking) (slot : Nat) (e : Event) :
    (t.onPath f p).takeMatched .program slot e = (t.takeMatched .program slot e).onPath f p :=
  taking_onPath_ite rfl (t.refuse_onPath f p slot e)

theorem Taking.takeUnmatched_onPath (t : Taking) (slot : Nat) (e : Event) :
    (t.onPath f p).takeUnmatched .program slot e = (t.takeUnmatched .program slot e).onPath f p :=
  taking_onPath_ite (taking_onPath_ite rfl (Taking.refuse_onPath f p ⟨t.st.setEntries _, t.noticed⟩ slot e)) rfl

theorem State.programWhole_onPath (slot : Nat) (g : Nat → Byte) :
    (s.onPath f p).programWhole slot g = (s.programWhole slot g).onPath f p := by
  unfold State.programWhole
  cases guideSlot g with
  | event e =>
    exact onPath_ite (congrArg Taking.st (Taking.takeMatched_onPath f p ⟨s, false⟩ slot e))
      (congrArg Taking.st (Taking.takeUnmatched_onPath f p ⟨s, false⟩ slot e))
  | damaged => exact s.post_onPath f p _
  | nothing => rfl

theorem State.programHeld_onPath (slot : Nat) (bytes : List (Nat × Byte)) :
    (s.onPath f p).programHeld slot bytes = (s.programHeld slot bytes).onPath f p := by
  unfold State.programHeld
  split
  · rfl
  · exact onPath_ite rfl (onPath_ite rfl rfl)
  · rfl

theorem State.programSlot_onPath (page : Nat) (applied : List (Nat × Byte)) (off : Nat) :
    (s.onPath f p).programSlot page applied off = (s.programSlot page applied off).onPath f p :=
  onPath_ite rfl (onPath_ite (s.programHeld_onPath f p _ _) (onPath_ite (s.programWhole_onPath f p _ _) rfl))

theorem State.programSlots_onPath (page : Nat) (applied : List (Nat × Byte)) (offs : List Nat) :
    offs.foldl (fun u off => u.programSlot page applied off) (s.onPath f p)
      = (offs.foldl (fun u off => u.programSlot page applied off) s).onPath f p := by
  induction offs generalizing s with
  | nil => rfl
  | cons off rest ih => rw [List.foldl_cons, List.foldl_cons, State.programSlot_onPath, ih]

end

/-! ### What one slot of a program does -/

section
variable (s : State) (slot : Nat)

/-- A slot's taking by its match test. -/
theorem State.programWhole_event {f : Nat → Byte} {e : Event} (h : guideSlot f = .event e) :
    s.programWhole slot f = (Taking.take ⟨s, false⟩ .program (slot, e)).st := by
  unfold State.programWhole Taking.take
  rw [h]
  exact (apply_ite Taking.st _ _ _).symm

theorem State.programWhole_damaged {f : Nat → Byte} (h : guideSlot f = .damaged) :
    s.programWhole slot f = s.post ⟨.recordDamaged, none, ((f 1).toNat : Nat), s.clk.counter, slot, 0⟩ := by
  unfold State.programWhole
  rw [h]
  rfl

theorem State.programWhole_nothing {f : Nat → Byte} (h : guideSlot f = .nothing) : s.programWhole slot f = s := by
  unfold State.programWhole
  rw [h]

/-- The refusal of a program's slot: the flag and the notice (R33). -/
theorem State.refuseEvent_program (e : Event) : s.refuseEvent slot e true =
    State.post { s with rep := { s.rep with sticky := s.rep.sticky ||| 0x0100 } }
      ⟨.tableFull, none, 0x20, s.clk.counter, e.id, (slot : Nat)⟩ := rfl

/-- The new slot has something to displace (R32). -/
theorem displaces_iff (es : List MatchedEntry) (e : Event) : displaces es slot e = true ↔
    (∃ x ∈ es, x.event.id = e.id ∧ x.matched = true)
      ∧ ∀ x ∈ es, x.event.id = e.id ∧ x.matched = true →
          x.event.version < e.version ∨ (x.event.version = e.version ∧ x.slot < slot) := by
  simp only [displaces, Bool.and_eq_true, Bool.not_eq_true', List.isEmpty_eq_false_iff_exists_mem, List.mem_filter,
    decide_eq_true_eq, List.all_eq_true, outranks_iff, Beats, and_imp]

/-- A refused displacing slot leaves no matched and no displacing entry of its id (R33). -/
theorem keptBy_bare {es : List MatchedEntry} {e : Event} (h : displaces es slot e = true) {x : MatchedEntry}
    (hx : x ∈ keptBy .program slot e es) (hid : x.event.id = e.id) : x.matched = false ∧ x.displacing = false := by
  obtain ⟨-, hall⟩ := (displaces_iff slot es e).1 h
  have hnone : ((es.filter fun y => !(y.event.id = e.id && y.matched && outranks e.version slot y.event.version y.slot)).any
      fun y => y.event.id = e.id && y.matched) = false := by
    rw [List.any_eq_false]
    intro y hy hym
    obtain ⟨hy, hkept⟩ := List.mem_filter.1 hy
    obtain ⟨hyid, hym⟩ : y.event.id = e.id ∧ y.matched = true := by simpa using hym
    have hbeaten : outranks e.version slot y.event.version y.slot = true := outranks_iff.2 (hall y hy ⟨hyid, hym⟩)
    simp [hyid, hym, hbeaten] at hkept
  have hx : x ∈ pruneDisplacingOf e.id
      (es.filter fun y => !(y.event.id = e.id && y.matched && outranks e.version slot y.event.version y.slot)) := hx
  unfold pruneDisplacingOf at hx
  rw [if_neg (Bool.eq_false_iff.1 hnone)] at hx
  obtain ⟨hx, hd⟩ := List.mem_filter.1 hx
  have hm := List.any_eq_false.1 hnone x hx
  exact ⟨by simpa [hid] using hm, by simpa [hid] using hd⟩

/-- Entries of other ids stay (R33). -/
theorem mem_keptBy_other {es : List MatchedEntry} {e : Event} {x : MatchedEntry} (hx : x ∈ es) (hid : x.event.id ≠ e.id) :
    x ∈ keptBy .program slot e es := by
  have hkept : x ∈ es.filter fun y => !(y.event.id = e.id && y.matched && outranks e.version slot y.event.version y.slot) :=
    List.mem_filter.2 ⟨hx, by simp [hid]⟩
  unfold keptBy pruneDisplacingOf
  rw [if_neg nofun]
  split
  · exact hkept
  · exact List.mem_filter.2 ⟨hkept, by simp [hid]⟩

theorem State.doubtGuideSector_verify (sector y : Nat) :
    y ∈ (s.doubtGuideSector sector).rst.verify ↔ y ∈ s.rst.verify ∨ y = sector :=
  (mem_insertNat sector y s.rst.verify).trans or_comm

/-- An entry of the doubted sector is doubtful and not effective (R35). -/
theorem State.doubtGuideSector_doubtful {sector : Nat} {y : MatchedEntry} (hy : y ∈ (s.doubtGuideSector sector).gmx.entries)
    (hs : sectorOf y.slot = sector) : y.doubtful = true ∧ y.effective = false := by
  have hdoubtful : y.doubtful = true := by
    obtain ⟨e, he, rfl⟩ := List.mem_map.1 hy
    obtain ⟨e, -, rfl⟩ := List.mem_map.1 he
    split at hs
    · next h => simp [h]
    · next h => exact absurd hs h
  refine ⟨hdoubtful, Bool.eq_false_iff.2 fun heff => ?_⟩
  obtain ⟨hclear, -⟩ := (recomputeEffective_effective hy).1 heff
  rw [hdoubtful] at hclear
  cases hclear

theorem State.doubtGuideSector_keeps (sector : Nat) {x : MatchedEntry} (hx : x ∈ s.gmx.entries) :
    ∃ y ∈ (s.doubtGuideSector sector).gmx.entries, y.slot = x.slot ∧ y.event = x.event := by
  refine ⟨_, List.mem_map.2 ⟨_, List.mem_map.2 ⟨x, hx, rfl⟩, rfl⟩, ?_, ?_⟩ <;> split <;> rfl

variable {s slot}

theorem State.programHeld_blank {bytes : List (Nat × Byte)} (h : (bytes.filter fun p => p.2 ≠ 0xFF) = []) :
    s.programHeld slot bytes = s := by
  unfold State.programHeld
  rw [show (bytes.filter fun p => p.2 ≠ Memory.blank) = [] from h]

/-- Only the state byte is cleared: by its result the slot stays, retires or is doubted (R34). -/
theorem State.programHeld_state {bytes : List (Nat × Byte)} {v : Byte} (h : (bytes.filter fun p => p.2 ≠ 0xFF) = [(0, v)]) :
    s.programHeld slot bytes = if (0x3F : Byte) &&& v = 0x1F then
        s.setEntries (pruneDisplacing (s.gmx.entries.filter fun e => e.slot ≠ slot))
      else if (0x3F : Byte) &&& v = 0x3F then s else s.doubtGuideSector (sectorOf slot) := by
  unfold State.programHeld
  rw [show (bytes.filter fun p => p.2 ≠ Memory.blank) = [(0, v)] from h]
  rfl

/-- Any other byte cleared puts the sector in doubt (R35). -/
theorem State.programHeld_doubts {bytes : List (Nat × Byte)} (h : (bytes.filter fun p => p.2 ≠ 0xFF) ≠ [])
    (hs : ∀ v, (bytes.filter fun p => p.2 ≠ 0xFF) = [(0, v)] → (0x3F : Byte) &&& v ≠ 0x3F ∧ (0x3F : Byte) &&& v ≠ 0x1F) :
    s.programHeld slot bytes = s.doubtGuideSector (sectorOf slot) := by
  unfold State.programHeld
  split
  · next hnil => exact absurd hnil h
  · next v hv => rw [if_neg (hs v hv).2, if_neg (hs v hv).1]
  · rfl

variable {page off : Nat} {applied : List (Nat × Byte)}

theorem State.programSlot_held (h : s.held (page + off) = true) :
    s.programSlot page applied off = s.programHeld (page + off) (slotBytes applied off) := by
  unfold State.programSlot
  dsimp only
  rw [if_pos h]
  split
  · next hempty => rw [List.isEmpty_iff.1 hempty, State.programHeld_blank rfl]
  · rfl

theorem State.programSlot_partial (h : s.held (page + off) = false) (hlen : (slotBytes applied off).length < 64) :
    s.programSlot page applied off = s := by
  unfold State.programSlot
  dsimp only
  rw [if_neg (Bool.eq_false_iff.1 h), if_neg (c := _ = Config.slotSize) hlen.ne, ite_self]

theorem State.programSlot_whole (h : s.held (page + off) = false) (hlen : (slotBytes applied off).length = 64) :
    s.programSlot page applied off = s.programWhole (page + off) (contentOf (slotBytes applied off)) := by
  unfold State.programSlot
  dsimp only
  rw [if_neg (by rw [List.isEmpty_iff_length_eq_zero]; omega), if_neg (Bool.eq_false_iff.1 h)]
  exact if_pos hlen

end

/-- What a program's slots touch: the matched events, the notices and the verify set. -/
def Programs (s t : State) : Prop :=
  t = { s with gmx := t.gmx, rep := t.rep, rst := { s.rst with verify := t.rst.verify } }

theorem Programs.refl (s : State) : Programs s s := rfl

theorem Programs.trans {s t u : State} (h : Programs s t) (k : Programs t u) : Programs s u := by
  unfold Programs at *
  rw [k, h]

theorem Takes.programs {s t : State} (h : Takes s t) : Programs s t := by
  unfold Programs
  rw [show t = _ from h]

theorem State.programWhole_programs (s : State) (slot : Nat) (f : Nat → Byte) : Programs s (s.programWhole slot f) := by
  cases h : guideSlot f with
  | event e =>
    rw [State.programWhole_event s slot h]
    exact (Taking.take_takes ⟨s, false⟩ .program (slot, e)).programs
  | damaged =>
    rw [State.programWhole_damaged s slot h, State.post_posted]
    exact Programs.refl _
  | nothing =>
    rw [State.programWhole_nothing s slot h]
    exact Programs.refl s

theorem State.programHeld_programs (s : State) (slot : Nat) (bytes : List (Nat × Byte)) :
    Programs s (s.programHeld slot bytes) := by
  unfold State.programHeld
  split
  · exact Programs.refl s
  · split
    · exact (State.setEntries_takes s _).programs
    · split
      · exact Programs.refl s
      · rfl
  · rfl

theorem State.programSlot_programs (s : State) (page : Nat) (applied : List (Nat × Byte)) (off : Nat) :
    Programs s (s.programSlot page applied off) := by
  unfold State.programSlot
  dsimp only
  split
  · exact Programs.refl s
  · split
    · exact s.programHeld_programs _ _
    · split
      · exact s.programWhole_programs _ _
      · exact Programs.refl s

theorem State.programSlots_programs (s : State) (page : Nat) (applied : List (Nat × Byte)) (offs : List Nat) :
    Programs s (offs.foldl (fun u off => u.programSlot page applied off) s) := by
  induction offs generalizing s with
  | nil => exact Programs.refl s
  | cons off rest ih => exact (s.programSlot_programs page applied off).trans (ih _)

/-! ### A program handed to the matcher -/

section
variable {s : State} {addr : Nat} {data : List Byte}

/-- A page of the guide partition meets it. -/
theorem State.meetsGuide_page (h : s.rst.inForce.layout.inGuide (pageOf addr) = true) :
    s.meetsGuide ⟨pageOf addr, 256⟩ = true := by
  unfold LayoutGroup.inGuide at h
  unfold State.meetsGuide
  cases hg : s.rst.inForce.layout.guide with
  | none =>
    rw [hg] at h
    cases h
  | some p =>
    rw [hg] at h
    obtain ⟨hlo, hhi⟩ : p.1 ≤ pageOf addr ∧ pageOf addr < p.1 + p.2 * Config.sectorSize := by simpa using h
    exact (rangesMeet_iff _ _ _ _).2 ⟨Nat.succ_pos 255, by omega, hhi, by dsimp only; omega⟩

theorem State.handProgram_guide (hm : s.meetsMirror ⟨pageOf addr, 256⟩ = false)
    (h : s.rst.inForce.layout.inGuide (pageOf addr) = true) :
    s.handProgram addr data = s.guideProgram State.trigger addr data := by
  unfold State.handProgram
  dsimp only [Config.pageSize]
  rw [if_neg (Bool.eq_false_iff.1 hm)]
  exact if_pos (State.meetsGuide_page h)

theorem State.guideProgram_doubtful (trig : Trigger) (h : s.doubtfulAt (pageOf addr) = true) :
    s.guideProgram trig addr data = s := by
  unfold State.guideProgram
  exact if_pos (by simp [h])

theorem State.guideProgram_trusted (trig : Trigger) (hi : s.rst.inForce.layout.inGuide (pageOf addr) = true)
    (h : s.doubtfulAt (pageOf addr) = false) : s.guideProgram trig addr data =
      ([0, 64, 128, 192].foldl (fun u off => u.programSlot (pageOf addr) (appliedBytes addr data) off) s).reportEvents
        trig true s.gmx.entries := by
  unfold State.guideProgram
  exact if_neg (by simp [hi, h])

end

/-- Settles O49: the judgment hands the program to the matcher, and each slot is decided by what it holds. -/
theorem guideProgramsActOnTheirSlots : Obligations.GuideProgramsActOnTheirSlots := by
  unfold Obligations.GuideProgramsActOnTheirSlots
  refine ⟨fun s code addr data hs hc hw hg hd ha hm hi => ?_, fun s page off applied => ?_⟩
  · let p : Ports := (s.clearPorts.forward ⟨code, some addr, data, true, 0, []⟩).ports
    let f : Fpx := (s.enterWrite .program ⟨pageOf addr.toNat, 256⟩).fpx
    have he : (true && !data.isEmpty) = true := by simpa using hd
    have hexec : exec (.program code addr data true) s =
        .next ((s.onPath f p).guideProgram State.trigger addr.toNat data).disarm := by
      rw [exec_program hs hc, State.selectProgram_judged (by exact hw) (by exact hg),
        State.judgeProgram_accepted (by simp only [he]; exact ha), State.handProgram_guide (by exact hm) (by exact hi)]
      rfl
    rw [hexec]
    refine ⟨fun hdoubt => ⟨_, rfl, ?_⟩, fun hdoubt hrun => ⟨_, rfl, ?_⟩⟩
    · rw [State.guideProgram_doubtful _ (by exact hdoubt)]
      exact ⟨rfl, rfl, rfl⟩
    · rw [State.guideProgram_trusted _ (by exact hi) (by exact hdoubt), State.programSlots_onPath]
      have hslots := State.programSlots_programs s (pageOf addr.toNat) (appliedBytes addr.toNat data) [0, 64, 128, 192]
      generalize [0, 64, 128, 192].foldl
        (fun u off => u.programSlot (pageOf addr.toNat) (appliedBytes addr.toNat data) off) s = w at hslots ⊢
      have htold := trigger_reports.reportEvents (s := w.onPath f p) (by rw [hslots]; exact hrun) true s.gmx.entries
      have hcalm := State.reportEvents_calm State.trigger_calm true s.gmx.entries (w.onPath f p)
      refine ⟨⟨htold.gmx, hcalm.verify⟩, hcalm.tables.trans ?_, hcalm.rework.schedule.trans ?_⟩ <;>
      · rw [hslots]
        rfl
  · dsimp only
    refine ⟨State.programSlot_partial, fun hheld hlen => ?_, fun hheld hblank => ?_, fun v hheld hv hr => ?_,
      fun v hheld hv hr => ?_, fun hheld hne hs => ?_⟩
    · rw [State.programSlot_whole hheld hlen]
      refine ⟨fun e he => ?_, State.programWhole_damaged s _, State.programWhole_nothing s _⟩
      rw [State.programWhole_event s _ he]
      refine ⟨fun hmatch hroom => ?_, fun hmatch hroom => ?_, fun hmatch hloses => ?_, fun hmatch hwins hroom => ?_,
        fun hmatch hwins hroom => ?_⟩
      · rw [Taking.take, if_pos hmatch, Taking.takeMatched_room hroom hmatch, State.takenEntry, hmatch]
        rfl
      · rw [Taking.take, if_pos hmatch, Taking.takeMatched_full hroom]
        exact State.refuseEvent_program s _ e
      · have hd : displaces s.gmx.entries (page + off) e = false :=
          Bool.eq_false_iff.2 fun hd => hloses ((displaces_iff _ _ e).1 hd)
        rw [Taking.take, if_neg (Bool.eq_false_iff.1 hmatch), Taking.takeUnmatched_outranked hd]
      · rw [Taking.take, if_neg (Bool.eq_false_iff.1 hmatch),
          Taking.takeUnmatched_room ((displaces_iff _ _ e).2 hwins) hmatch hroom, State.takenEntry, hmatch]
        rfl
      · have hd := (displaces_iff (page + off) _ e).2 hwins
        rw [Taking.take, if_neg (Bool.eq_false_iff.1 hmatch), Taking.takeUnmatched_full hd hroom]
        let u := s.setEntries (keptBy .program (page + off) e s.gmx.entries)
        have hgmx : (u.refuseEvent (page + off) e true).gmx = u.gmx := State.refuseEvent_gmx ..
        have hrep : (u.refuseEvent (page + off) e true).rep = (s.refuseEvent (page + off) e true).rep := by
          rw [State.refuseEvent_program, State.refuseEvent_program, State.post_posted, State.post_posted]
          rfl
        refine ⟨hrep, ?_, fun x hx hid => ?_, fun x hx hid => ?_⟩
        · change (u.refuseEvent (page + off) e true).rst = s.rst
          rw [State.refuseEvent_takes]
          rfl
        · change x ∈ (u.refuseEvent (page + off) e true).gmx.entries at hx
          rw [hgmx] at hx
          obtain ⟨y, hy, rfl⟩ := List.mem_map.1 hx
          exact keptBy_bare (x := y) _ hd hy hid
        · change ∃ y ∈ (u.refuseEvent (page + off) e true).gmx.entries, _
          rw [hgmx]
          exact ⟨_, List.mem_map.2 ⟨x, mem_keptBy_other _ hx hid, rfl⟩, rfl, rfl⟩
    · rw [State.programSlot_held hheld, State.programHeld_blank hblank]
    · rw [State.programSlot_held hheld, State.programHeld_state hv, if_neg (by rw [hr]; decide), if_pos hr]
    · rw [State.programSlot_held hheld, State.programHeld_state hv, if_pos hr]
    · rw [State.programSlot_held hheld, State.programHeld_doubts hne hs]
      exact ⟨rfl, fun y => State.doubtGuideSector_verify s _ y, fun y hy => State.doubtGuideSector_doubtful s hy,
        fun x hx => State.doubtGuideSector_keeps s _ hx⟩

end Sys2Proof.Machine

/-! PROOFS. Record changes handed to the run engine (6.5), and what a publish makes of them. -/

namespace Sys2Proof.Machine

/-! ### The refs that wait -/

/-- No entry of the ref waits. -/
def State.Absent (s : State) (ref : Nat) : Prop := ∀ w ∈ s.run.waiting, w.ref ≠ ref

/-- A piece of work with its triggers under one snapshot: no ref joins the waiting list, and no held-back ref is forgotten. -/
structure Wanes (s t : State) : Prop where
  refs : ∀ ref, s.Absent ref → t.Absent ref
  changed : s.run.changed ⊆ t.run.changed
  snapshot : t.pln.snapshot = s.pln.snapshot

theorem Wanes.refl (s : State) : Wanes s s := ⟨fun _ h => h, List.Subset.refl _, rfl⟩

theorem Wanes.trans {s t u : State} (h : Wanes s t) (k : Wanes t u) : Wanes s u :=
  ⟨fun ref hs => k.refs ref (h.refs ref hs), List.Subset.trans h.changed k.changed, k.snapshot.trans h.snapshot⟩

/-- Work that leaves both lists. -/
theorem Wanes.of {s t : State} (hw : t.run.waiting = s.run.waiting) (hc : t.run.changed = s.run.changed) (hp : t.pln = s.pln) :
    Wanes s t :=
  ⟨fun ref h => by unfold State.Absent; rw [hw]; exact h, by rw [hc]; exact List.Subset.refl _, by rw [hp]⟩

/-- Work that leaves the run engine. -/
theorem Wanes.of_run {s t : State} (hr : t.run = s.run) (hp : t.pln = s.pln) : Wanes s t :=
  .of (by rw [hr]) (by rw [hr]) hp

theorem Wanes.clearBlocked {s t : State} (hr : t.run = s.run.clearBlocked) (hp : t.pln = s.pln) : Wanes s t := by
  refine ⟨fun ref h w hw => ?_, by rw [hr]; exact List.Subset.refl _, by rw [hp]⟩
  rw [hr] at hw
  obtain ⟨x, hx, rfl⟩ := List.mem_map.1 hw
  exact h x hx

theorem State.ended_wanes (s : State) (r : ActiveRun) (o : RunOutcome) (stop : Nat) : Wanes s (s.ended r o stop) := by
  rw [State.ended_eq]
  exact ⟨(Wanes.clearBlocked (t := { s with run := s.run.clearBlocked }) rfl rfl).refs, List.Subset.refl _, rfl⟩

theorem State.applyTunerMode_wanes (s : State) : Wanes s s.applyTunerMode := by
  unfold State.applyTunerMode
  split
  · exact .clearBlocked (by simp [State.viewerHoldChanged]) (by simp)
  · exact .of_run (by simp) (by simp)
  · exact .of_run (by simp) (by simp)

theorem State.waitingChange_wanes (s : State) (ref : Nat) : Wanes s (s.waitingChange ref) := by
  unfold State.waitingChange
  split
  · refine ⟨fun ref' h w hw => ?_, fun x hx => ?_, by simp⟩
    · rw [State.reloadRunChannels_run] at hw
      exact h w (List.mem_filter.1 hw).1
    · rw [State.reloadRunChannels_run]
      exact (mem_insertNat _ _ _).2 (.inr hx)
  · exact .refl s

theorem Wanes.reloadRunChannels {s t : State} (h : Wanes s t) : Wanes s t.reloadRunChannels :=
  h.trans (.of_run (State.reloadRunChannels_run _) (State.reloadRunChannels_pln _))

section
variable {trig : Trigger} {sn : Option Snapshot} (htrig : ∀ u : State, u.pln.snapshot = sn → Wanes u (trig u))
include htrig

/-- The trigger after such work. -/
theorem Wanes.after {s t : State} (h : Wanes s t) (hs : s.pln.snapshot = sn) : Wanes s (trig t) :=
  h.trans (htrig t (h.snapshot.trans hs))

theorem State.endRun_wanes {s : State} (hs : s.pln.snapshot = sn) (r : ActiveRun) (o : RunOutcome) (stop : Nat) :
    Wanes s (s.endRun trig r o stop) := by
  have hended := s.ended_wanes r o stop
  rw [State.endRun_eq]
  refine Wanes.after htrig (Wanes.reloadRunChannels ?_) hs
  split
  · refine hended.trans ?_
    unfold State.applyDeferred
    split
    · exact .refl _
    · refine Wanes.after htrig (Wanes.trans ?_ (State.applyTunerMode_wanes _)) (hended.snapshot.trans hs)
      exact .of_run (State.postNow_run _ _ _ _ _ _) (State.postNow_pln _ _ _ _ _ _)
  · exact hended

theorem State.recomputeEnd_wanes {s : State} (hs : s.pln.snapshot = sn) (r : ActiveRun) : Wanes s (s.recomputeEnd trig r) := by
  unfold State.recomputeEnd
  split
  · exact .refl s
  · split
    · exact State.endRun_wanes htrig hs _ _ _
    · exact .of rfl rfl rfl

theorem State.followRecord_wanes {s : State} (hs : s.pln.snapshot = sn) (r : ActiveRun) (service start : Nat) :
    Wanes s (s.followRecord trig r service start) := by
  unfold State.followRecord
  split
  · exact State.endRun_wanes htrig hs _ _ _
  · exact State.recomputeEnd_wanes htrig hs r

theorem State.runEventChange_wanes {s : State} (hs : s.pln.snapshot = sn) (r : ActiveRun) (c : Change) (e : Option Event) :
    Wanes s (s.runEventChange trig r c e) := by
  unfold State.runEventChange
  split
  · exact State.followRecord_wanes htrig hs _ _ _
  · exact State.followRecord_wanes htrig hs _ _ _
  · exact .refl s

theorem State.eventChange_wanes {s : State} (hs : s.pln.snapshot = sn) (id : Nat) (c : Change) (e : Option Event) :
    Wanes s (s.eventChange trig id c e) := by
  unfold State.eventChange
  refine Wanes.trans ?_ (State.waitingChange_wanes _ _)
  split
  · exact (State.runEventChange_wanes htrig hs _ c e).reloadRunChannels
  · exact .refl s

omit htrig in
theorem Wanes.foldl {α : Type} {f : State → α → State} (hf : ∀ s a, s.pln.snapshot = sn → Wanes s (f s a)) (xs : List α)
    {s : State} (hs : s.pln.snapshot = sn) : Wanes s (xs.foldl f s) := by
  induction xs generalizing s with
  | nil => exact .refl s
  | cons x xs ih => exact (hf s x hs).trans (ih ((hf s x hs).snapshot.trans hs))

theorem State.reportEvents_wanes {s : State} (hs : s.pln.snapshot = sn) (request : Bool) (before : List MatchedEntry) :
    Wanes s (s.reportEvents trig request before) := by
  have hfold := Wanes.foldl
    (fun s (p : Nat × Change × Option Event) hs => State.eventChange_wanes htrig hs p.1 p.2.1 p.2.2)
    (eventChanges before s.gmx.entries) hs
  unfold State.reportEvents
  dsimp only
  split
  · exact hfold.after htrig hs
  · exact hfold

theorem State.reconcileRuns_wanes {s : State} (hs : s.pln.snapshot = sn) (runs : List ActiveRun) :
    Wanes s (runs.foldl (fun s r => s.recomputeIfActive trig r.ref) s) := by
  refine Wanes.foldl (fun u r hu => ?_) runs hs
  unfold State.recomputeIfActive
  split
  · exact State.recomputeEnd_wanes htrig hu _
  · exact .refl u

end

theorem State.markStale_wanes (s : State) : Wanes s s.markStale := ⟨fun _ h => h, List.Subset.refl _, rfl⟩

/-- While a replan is RUNNING a trigger is such work (R83). -/
theorem State.trigger_wanes {sn : Snapshot} (s : State) (h : s.pln.snapshot = some sn) : Wanes s s.trigger := by
  rw [State.trigger_running s (by rw [h]; rfl)]
  exact s.markStale_wanes

/-- A replan's start brings no ref onto the waiting list. -/
theorem State.startReplan_absent {s : State} {ref : Nat} (h : s.Absent ref) : s.startReplan.Absent ref := by
  let u : State := { s with pln := { s.pln with stale := false } }
  let kept := pruneDisplacing (u.gmx.entries.filter fun e => !(e.event.stop ≤ u.clk.counter - Config.day))
  have hreport : Wanes (u.setEntries kept) ((u.setEntries kept).reportEvents State.markStale false u.gmx.entries) :=
    State.reportEvents_wanes (s := u.setEntries kept) (fun v _ => v.markStale_wanes) (sn := u.pln.snapshot) rfl _ _
  have hpurge : Wanes u (u.guidePurge State.markStale) := Wanes.trans (t := u.setEntries kept) (.of_run rfl rfl) hreport
  have hpurged : s.purged.Absent ref := hpurge.refs ref h
  rw [State.startReplan_eq]
  exact hpurged

theorem State.finishPublish_absent {s : State} {ref : Nat} (h : s.Absent ref) : s.finishPublish.Absent ref := by
  unfold State.finishPublish
  dsimp only
  split
  · split
    · exact State.startReplan_absent h
    · exact h
  · exact h

/-- A publish brings no held-back ref onto the waiting list (R121). -/
theorem State.publish_absent {s : State} {ref : Nat} (h : s.Absent ref) (hc : ref ∈ s.run.changed) : s.publish.Absent ref := by
  unfold State.publish
  split
  · exact h
  · next sn hsn =>
    have hplan := s.replacePlan_leaves sn.plan
    have hrunning : (s.replacePlan sn.plan).pln.snapshot = some sn := by rw [hplan]; exact hsn
    have hruns := State.reconcileRuns_wanes State.trigger_wanes hrunning (s.replacePlan sn.plan).run.runs
    have hheld := hruns.changed (by rw [hplan]; exact hc)
    have habsent : ((s.replacePlan sn.plan).reconcile State.trigger).reloadWarn.reloadWake.Absent ref := by
      unfold State.reconcile
      generalize (s.replacePlan sn.plan).run.runs.foldl
        (fun s r => s.recomputeIfActive State.trigger r.ref) (s.replacePlan sn.plan) = u at hheld ⊢
      intro w hw href
      rw [State.reloadWake_run, State.reloadWarn_run, State.reloadRunChannels_run, State.mem_rebuildWaiting] at hw
      obtain ⟨e, -, hwaits, -, hentry⟩ := hw
      have heref : e.ref = ref := (congrArg WaitingEntry.ref hentry).symm.trans href
      have hout : u.LeavesOut e := .inr (.inr (.inr (.inr (.inr (by rw [heref]; exact hheld)))))
      exact ((u.waits_iff e).1 hwaits).2 hout
    exact State.finishPublish_absent habsent

/-! ### What the changes of a record do to a run -/

/-- The run has ended, with the end states `states` (R118). -/
structure State.EndsRun (s t : State) (r : ActiveRun) (o : RunOutcome) (states : List EndState) : Prop where
  runs : t.run.runs = s.run.runs.filter fun x => x.ref ≠ r.ref
  endStates : t.run.endStates = states
  history : t.run.history = enterHistory s.run.history ⟨r.ref, o, some s.clk.counter, r.windowEnd⟩
  tun : t.tun = s.tun.set r.tuner (s.tun.get r.tuner).releaseStream
  stale : t.pln.stale = true
  notices : t.rep.notices = (s.post ⟨.stop, some r.tuner, o.detail, s.clk.counter, r.ref, (r.actualStart : Nat)⟩).rep.notices

theorem State.EndsRun.all {s t : State} {r : ActiveRun} {o : RunOutcome} {states : List EndState}
    (h : s.EndsRun t r o states) : t.run.runs = (s.run.runs.filter fun x => x.ref ≠ r.ref) ∧ t.run.endStates = states
      ∧ t.run.history = enterHistory s.run.history ⟨r.ref, o, some s.clk.counter, r.windowEnd⟩
      ∧ t.tun = s.tun.set r.tuner (s.tun.get r.tuner).releaseStream ∧ t.pln.stale = true
      ∧ t.rep.notices = (s.post ⟨.stop, some r.tuner, o.detail, s.clk.counter, r.ref, (r.actualStart : Nat)⟩).rep.notices :=
  ⟨h.runs, h.endStates, h.history, h.tun, h.stale, h.notices⟩

/-- The run goes on, under the record `r'` (R119, R120). -/
structure State.GoesOn (s t : State) (r r' : ActiveRun) (states : List EndState) : Prop where
  endStates : t.run.endStates = states
  runs : t.run.runs = s.run.runs.map fun x => if x.ref = r.ref then r' else x
  history : t.run.history = s.run.history
  tun : t.tun = s.tun
  rep : t.rep = s.rep
  pln : t.pln = s.pln

theorem State.GoesOn.all {s t : State} {r r' : ActiveRun} {states : List EndState} (h : s.GoesOn t r r' states) :
    t.run.endStates = states ∧ t.run.runs = (s.run.runs.map fun x => if x.ref = r.ref then r' else x)
      ∧ t.run.history = s.run.history ∧ t.tun = s.tun ∧ t.rep = s.rep ∧ t.pln = s.pln :=
  ⟨h.endStates, h.runs, h.history, h.tun, h.rep, h.pln⟩

/-- What the run engine still does when the run has been seen to: it reloads its channels and looks for a waiting entry. -/
def State.settle (s : State) (ref : Nat) : State := s.reloadRunChannels.waitingChange ref

theorem State.waitingOf_absent {s : State} {ref : Nat} (h : s.Absent ref) : s.waitingOf ref = none := by
  unfold State.waitingOf
  rw [List.find?_eq_none]
  exact fun w hw => by simpa using h w hw

theorem State.settle_absent {s : State} {ref : Nat} (h : s.Absent ref) :
    s.settle ref = { s with clk := s.reloadRunChannels.clk } := by
  have hnone : s.reloadRunChannels.waitingOf ref = none :=
    State.waitingOf_absent fun w hw => h w (by rw [State.reloadRunChannels_run] at hw; exact hw)
  unfold State.settle State.waitingChange
  rw [hnone]
  exact s.reloadRunChannels_clkOnly

theorem State.EndsRun.settle {s t : State} {r : ActiveRun} {o : RunOutcome} {states : List EndState} {ref : Nat}
    (h : s.EndsRun t r o states) (ha : t.Absent ref) : s.EndsRun (t.settle ref) r o states := by
  rw [State.settle_absent ha]
  exact ⟨h.runs, h.endStates, h.history, h.tun, h.stale, h.notices⟩

theorem State.GoesOn.settle {s t : State} {r r' : ActiveRun} {states : List EndState} {ref : Nat}
    (h : s.GoesOn t r r' states) (ha : t.Absent ref) : s.GoesOn (t.settle ref) r r' states := by
  rw [State.settle_absent ha]
  exact ⟨h.endStates, h.runs, h.history, h.tun, h.rep, h.pln⟩

/-- The run's record under another kind, beside the end states `states`: what a revised booking gives a run before it is judged
(R119, R125). -/
def State.rekeyed (s : State) (r : ActiveRun) (k : RunKind) (states : List EndState) : State :=
  { s with run := { s.run with
      runs := s.run.runs.map fun x => if x.ref = r.ref then { r with kind := k } else x, endStates := states } }

/-- Under the run law a run's own record is no other. -/
theorem State.RunLaw.map_own {s : State} (h : s.RunLaw) {r : ActiveRun} (hr : s.runOf r.ref = some r) :
    (s.run.runs.map fun x => if x.ref = r.ref then r else x) = s.run.runs := by
  refine (List.map_congr_left fun x hx => ?_).trans (List.map_id _)
  split
  · next href =>
    have hx := h.runOf hx
    rw [href, hr] at hx
    exact Option.some.inj hx
  · rfl

theorem State.RunLaw.rekeyed_own {s : State} (h : s.RunLaw) {r : ActiveRun} (hr : s.runOf r.ref = some r) :
    s.rekeyed r r.kind s.run.endStates = s := by
  unfold State.rekeyed
  rw [show ({ r with kind := r.kind } : ActiveRun) = r from rfl, h.map_own hr]

theorem State.RunLaw.absent {s : State} (h : s.RunLaw) {r : ActiveRun} (hr : s.runOf r.ref = some r) : s.Absent r.ref :=
  fun w hw => h.apart w hw r (List.mem_of_find?_eq_some hr)

/-- How a run goes on under a record with this service and start: it is cut, or it follows the window end, under the record `r'`
(R119, R120). -/
structure State.Follows (s t : State) (r r' : ActiveRun) (service start : Nat) (states natural : List EndState) : Prop where
  moved : service ≠ r.recService ∨ start ≠ r.recStart → s.EndsRun t r .cut states
  ended : service = r.recService → start = r.recStart → ∀ e, s.windowEndOf r = some e → e ≤ s.clk.counter →
    s.EndsRun t r r.naturalOutcome natural
  extended : service = r.recService → start = r.recStart → ∀ e, s.windowEndOf r = some e → s.clk.counter < e →
    s.GoesOn t r { r' with windowEnd := e } states
  kept : service = r.recService → start = r.recStart → s.windowEndOf r = none → s.GoesOn t r r' states

section
variable {s : State} (hrun : s.pln.snapshot.isSome = true) (hd : s.rst.deferred = none) (r : ActiveRun) (k : RunKind)
  (states : List EndState)
include hrun hd

/-- An end of the run, judged under another kind. -/
theorem State.rekeyed_ends (o : RunOutcome) :
    s.EndsRun ((s.rekeyed r k states).endRun State.trigger { r with kind := k } o s.clk.counter) r o
      (ActiveRun.endStatesAfter { r with kind := k } o states) := by
  have hfilter : ((s.run.runs.map fun x => if x.ref = r.ref then { r with kind := k } else x).filter fun x => x.ref ≠ r.ref)
      = s.run.runs.filter fun x => x.ref ≠ r.ref := by
    rw [List.filter_map]
    have hrefs (x : ActiveRun) : (decide ((if x.ref = r.ref then { r with kind := k } else x).ref ≠ r.ref))
        = decide (x.ref ≠ r.ref) := by
      by_cases hx : x.ref = r.ref <;> simp [hx]
    simp only [Function.comp_def, hrefs]
    refine (List.map_congr_left fun x hx => ?_).trans (List.map_id _)
    exact if_neg (by simpa using (List.mem_filter.1 hx).2)
  rw [State.endRun_ended (s := s.rekeyed r k states) (.inl hd), State.trigger_running _ (by rw [State.reloadRunChannels_pln, State.ended_eq]; exact hrun),
    State.reloadRunChannels_clkOnly, State.ended_eq]
  refine ⟨hfilter, rfl, rfl, rfl, rfl, ?_⟩
  rw [State.post_posted]
  rfl

/-- The record's service and start, and the window end it gives, decide how the run goes on (R119, R120). -/
theorem State.rekeyed_follows (hk : (s.rekeyed r k states).windowEndOf { r with kind := k } = s.windowEndOf r)
    (service start : Nat) :
    s.Follows ((s.rekeyed r k states).followRecord State.trigger { r with kind := k } service start) r { r with kind := k } service
      start states (ActiveRun.endStatesAfter { r with kind := k } r.naturalOutcome states) := by
  have hkept (hservice : service = r.recService) (hstart : start = r.recStart) :
      (s.rekeyed r k states).followRecord State.trigger { r with kind := k } service start
        = (s.rekeyed r k states).recomputeEnd State.trigger { r with kind := k } :=
    if_neg (by simp [hservice, hstart])
  refine ⟨fun hmoved => ?_, fun hservice hstart e he hle => ?_, fun hservice hstart e he hlt => ?_, fun hservice hstart hnone => ?_⟩
  · have hends := State.rekeyed_ends hrun hd r k states .cut
    rw [ActiveRun.endStatesAfter_cut] at hends
    rw [State.followRecord, if_pos hmoved]
    exact hends
  · rw [hkept hservice hstart, State.recomputeEnd, hk, he]
    dsimp only
    rw [if_pos (by exact hle)]
    exact State.rekeyed_ends hrun hd r k states r.naturalOutcome
  · rw [hkept hservice hstart, State.recomputeEnd, hk, he]
    dsimp only
    rw [if_neg (by exact Nat.not_le.2 hlt)]
    refine ⟨rfl, ?_, rfl, rfl, rfl, rfl⟩
    unfold State.setRun State.rekeyed
    dsimp only
    rw [List.map_map]
    refine List.map_congr_left fun x _ => ?_
    by_cases hx : x.ref = r.ref <;> simp [hx]
  · rw [hkept hservice hstart, State.recomputeEnd, hk, hnone]
    exact ⟨rfl, rfl, rfl, rfl, rfl, rfl⟩

end

/-- Whatever becomes of the run, its ref does not wait. -/
theorem State.rekeyed_absent {s : State} {sn : Snapshot} (hsn : s.pln.snapshot = some sn) {ref : Nat} (ha : s.Absent ref)
    (r : ActiveRun) (k : RunKind) (states : List EndState) (service start : Nat) :
    ((s.rekeyed r k states).followRecord State.trigger { r with kind := k } service start).Absent ref := by
  have hwanes : Wanes (s.rekeyed r k states) _ :=
    State.followRecord_wanes State.trigger_wanes (by exact hsn) { r with kind := k } service start
  exact hwanes.refs ref ha

theorem State.Follows.settle {s t : State} {r r' : ActiveRun} {service start : Nat} {states natural : List EndState} {ref : Nat}
    (h : s.Follows t r r' service start states natural) (ha : t.Absent ref) :
    s.Follows (t.settle ref) r r' service start states natural where
  moved hm := (h.moved hm).settle ha
  ended hv hs e he hle := (h.ended hv hs e he hle).settle ha
  extended hv hs e he hlt := (h.extended hv hs e he hlt).settle ha
  kept hv hs hn := (h.kept hv hs hn).settle ha

/-! ### The changes handed over -/

section
variable {s : State} {r : ActiveRun}

theorem State.bookingChange_gone (hr : s.runOf r.ref = some r) (trig : Trigger) (c : Change) :
    s.bookingChange trig r.ref c none = (s.runBookingChange trig r c none).settle r.ref := by
  unfold State.bookingChange
  dsimp only
  rw [hr]
  rfl

theorem State.bookingChange_held (hr : s.runOf r.ref = some r) (trig : Trigger) (c : Change) (b : BookingRec) :
    s.bookingChange trig r.ref c (some b) = ((s.clearEndState b).runBookingChange trig r c (some b)).settle r.ref := by
  have hr' : (s.clearEndState b).runOf r.ref = some r := hr
  unfold State.bookingChange
  dsimp only
  rw [hr']
  rfl

theorem State.eventChange_run {ev : Nat} (hr : s.runOf r.ref = some r) (href : r.ref = seriesRef ev) (trig : Trigger) (c : Change)
    (e : Option Event) : s.eventChange trig ev c e = (s.runEventChange trig r c e).settle r.ref := by
  unfold State.eventChange
  rw [← href, hr]
  rfl

/-- A booking's new or changed record rekeys the run and has it followed (R119, R125). -/
theorem State.runBookingChange_held (trig : Trigger) {c : Change} (hc : c ∈ [Change.new, .revised]) (b : BookingRec) :
    (s.clearEndState b).runBookingChange trig r c (some b) =
      (s.rekeyed r (.manual b.revision) (s.run.endStates.filter fun x => !(x.booking = b.id && x.revision < b.revision))).followRecord
        trig { r with kind := .manual b.revision } b.service b.start := by
  rcases List.mem_pair.1 hc with rfl | rfl <;> rfl

theorem State.runEventChange_held (trig : Trigger) {c : Change} (hc : c ∈ [Change.new, .revised]) (e : Event) :
    s.runEventChange trig r c (some e) = s.followRecord trig r e.service e.start := by
  rcases List.mem_pair.1 hc with rfl | rfl <;> rfl

/-- A waiting entry whose ref is not active leaves the list and is held back (R121). -/
theorem State.waitingChange_drops {s : State} {w : WaitingEntry} (hw : s.waitingOf w.ref = some w) :
    s.waitingChange w.ref = { s with
      run := { s.run with waiting := s.run.waiting.filter fun x => x.ref ≠ w.ref, changed := insertNat w.ref s.run.changed }
      clk := ((s.dropWaiting w.ref).holdBack w.ref).reloadRunChannels.clk } := by
  unfold State.waitingChange
  rw [hw]
  exact State.reloadRunChannels_clkOnly _

/-- The changes between two booking tables, by the record an id had and has (R20). -/
theorem State.mem_bookingChanges {before : List BookingRec} {id : Nat} {c : Change} {b : Option BookingRec} :
    (id, c, b) ∈ s.bookingChanges before ↔ b = s.booking id
      ∧ ((before.find? (fun x => x.id = id) = none ∧ s.booking id ≠ none ∧ c = .new)
        ∨ (before.find? (fun x => x.id = id) ≠ none ∧ s.booking id ≠ none ∧ before.find? (fun x => x.id = id) ≠ s.booking id
            ∧ c = .revised)
        ∨ (before.find? (fun x => x.id = id) ≠ none ∧ s.booking id = none ∧ c = s.bookingGone id)) := by
  have hlisted : before.find? (fun x => x.id = id) ≠ none ∨ s.booking id ≠ none →
      id ∈ natSet ((before ++ s.rst.tables.bookings).map BookingRec.id) := by
    have hfound {l : List BookingRec} (h : l.find? (fun x => x.id = id) ≠ none) : ∃ x ∈ l, x.id = id := by
      obtain ⟨x, hx⟩ := Option.ne_none_iff_exists'.1 h
      exact ⟨x, List.mem_of_find?_eq_some hx, by simpa using List.find?_some hx⟩
    rw [mem_natSet, List.mem_map]
    rintro (h | h)
    · obtain ⟨x, hx, hid⟩ := hfound h
      exact ⟨x, List.mem_append_left _ hx, hid⟩
    · obtain ⟨x, hx, hid⟩ := hfound h
      exact ⟨x, List.mem_append_right _ hx, hid⟩
  unfold State.bookingChanges
  dsimp only
  rw [List.mem_filterMap]
  constructor
  · rintro ⟨x, -, hx⟩
    split at hx
    · next x' hwas hnow =>
      obtain ⟨rfl, rfl, rfl⟩ : x = id ∧ Change.new = c ∧ some x' = b := by simpa using hx
      exact ⟨hnow.symm, .inl ⟨hwas, by rw [State.booking, hnow]; nofun, rfl⟩⟩
    · next x' y' hwas hnow =>
      split at hx
      · cases hx
      · next hne =>
        obtain ⟨rfl, rfl, rfl⟩ : x = id ∧ Change.revised = c ∧ some y' = b := by simpa using hx
        exact ⟨hnow.symm, .inr (.inl ⟨by rw [hwas]; nofun, by rw [State.booking, hnow]; nofun,
          by rw [State.booking, hwas, hnow]; simpa using hne, rfl⟩)⟩
    · next x' hwas hnow =>
      obtain ⟨rfl, rfl, rfl⟩ : x = id ∧ s.bookingGone x = c ∧ none = b := by simpa using hx
      exact ⟨hnow.symm, .inr (.inr ⟨by rw [hwas]; nofun, hnow, rfl⟩)⟩
    · cases hx
  · rintro ⟨rfl, hcase⟩
    unfold State.booking at hcase hlisted ⊢
    rcases hcase with ⟨hwas, hnow, rfl⟩ | ⟨hwas, hnow, hne, rfl⟩ | ⟨hwas, hnow, rfl⟩
    · obtain ⟨y, hy⟩ := Option.ne_none_iff_exists'.1 hnow
      exact ⟨id, hlisted (.inr hnow), by rw [hwas, hy]⟩
    · obtain ⟨x, hx⟩ := Option.ne_none_iff_exists'.1 hwas
      obtain ⟨y, hy⟩ := Option.ne_none_iff_exists'.1 hnow
      rw [hx, hy] at hne
      exact ⟨id, hlisted (.inr hnow), by rw [hx, hy]; exact if_neg (by simpa using hne)⟩
    · obtain ⟨x, hx⟩ := Option.ne_none_iff_exists'.1 hwas
      exact ⟨id, hlisted (.inl hwas), by rw [hx, hnow]⟩

end

/-- Settles O48: each change is followed by its own lemma, the rest of the work touches no run, and a held-back ref stays off the
waiting list at the publish. -/
theorem recordChangesReachTheRuns : Obligations.RecordChangesReachTheRuns := by
  unfold Obligations.RecordChangesReachTheRuns
  refine ⟨fun s before id c b => State.mem_bookingChanges, fun s r hs hd hlaw hr => ?_,
    fun s w c hw hnone => ⟨fun b => ?_, fun ev e href => ?_⟩, fun s t ref hc hw ht => ?_⟩
  · obtain ⟨sn, hsn⟩ := Option.isSome_iff_exists.1 hs
    have habsent := hlaw.absent hr
    have hown := hlaw.rekeyed_own hr
    have hstays : s.GoesOn (s.settle r.ref) r r s.run.endStates :=
      State.GoesOn.settle ⟨rfl, (hlaw.map_own hr).symm, rfl, rfl, rfl, rfl⟩ habsent
    refine ⟨fun v b hk => ⟨?_, ?_, fun hb c hc => ?_⟩, fun ev o v hk href => ⟨?_, ?_, fun c hc => ?_⟩⟩
    · have hends : s.EndsRun (s.endRun State.trigger r .cancelled s.clk.counter) r .cancelled
          (r.endStatesAfter .cancelled s.run.endStates) := by
        have hends := State.rekeyed_ends hs hd r r.kind s.run.endStates .cancelled
        rwa [hown] at hends
      have hwithdrawn : s.runBookingChange State.trigger r .withdrawn none
          = s.endRun State.trigger r .cancelled s.clk.counter := rfl
      rw [State.bookingChange_gone hr, hwithdrawn]
      have hdone := hends.settle ((State.endRun_wanes State.trigger_wanes hsn r _ _).refs _ habsent)
      rw [ActiveRun.endStatesAfter_manual (o := .cancelled) hk nofun] at hdone
      exact hdone.all
    · rw [State.bookingChange_gone hr]
      exact hstays.all
    · have hfollows := State.rekeyed_follows hs hd r (.manual b.revision)
        (s.run.endStates.filter fun x => !(x.booking = b.id && x.revision < b.revision))
        (by simp only [State.windowEndOf, hk]; rfl) b.service b.start
      rw [ActiveRun.endStatesAfter_manual rfl r.naturalOutcome_ne_cut] at hfollows
      have hdone := hfollows.settle (State.rekeyed_absent hsn habsent r _ _ b.service b.start)
      rw [State.bookingChange_held hr, State.runBookingChange_held _ hc]
      refine ⟨fun hm => ?_, fun hv hst => ⟨fun e he hle => ?_, fun e he hlt => ?_, fun hn => ?_⟩⟩
      · exact (hdone.moved hm).all
      · exact (hdone.ended hv hst e he hle).all
      · exact (hdone.extended hv hst e he hlt).all
      · exact (hdone.kept hv hst hn).all
    · rw [State.eventChange_run hr href]
      exact hstays.all
    · rw [State.eventChange_run hr href]
      exact hstays.all
    · have hfollows := State.rekeyed_follows hs hd r r.kind s.run.endStates (by rw [hown]) v.service v.start
      rw [hown, ActiveRun.endStatesAfter_series hk] at hfollows
      have hdone := hfollows.settle (ref := r.ref)
        ((State.followRecord_wanes State.trigger_wanes hsn r v.service v.start).refs _ habsent)
      rw [State.eventChange_run hr href, State.runEventChange_held _ hc]
      refine ⟨fun hm => ?_, fun hv hst => ⟨fun e he hle => ?_, fun e he hlt => ?_, fun hn => ?_⟩⟩
      · exact (hdone.moved hm).all
      · exact (hdone.ended hv hst e he hle).all
      · exact (hdone.extended hv hst e he hlt).all
      · exact (hdone.kept hv hst hn).all
  · cases b with
    | some b =>
      have hchange : s.bookingChange State.trigger w.ref c (some b) = (s.clearEndState b).waitingChange w.ref := by
        have hnone' : (s.clearEndState b).runOf w.ref = none := hnone
        unfold State.bookingChange
        dsimp only
        rw [hnone']
      rw [hchange, State.waitingChange_drops (by exact hw)]
      exact ⟨rfl, (mem_insertNat _ _ _).2 (.inl rfl), rfl, rfl, rfl, rfl, rfl⟩
    | none =>
      have hchange : s.bookingChange State.trigger w.ref c none = s.waitingChange w.ref := by
        unfold State.bookingChange
        dsimp only
        rw [hnone]
      rw [hchange, State.waitingChange_drops hw]
      exact ⟨rfl, (mem_insertNat _ _ _).2 (.inl rfl), rfl, rfl, rfl, rfl, rfl⟩
  · have hchange : s.eventChange State.trigger ev c e = s.waitingChange w.ref := by
      unfold State.eventChange
      rw [← href, hnone]
    rw [hchange, State.waitingChange_drops hw]
    exact ⟨rfl, (mem_insertNat _ _ _).2 (.inl rfl), rfl, rfl, rfl, rfl, rfl⟩
  · change ((s.powered fun u => u.publish.dormantTest) |> Host.Outcome.next) = .next t at ht
    rw [← Host.Outcome.next.inj ht, State.powered]
    split
    · have hpublished : s.clearPorts.publish.Absent ref := State.publish_absent hw hc
      rw [beyondSleep_run (State.dormantTest_beyondSleep _)]
      exact hpublished
    · exact hw

end Sys2Proof.Machine

/-! PROOFS. A change of the configuration (1.8): a later verification of the anchor out of a state that keeps the laws named, and
that changes a record table. -/

namespace Sys2Proof.Machine

/-! ### A schedule mirror that reaches into the anchor sector

No law bounds the offsets of the schedule mirror's cells. A link record whose address lies in the anchor sector is doubtful while the
anchor is a member of the verify set, and enters its table when the anchor is verified. -/

/-- A link record, id 5, at offset FEF000h: at the anchor, for a schedule partition at 010000h of 16 MiB. -/
def overlaidLink : Memory :=
  [(0xFEF000, 0x3F), (0xFEF001, 0x03), (0xFEF002, 0x05), (0xFEF003, 0x00), (0xFEF004, 0x00), (0xFEF005, 0x00), (0xFEF006, 0x04),
    (0xFEF007, 0x01), (0xFEF008, 0x15), (0xFEF009, 0x00), (0xFEF00B, 0x05), (0xFEF00C, 0x02), (0xFEF00D, 0x4E), (0xFEF00E, 0x44)]

/-- The anchor being read for a later verification, with time UNSET. -/
def overlaidStart : State :=
  { State.reset with
    fpx := { Fpx.afterReset with scan := .reading 0xFFF000 .mirror }
    rst := { Rst.afterReset .mib16 with
      schedule := overlaidLink, adopted := true, verify := [0xFFF000]
      inForce := { (Rst.afterReset .mib16).inForce with layout := ⟨some 0x10000, some 0x100000, 2, 0xFE0000⟩ } } }

/-- A blank anchor sector. -/
def blankAnchor : List Byte := List.replicate 4096 0xFF

/-- The state its verification answers. -/
def overlaidVerified : State :=
  match exec (.mirrorSectorVerify blankAnchor) overlaidStart with
  | .next t => t
  | _ => overlaidStart

theorem exec_overlaidStart : exec (.mirrorSectorVerify blankAnchor) overlaidStart = .next overlaidVerified := rfl

theorem overlaidStart_layoutLaw : overlaidStart.LayoutLaw where
  layout := .inr ⟨0x10000, 0x100000, 2, 0xFE0000, rfl, by decide⟩
  scan x h := by rcases h with h | h <;> cases h

theorem overlaidStart_tablesLaw : overlaidStart.TablesLaw where
  services := by decide +kernel
  bookings := by decide +kernel
  links := by decide +kernel
  marks := by decide +kernel
  leftOut := by decide +kernel

theorem overlaidVerified_links : overlaidVerified.rst.tables.links.length = 1 := by decide +kernel

/-- Refutes O47: the later verification enters the overlaid link in its table. -/
theorem not_configurationChangesGroupByGroup : ¬ Obligations.ConfigurationChangesGroupByGroup := by
  intro h
  obtain ⟨hverify, -⟩ := h overlaidStart rfl rfl overlaidStart_layoutLaw overlaidStart_tablesLaw rfl (.inr rfl)
  obtain ⟨t, ht, -, htables, -⟩ := hverify blankAnchor rfl List.length_replicate
  have heq : overlaidVerified = t := Host.Outcome.next.inj (exec_overlaidStart.symm.trans ht)
  have hlinks := overlaidVerified_links
  rw [heq, htables] at hlinks
  cases hlinks

end Sys2Proof.Machine
